-- ==== Sys2Proof/Word.lean ====
section
/-! DEFINITION. The word types of R4 and R5 and their plainest readings. -/

namespace Sys2Proof

/-- 8 bits (R4). -/
abbrev Byte := BitVec 8
/-- 16 bits; a switch word (R4). -/
abbrev Half := BitVec 16
/-- 32 bits; an instruction word, an operation word, a lane (R4). -/
abbrev W32 := BitVec 32
/-- 64 bits, the double of R4: a sequencer register. -/
abbrev Word := BitVec 64

/-- `trunc(x, n)` of R11: x modulo 2^n. -/
def trunc (n : Nat) (x : Int) : BitVec n := BitVec.ofInt n x

end Sys2Proof
end

