-- ==== Sys2Proof/Syntax.lean ====
section
/-! DEFINITION. Every operation and event of the part's table (spec/opcode_table.json), one constructor a row. -/

namespace Sys2Proof

/-- A sequencer register number s0 to s31 (R101). -/
abbrev Reg := BitVec 5
/-- A pennant number pn0 to pn7 (R105). -/
abbrev Pen := BitVec 3

/-- What causes a module reset (R470, R482). -/
inductive ResetCause where
  | powerOn | cxl | modReset
  deriving DecidableEq, Repr

/-- What trips the thermal and power reset (R482). -/
inductive TripCause where
  | junction (die : Nat) | inputVoltage
  deriving DecidableEq, Repr

/-- Trained width of the host link (R471). -/
inductive LinkWidth where
  | x16 | x8 | x4
  deriving DecidableEq, Repr

/-- PLDM sensors (R483). -/
inductive Sensor where
  | inputPower | inputVoltage | coolantTemp
  | junctionTemp (die : Nat) | clockStep (die : Nat) | modErr
  | logEntry (n : Nat)        -- an entry of the sideband log by its number (R484)
  deriving DecidableEq, Repr

/-- A memory access of an outside party: `size` bytes read, or bytes written. -/
inductive MemOp where
  | read (size : Nat) | write (data : List Byte)
  deriving DecidableEq, Repr

/-- A far module's answer to one remote access (R327). -/
inductive RemoteAnswer where
  | ok (data : List Byte) | refused | noAnswer
  deriving DecidableEq, Repr

/-- A unit of a core that holds tokens or slots (R22, R455). -/
inductive UnitId where
  | site (x y : Nat) | mn (x : Nat) | me (y : Nat) | sp (x : Nat) | exit (i : Nat) | nu | nd
  deriving DecidableEq, Repr

/-- The edge units that take a successor's records in a splice (R181). -/
inductive EdgeUnit where
  | mn (x : Nat) | opList | relay
  deriving DecidableEq, Repr

/-- One operation or event of the part. Register, immediate and selector fields are the bit fields of the encoding
(R101, R107, R114, R117); the indexes of events are plain numbers. Events of a core act on the core whose turn it is. -/
inductive Instr where
  -- module, host and launch-unit events
  | moduleReset (cause : ResetCause)
  | hostLinkTrain (width : LinkWidth)
  | registerWrite (off : Nat) (v : Word)
  | luCtlWrite (v : Word)
  | homeMapWrite (n : Nat) (v : Word)
  | homeMapDepopulate (n : Nat) (v : Word)
  | hsWcfgWrite (slice : Nat) (v : Word)
  | luFconsWrite (v : Word)
  | modClkWrite (v : Word)
  | clockStepApply (die : Nat)
  | create (ctx : Nat)
  | teardown (ctx : Nat)
  | save (ctx : Nat)
  | restore (ctx : Nat)
  | answer (ctx : Nat)
  | shootdown (ctx : Nat)
  | grantSet (arg : BitVec 56)
  | grantRead (arg : BitVec 56)
  | grantClear (arg : BitVec 56)
  | attest (mctp : Bool) (arg : BitVec 56) (nonce : List Byte)
  | idkey (mctp : Bool) (arg : BitVec 56)
  | logRead (mctp : Bool) (arg : BitVec 56)
  | pldmSensorRead (sensor : Sensor) (reading : Word)
  | pldmFirmwareUpdate (image : List Byte)
  | hostCxlMemRead (pa size : Nat)
  | hostCxlMemWrite (pa : Nat) (data : List Byte)
  | hostCacheInvalidation (pa : Nat) (data : List Byte)
  | halyardInboundAccess (port : Nat) (addr : Word) (op : MemOp)
  | halyardFlitRetry (port : Nat)
  | halyardPortDown (port : Nat)
  | remoteAck (gen : Nat) (ans : RemoteAnswer)
  | powerAvgLimit (hottest : List Nat)
  | thermalStep (die : Nat)
  | thermalTrip (cause : TripCause)
  | unchargedMemoryError (die : Nat)
  | queueTailWake (q : Nat)
  | queueRecordCopy (q : Nat)
  | dependenceWake (launch dep : Nat)
  | launchComplete (launch : Nat)
  | siteSave (x y : Nat)
  | contextRestore (ctx : Nat)
  | watchSweep (slice : Nat)
  | watchTimeout (slice idx : Nat)
  | watchSpillMove (slice idx : Nat)
  | wakeDeliver (idx : Nat)
  | cfgFetchWake (cmd : Nat)
  | siteTakeSuccessor (x y : Nat)
  | edgeUnitTakeSuccessor (unit : EdgeUnit)
  | generatorExtentWalk (gen : Nat)
  | generatorRepatch (gen : Nat)
  | phaseEnd (region : Nat)
  | faultReplay (idx : Nat)
  | commandComplete (cmd : Nat)
  | linkTokenSend (unit : UnitId) (port : Nat)
  | tokenMatch (unit : UnitId) (idx : Nat)
  | veSlotFire (x y : Nat)
  | roundMarkerArrival (unit : UnitId) (chan : Nat)
  | accTake (x y idx : Nat)
  | stopToken (unit : UnitId) (idx : Nat)
  | loopRoundSignal (region : Nat)
  | controlTokenApply (x y idx : Nat)
  | exitPortFire (port : Nat)
  | mnLanePerform (bank idx : Nat)
  | bankEvict (bank idx : Nat)
  | bankPrefetch (bank pa : Nat)
  | mfenceComplete (idx : Nat)
  | suHoldingAccess (unit idx : Nat)
  | cbRequestServe (cb : Nat) (consumer : Bool)
  | streamDispatch (gen : Nat)
  | generatorElement (gen : Nat)
  | loadPortEmit (gen : Nat)
  | storePortConsume (port : Nat)
  | streamComplete (gen : Nat)
  | sxBarComplete (cmd : Nat)
  | mcastStallBudget (gen : Nat)
  | tilePortRead (y : Nat)
  | capBindingDone (cmd : Nat)
  | capBagResult (cmd : Nat)
  | capRowUpdate (cmd : Nat)
  | scanCombine (tag : Nat)
  | illegalInstruction (w : W32)
  -- sequencer instructions
  | add (d a b : Reg) | sub (d a b : Reg) | and (d a b : Reg) | or (d a b : Reg) | xor (d a b : Reg)
  | andn (d a b : Reg) | sll (d a b : Reg) | srl (d a b : Reg) | sra (d a b : Reg)
  | slt (d a b : Reg) | sltu (d a b : Reg) | seq (d a b : Reg)
  | min (d a b : Reg) | minu (d a b : Reg) | max (d a b : Reg) | maxu (d a b : Reg)
  | clz (d a : Reg) | ctz (d a : Reg) | popc (d a : Reg)
  | mul (d a b : Reg) | mulh (d a b : Reg) | mulhu (d a b : Reg) | mulhsu (d a b : Reg)
  | div (d a b : Reg) | divu (d a b : Reg) | rem (d a b : Reg) | remu (d a b : Reg)
  | csrr (d : Reg) (c : BitVec 8) | csrw (d a : Reg) (c : BitVec 8)
  | csrs (d a : Reg) (c : BitVec 8) | csrc (d a : Reg) (c : BitVec 8)
  | addi (d a : Reg) (i : BitVec 16) | andi (d a : Reg) (i : BitVec 16) | ori (d a : Reg) (i : BitVec 16)
  | xori (d a : Reg) (i : BitVec 16) | slti (d a : Reg) (i : BitVec 16) | sltiu (d a : Reg) (i : BitVec 16)
  | lui (d : Reg) (i : BitVec 16)
  | slli (d a : Reg) (n : BitVec 6) | srli (d a : Reg) (n : BitVec 6) | srai (d a : Reg) (n : BitVec 6)
  | lb (d a : Reg) (i : BitVec 16) | lbu (d a : Reg) (i : BitVec 16) | lh (d a : Reg) (i : BitVec 16)
  | lhu (d a : Reg) (i : BitVec 16) | lw (d a : Reg) (i : BitVec 16) | lwu (d a : Reg) (i : BitVec 16)
  | ld (d a : Reg) (i : BitVec 16)
  | stb (d a : Reg) (i : BitVec 16) | sth (d a : Reg) (i : BitVec 16) | stw (d a : Reg) (i : BitVec 16)
  | std (d a : Reg) (i : BitVec 16)
  | beq (a b : Reg) (o : BitVec 16) | bne (a b : Reg) (o : BitVec 16) | blt (a b : Reg) (o : BitVec 16)
  | bge (a b : Reg) (o : BitVec 16) | bltu (a b : Reg) (o : BitVec 16) | bgeu (a b : Reg) (o : BitVec 16)
  | j (o : BitVec 26) | jal (o : BitVec 26) | jalr (d a : Reg) (i : BitVec 16)
  | fence (s : BitVec 3) | trap (n : BitVec 8) | waitp (m : BitVec 8)
  | cfgFetch (d a b : Reg) (p : Pen) | cfgPlace (d a b : Reg) (p : Pen) | cfgStitch (d a b : Reg) (p : Pen)
  | cfgStart (d a b : Reg) | cfgSplice (d a b : Reg) (p : Pen) | cfgDrain (d a : Reg) (p : Pen)
  | cfgEvict (d a : Reg) | cfgPatch (d a b : Reg) | cfgInv (d a b : Reg) (p : Pen)
  | sxBind (d a b : Reg) (p : Pen) | sxGo (d a : Reg) | sxBar (d a : Reg) (p : Pen)
  | sxMcast (d a b : Reg) (p : Pen) | sxStop (d a : Reg) | sxQuery (d a : Reg)
  | sxSparse (d a b : Reg) (p : Pen) | sxRemote (d a b : Reg) (p : Pen) | sxWbload (d a b : Reg) (p : Pen)
  | sxTile (d a b : Reg) (p : Pen)
  | mxZero (d a : Reg) (p : Pen) | mxMove (d a : Reg) (p : Pen) | mxLdsh (d a b : Reg) (p : Pen)
  | mxLdwd (d a b : Reg) (p : Pen) | mxTag (d a : Reg)
  | bsQuery (d a : Reg) | bsSeed (d a b : Reg) | bsPolicy (d a b : Reg) | bsUniform (d a : Reg)
  | bsRound (d a : Reg) (p : Pen)
  | amo (d a b : Reg) (o t : BitVec 3)
  | waitu (d a b : Reg) | wcancel (d a b : Reg) | cpin (d a : Reg) | cunpin (d a : Reg)
  | embPool (d a b : Reg) (p : Pen) | embGather (d a b : Reg) (p : Pen) | embScatadd (d a b : Reg) (p : Pen)
  | nbDrain (d : Reg) (p : Pen)
  | ctxYield (d : Reg) | ctxMark (d : Reg) | ctxFault (d a b : Reg)
  -- operation words of scratchpad units (class 001)
  | scld (d a t w : BitVec 3) | scst (d a b t w : BitVec 3)
  | scamoAdd (d a b t w : BitVec 3) | scamoMin (d a b t w : BitVec 3) | scamoMax (d a b t w : BitVec 3)
  | scamoAnd (d a b w : BitVec 3) | scamoOr (d a b w : BitVec 3) | scamoXor (d a b w : BitVec 3)
  | scamoSwap (d a b w : BitVec 3) | scamoCas (d a b c w : BitVec 3)
  | cbput (d a : BitVec 3) | cbget (d a : BitVec 3) | cbadv (d a : BitVec 3) (m : BitVec 1)
  | cbwait (d a : BitVec 3) (m : BitVec 1)
  | mtfill (d a b t : BitVec 3) | mttag (d : BitVec 3)
  -- operation words of memory nodes (class 010)
  | mld (d a t s : BitVec 3) | mst (d a b t s : BitVec 3) | mldNc (d a t s : BitVec 3)
  | mstNc (d a b t s : BitVec 3) | mgath (d a t s : BitVec 3) | mscat (d a b t s : BitVec 3)
  | mfence (d k s : BitVec 3) | mflush (d a s : BitVec 3) | minv (d a s : BitVec 3)
  | mamoAdd (d a b t s : BitVec 3) | mamoMin (d a b t s : BitVec 3) | mamoMax (d a b t s : BitVec 3)
  | mamoAnd (d a b s : BitVec 3) | mamoOr (d a b s : BitVec 3) | mamoXor (d a b s : BitVec 3)
  | mamoSwap (d a b s : BitVec 3) | mamoCas (d a b c s : BitVec 3)
  | mwaitu (a b c k : BitVec 3) (w : BitVec 1) (s : BitVec 3)
  -- matrix and relay operation words (classes 011, 100)
  | mxMma (a : BitVec 6) (g h w : BitVec 4) (n b z c k : BitVec 1)
  | mxMmas (a : BitVec 6) (g h w : BitVec 4) (n b z c k : BitVec 1)
  | nbScan (t : BitVec 3) (s : BitVec 1) (m : BitVec 3)
  -- switch words
  | swRoute (i o n : BitVec 3) | swFork (i n : BitVec 3) (m : BitVec 6) | swMerge (i o j n : BitVec 3)
  | swGate (i o b n : BitVec 3) | swSteer (i t : BitVec 3) (u : BitVec 1) (f : BitVec 3) (l : BitVec 2)
  | swBound (i o s n : BitVec 3) | swNull (i o : BitVec 3) (p : BitVec 2) (n : BitVec 3)
  | swSink (i : BitVec 3) | swSrc (o q n : BitVec 3) | swCtl (i : BitVec 3) | swOrd (i o n : BitVec 3)
  -- further events
  | sequencerFetch (ahead : Nat)
  | firmwareMemoryAccess (pa : Nat) (op : MemOp)
  -- operations and events without fields
  | trustBoot | qsync | powerFastLimit | launchPick | launchStart | chainedCohortStart
  | cohortRetire | faultRingWrite | sequencerSave | coreSaved | threadWake | coreQuiescent
  | bsDecision | bsInjectRun | roundPoint | mxFireComplete | nuReceive | ndEndMark
  | ifence | tret | kend | mord | nbFwd | coreCycle
  deriving DecidableEq, Repr

end Sys2Proof
end

