-- ==== Sys2Proof/Machine/State.lean ====
section
/-! DEFINITION. The state of the module as plain data (INVENTORY.md, '## State'), its fault and refusal names, and the
state right after module reset (R470). Cores, slices, contexts and queues that hold only reset values are not listed. -/

namespace Sys2Proof.Machine

/-- A sparse map: entries at rising keys; a key that is not listed holds the map's default. -/
abbrev SMap (α : Type) := List (Nat × α)
/-- Bytes by address in canonical form: addresses rising, no listed byte zero; an unlisted byte reads 0 (R470). -/
abbrev Mem := List Host.Cell

/-- Why a step stops. -/
inductive Fault where
  /-- Raised by an event that names a unit the part does not have (R16 to R22). Safe: no such event happens. -/
  | noSuchUnit
  deriving DecidableEq, Repr

/-- Why a step has no meaning. -/
inductive Refusal where
  /-- Raised by an arm of exec that has no meaning yet. Safe: the step answers nothing. -/
  | notModelled (mnemonic : String)
  deriving DecidableEq, Repr

/-- One lane of a token: its value and its null bit (R198). -/
structure Lane where
  v : W32
  null : Bool
  deriving DecidableEq, Repr

/-- Token kinds (R119). -/
inductive TokKind where
  | run | packed | marker | stop | control | preempt | wavefront | ordering
  deriving DecidableEq, Repr

/-- A token (R119, R198, R199): `tags` lists a run's or an ordering token's threads, `lanes` one lane each (sixteen for a
control token). `place` is the placement whose census counts it (R219). -/
structure Tok where
  kind : TokKind
  slot : Nat
  round : BitVec 8
  frame : BitVec 8
  ctx : Nat
  level : Nat
  tags : List Nat
  lanes : List Lane
  place : Nat
  deriving DecidableEq, Repr

/-- A slot of a site or of a memory node as loaded (R164): words, constants, control word, LFSR (R55), loss count (R205). -/
structure Slot where
  en : Bool
  nst : Nat
  stages : List W32
  k0 : W32
  k1 : W32
  ctl : W32
  sw : List Half
  lfsr : Half
  loss : Nat
  idents : List (Nat × W32) := []  -- by input port, the identity that a `sw.null` word was given at placement (R209)
  bounds : List (Nat × Nat) := []  -- by input port, the direction of a `sw.bound` word: 1 outward, 2 inward (R212)
  unfed : Bool := false            -- a stateful node with an input in use that no word feeds (R216)
  deriving DecidableEq, Repr

/-- A token waiting in a matching store at input `inp` of slot `slot` (R206). -/
structure Waiting where
  slot : Nat
  inp : Nat
  tok : Tok
  deriving DecidableEq, Repr

/-- A matched set ready to fire: the tokens of the inputs in use, cut to the fired tags (R207, R208). At a memory node `run`
numbers the accepted run that a piece comes from, and `cnt` is the number of tokens the census counts for it (R219, R290). -/
structure Fire where
  slot : Nat
  toks : List Tok
  run : Nat := 0
  cnt : Nat := toks.length
  exits : List (Nat × Nat) := []  -- exit port: by tag, the slot of its exit token, where they differ (R208, R359)
  acts : List Nat := []       -- a parked piece: the tags whose lanes access memory (R290, R300)
  deriving DecidableEq, Repr

/-- A marker, wavefront or pre-emption marker that arrived on channel `chan` and has not yet left by `cons` (R215, R221,
R460). Channels and consumers: 0 to 3 links N E S W, 8 + n unit slot n, 16 + k region source k. -/
structure Mark where
  kind : TokKind
  chan : Nat
  cons : Nat
  round : BitVec 8
  deriving DecidableEq, Repr

/-- An accumulator, or an owner node's count, of one round of a slot (R71, R216, R274). -/
structure Acc where
  slot : Nat
  round : BitVec 8
  frame : BitVec 8
  ctx : Nat
  place : Nat
  vals : List W32
  count : Nat
  res : Option W32 := none    -- the sum, rounded at its region's phase end, with its flags raised (R67)
  deriving DecidableEq, Repr

/-- What the tokens of one unit stand in: site, memory node or tile port. -/
structure FUnit where
  place : Nat                 -- the placement whose words it holds; 0 none
  slots : SMap Slot
  inq : SMap (List Tok)       -- input ports 0 to 3, 4 local (unit results), 5 loop (R197, R283)
  out : SMap Tok              -- output ports 0 to 3: the token waiting to cross
  unitq : List Waiting        -- tokens handed to a slot, not yet taken
  side : List (Nat × Tok)     -- control tokens at the side input with their port (R251)
  store : List Waiting        -- matching store (R206)
  ready : List Fire
  marks : List Mark
  accs : List Acc
  last : Nat                  -- the rotation's last winner (R205)
  arb : SMap (List Nat)       -- per output port: last winner, then one loss count an input (R205)
  sent : List (Nat × Nat) := []  -- (channel, port): copies of the channel's first token that have already left (R205, R209)
  saved : Bool                -- saved in the save in progress (R460)
  deriving DecidableEq, Repr

/-- Region phases (R167); FREE is the absence of a region. -/
inductive Phase where
  | live | closed | splicing
  deriving DecidableEq, Repr

/-- What an edge port is stitched to (R177). -/
inductive Target where
  | entry (i : Nat) | exit (i : Nat) | nu | nd | region (g ep : Nat)
  deriving DecidableEq, Repr

/-- One source of a region (R213): its edge port, its round, tokens made and not yet taken by `sw.src`. -/
structure Source where
  ep : Nat
  round : BitVec 8
  done : Bool
  q : List Tok
  marked : Bool               -- looped region: the current round is marked (R218)
  turns : Nat := 0            -- rounds it has closed: its round, not reduced modulo 256 (R214)
  waved : Bool := false       -- the wavefront of a splice has entered behind its final round marker (R221)
  deriving DecidableEq, Repr

/-- One configuration of a region, from its macro header (R163, R165). -/
structure Config where
  place : Nat
  block : Nat
  scope : Nat
  x0 : Nat
  y0 : Nat
  w : Nat
  h : Nat
  anchor : BitVec 4
  edges : List W32
  livein : BitVec 256
  liveout : BitVec 256
  launch : Nat                -- launch of the cohort whose command placed it
  nd : W32 := 0               -- op word of nd in its relay record; zero without one (R428)
  deriving DecidableEq, Repr

/-- The words a splice still has to load (R181, R460): the image's bytes, the resolved DEF mode, the pennant's command. -/
structure Splice where
  cfg : Config
  img : List Byte
  mode : Nat
  census : BitVec 24
  cmd : Nat
  units : List EdgeUnit       -- edge units that have not yet taken their records
  deriving DecidableEq, Repr

/-- A region (R167). -/
structure Region where
  phase : Phase
  cfg : Config
  census : BitVec 24
  sources : List Source
  stitches : SMap Target
  drained : Bool              -- cfg.drain or cfg.splice has closed it
  looped : Bool
  depth : Nat                 -- looped: the next depth to signal (R218)
  signalling : Bool
  succ : Option Splice
  deriving DecidableEq, Repr

/-- Sequencer activity states (R133). -/
inductive SeqSt where
  | idle | run | wait | stall | done | dead | saved
  deriving DecidableEq, Repr

/-- The sequencer of a core (R132 to R143). -/
structure Seq where
  pc : Word
  regs : Vector Word 32
  st : SeqSt
  held : SeqSt                -- the state held at a save (R161)
  th : Bool
  pf : BitVec 8
  pn : List Nat               -- the eight pennant counts
  cause : Word
  epc : Word
  tvec : Word
  cycle : Word
  ctxReg : Word
  cohReg : Word
  fpdef : BitVec 3
  sel : BitVec 4
  ibuf : SMap W32             -- instruction buffer by word address (R143)
  itlb : List (Nat × Nat × Nat)  -- fetch translations: page base, page size, physical base (R189)
  waitu : Option (Nat × Bool)    -- waitu in progress: rd and W (R406)
  deriving DecidableEq, Repr

/-- A cohort on a core (R453). -/
structure Cohort where
  ctx : Nat
  launch : Nat
  lid : W32
  dg : Nat
  cg : Nat
  coh : Nat
  nthr : Nat
  live : Nat
  root : Nat
  windows : List Word
  bufs : List Word
  segs : List Word
  bankMap : Word
  started : Bool
  fatal : Bool
  chain : Nat                 -- cohorts in the chain (1 when unchained)
  pos : Nat                   -- chain position
  nuUsed : Bool               -- the head's nu has been stitched once (R429, R432)
  deriving DecidableEq, Repr

/-- Phases of a command: issued, in progress, waiting for an answer to a parked fault, for a wake, finished. -/
inductive CmdPhase where
  | issued | running | parked | watching | finished
  deriving DecidableEq, Repr

/-- An engine command issued by the sequencer, or a demand request of the block scheduler (R29, R105). -/
structure Cmd where
  id : Nat
  op : Instr
  ops : List Word             -- operands 1 to 7 read at issue
  rd : Reg
  rdWait : Bool               -- rd not yet written
  pen : Option Nat
  mode : Nat                  -- SQ_FPDEF at issue (R56)
  phase : CmdPhase
  record : Bool               -- a record that sets PF was written (R158)
  value : Word                -- loader: the watched word's address, then the value of its wake
  prev : Bool                 -- issued by the predecessor of a chained start
  deriving DecidableEq, Repr

/-- A parked fault (R187, R193): who waits. -/
inductive Parker where
  | sequencer | piece (mn : Nat) (fire : Fire) | generator (g : Nat) | command (id : Nat) | directory (block : Nat)
  deriving DecidableEq, Repr

/-- A parked fault: its record's SEQ, the waiter, the address, access; `answer` 0 none, 1 replay, 2 cancel. -/
structure Parked where
  seq : W32
  who : Parker
  va : Word
  inRing : Bool
  answer : Nat
  deriving DecidableEq, Repr

/-- One request of a flight at a holding unit, a bank or home: the access a lane makes. -/
structure Access where
  flight : Nat
  lane : Nat
  tag : Nat
  addr : Nat                  -- scratchpad {rank, offset} or physical address
  size : Nat
  data : W32
  cmp : W32
  run : Nat := 0              -- memory node: the accepted run (R90)
  deriving DecidableEq, Repr

/-- A firing of a scratchpad unit or memory node whose lanes have not all performed. -/
structure Flight where
  id : Nat
  unit : UnitId
  slot : Nat
  op : Instr
  fire : Fire
  acting : List Nat           -- positions of the acting lanes
  res : List Lane             -- the result lanes, filled as lanes perform
  left : Nat                  -- lanes that have not performed
  cancelled : Bool
  owes : Bool := false        -- its ordering token waits for lanes at the crossbar (R285)
  deriving DecidableEq, Repr

/-- A fence in progress (R265, R300): the accepted runs of memory nodes, and the firings of scratchpad units, whose accesses it
waits for. -/
structure FenceW where
  flight : Nat
  waits : List Nat
  fatal : Bool
  deriving DecidableEq, Repr

/-- A sector of a cache bank (R82): filled bit, clean bytes, dirty bytes by offset. -/
structure Sector where
  filled : Bool
  clean : List Byte
  dirty : SMap Byte
  deriving DecidableEq, Repr

/-- A TLB entry (R289): page base, size, physical base, permissions, DT copy. -/
structure Tlb where
  va : Nat
  size : Nat
  pa : Nat
  rd : Bool
  wr : Bool
  ex : Bool
  dt : Bool
  used : List Nat := []       -- physical 64 KiB ranges that demand accesses reached through it (R302)
  deriving DecidableEq, Repr

/-- A memory node and its bank (R282 to R294). -/
structure Node where
  u : FUnit
  tlb : List Tlb
  compare : List Access
  cross : List Access := []   -- lanes held at the crossbar, on their way to this bank's queue (R292, R294)
  arrived : List (Nat × Nat) := []  -- lanes (flight, position) that have reached the bank, in order (R292; log entry 92)
  sectors : SMap Sector       -- by sector number, pa / 128
  deriving DecidableEq, Repr

/-- One circular buffer's home (R276, R277): pointers, and the queued flights. -/
structure Cb where
  rp : W32
  vp : W32
  cp : W32
  prod : List Nat
  cons : List Nat
  deriving DecidableEq, Repr

/-- Generator states (R306). -/
inductive GenSt where
  | free | held | queued | running | paused | parked | ending
  deriving DecidableEq, Repr

/-- An extent of a generator (R188): va, size, pa, valid mark. -/
structure Extent where
  va : Nat
  size : Nat
  pa : Nat
  rd : Bool
  wr : Bool
  ex : Bool
  ok : Bool
  last : Option Nat           -- elements produced when the generator last used it
  deriving DecidableEq, Repr

/-- An address generator (R305): its record copy, position, extents, decoupling queue. -/
structure Gen where
  st : GenSt
  cmd : Nat
  fn : Nat                    -- function code of the binding command (R320)
  rcd : List Word
  ports : List Nat
  fin : Bool
  pos : Nat                   -- next element
  loaded : List (Option W32)  -- values of the run being gathered (none: null)
  loaded2 : List (Option W32) -- coordinates (sparse)
  doneN : Nat                 -- elements produced
  q : List Tok                -- decoupling queue
  q2 : List Tok               -- coordinate port's tokens (sparse)
  extents : List Extent
  stall : Nat
  stallAt : Nat               -- the lowest port that held the stream up when the counter last rose (R323)
  budget : Nat
  arg : Word                  -- remote address, weight offset or tile area
  port : Nat                  -- halyard port
  tagFull : Bool
  stopped : Bool
  bars : List Nat             -- barriers that hold it (R321)
  waitAck : Bool              -- a remote access awaits its acknowledgement (R327)
  slice : Nat                 -- sparse: slice, column, row
  col : Nat
  row : Nat
  header : Option (Nat × Nat) -- sparse: SP[s] and SP[s + 1], once read
  pa : Nat                    -- remote: physical address of the element that awaits its acknowledgement
  deriving DecidableEq, Repr

/-- A stream port (R305, R315). -/
structure Port where
  fifo : List (Nat × Bool)    -- queued streams: generator number, or (true) capacity command
  cur : Option (Nat × Bool)
  round : BitVec 8
  q : List Tok                -- tokens arriving from the fabric
  outq : List Tok             -- a capacity command's tokens not yet delivered
  rounds : Nat                -- store streams: markers taken since binding
  used : Nat                  -- store streams: elements used
  deriving DecidableEq, Repr

/-- Tile tags (R332). -/
inductive Tag where
  | empty | filling | full | busy
  deriving DecidableEq, Repr

/-- The firing that runs: list position, tags the tiles held before, records it reads (R343, R347, R352). -/
structure Firing where
  pos : Nat
  old : List (Nat × Tag)
  shape : List Word
  wd : List Word
  region : Nat
  deriving DecidableEq, Repr

/-- The matrix engine (R330 to R354). -/
structure Matrix where
  tile : Mem
  weight : Mem
  tags : SMap Tag
  opened : List Nat           -- OPEN groups
  shapes : SMap (List Word)
  wds : SMap (List Word)      -- resident descriptors
  oplist : List W32
  fired : List Nat            -- firings of each word that have completed
  place : Nat
  running : Option Firing
  ports : SMap (List Tok)     -- tile ports me0 to me5: tokens in arrival order
  deriving DecidableEq, Repr

/-- The block scheduler (R355 to R375). -/
structure Sched where
  waiting : SMap (List Nat)   -- block: tags, rising
  barred : SMap (List Nat)
  watch : List Nat            -- tags in WATCH
  ages : SMap Nat
  turn : Option (Nat × List Nat × Nat)  -- block, snapshot, runs passed straight through
  turnReady : Bool            -- the turn's region is LIVE under the block and its source open
  demand : List Nat           -- the loader requests a turn waits for (R367)
  gives : Option Nat := none  -- the region that gives way to a demanded block which waits for a store entry (R367)
  sel : Bool
  nopack : Bool
  st : Bool
  dir : Word
  cached : SMap (List Word)
  defMode : Nat               -- SQ_FPDEF.MODE at the issue of the latest bs.policy (R56)
  hold : Bool
  armed : List Nat            -- bs.round commands that complete at the next round point
  armHold : Bool
  straight : W32
  policy : Option (Bool × Bool × Word)  -- bs.policy not yet in force: SEL, NOPACK, directory
  exits : SMap FUnit          -- the two exit ports' stores
  deriving DecidableEq, Repr

/-- One local value, carry or result of `nb.scan` (R434): an element (a, b), a scalar in b; `res` is what is delivered. -/
structure ScanV where
  round : Nat
  tag : Nat
  a : W32
  b : W32
  null : Bool
  res : W32
  deriving DecidableEq, Repr

/-- What crosses a relay link (R426): a token as it is; or, with `carry` naming the scan's operator and type, carries whose
b components are the token's lanes; or, a marker with `last`, the end mark. -/
structure LinkTok where
  tok : Tok
  carry : Option Nat
  as : List W32
  last : Bool
  deriving DecidableEq, Repr

/-- The relay of a core (R426 to R439). -/
structure Relay where
  owed : List Nat := []       -- placements of the value tokens that nd has taken and whose flags may still come (R67)
  place : Nat
  nu : List W32               -- op, k0, k1, ctl
  nd : List W32
  nuBuf : List LinkTok        -- arrived over the link (32 beats)
  endSeen : Bool
  ndq : List Tok
  linkOut : List LinkTok      -- sent by nd, still to cross
  endSent : Bool
  store : List Waiting
  locals : List ScanV
  carries : List ScanV
  results : List Tok          -- what nu has still to deliver
  runs : List (Nat × Tok)     -- local runs whose lanes are not all resolved, by local round
  solved : List ScanV         -- results delivered, by tag
  localClosed : Nat
  carryClosed : Nat
  sentClosed : Nat
  ndSent : Nat                -- tokens and marks sent by nd
  taken : Nat                 -- those of the neighbour that nu has taken from its buffer
  nuMarked : Bool := false    -- the neighbour's pre-emption marker has arrived (R439, R459)
  nuDue : Bool := false       -- the head's nu has still to make what its first stitch gives (R214, R429, R432, R459)
  deriving DecidableEq, Repr

/-- A bag as a binding found it (R414, R418): its length, whether it is faulted, and each row's virtual address, physical
address and weight. -/
structure CapBag where
  len : Nat
  bad : Bool
  rows : List (Nat × Nat × W32)
  deriving DecidableEq, Repr

/-- An accepted capacity command (R417): the copy of its record, whether its port or acceptance has started it, whether
binding is done; the bags not yet finished, and what the first of them has had so far. -/
structure Cap where
  id : Nat
  rcd : List Word
  active : Bool
  bound : Bool
  bags : List CapBag
  next : Nat                  -- number of the first bag in `bags`
  begun : Bool                -- its first row access has been made
  row : Nat                   -- rows of it read, updated or delivered
  got : List (Nat × W32 × List Byte)  -- pool: rows read (physical address, weight, bytes)
  lost : Bool                 -- pool: a row met a memory error
  grad : List W32             -- scatadd: its gradient
  out : Nat                   -- gather: rows delivered, over all bags
  posted : List (Nat × Nat)   -- causes and bags with a record
  pages : List (Nat × Nat)    -- translations of the binding: virtual and physical page of 64 KiB
  deriving DecidableEq, Repr

/-- What an invalidation has still to wait for (R189, R191): `key` names the `cfg.inv`, 0 a shoot-down; accepted runs,
remote elements (command, element) on their way, and bound capacity commands with row accesses to make, that use a translation
made before it. -/
structure InvWait where
  key : Nat
  runs : List Nat
  acks : List (Nat × Nat)
  caps : List Nat
  deriving DecidableEq, Repr

/-- A store entry (R166). -/
structure Entry where
  img : List Byte
  bva : Word
  gen : Nat
  deriving DecidableEq, Repr

/-- A core (R21). -/
structure Core where
  seq : Seq
  unstored : Option (Nat × List Byte)  -- the sequencer's latest store to memory, not yet performed (R144, R150): address, bytes
  early : Option (Nat × List Byte) := none  -- what the sequencer's next load reads of 8 bytes, if it performed ahead of its turn (R160)
  coh : Option Cohort
  prev : Option Cohort
  flags : List (BitVec 5)     -- nine flag sets (R65)
  entries : SMap Entry
  regions : SMap Region
  sites : SMap FUnit          -- 8·y + x
  nodes : SMap Node
  tlb2 : List Tlb
  walk : List (Nat × Nat × Nat)  -- level, index prefix, table address (R186)
  parked : List Parked
  cmds : List Cmd
  flights : List Flight
  hold : SMap (List Access)   -- requests on their way to the 24 holding units
  fences : List FenceW
  cbs : SMap Cb
  lv : Mem                    -- live values as bytes: 4·(tag·256 + index)
  pfile : Mem                 -- predicate entries: tag·128 + index, 0 or 1
  scratch : Mem
  badScratch : List Nat
  badTile : List Nat
  badWeight : List Nat
  badBank : List Nat
  badLink : List Nat          -- places of nu's link buffer, in the order it fills them (R438)
  badScan : List Nat          -- tags whose scan state has an error (R438)
  gens : SMap Gen
  ports : SMap Port
  caps : List Cap
  mx : Matrix
  bs : Sched
  relay : Relay
  saving : Bool
  seqSaved : Bool
  wakes : List (Nat × Word × List Nat)  -- wakes received while saving: cause, value, identity
  quiet : Bool                -- the loader's report that the core is quiescent (R192)
  invs : List InvWait := []   -- invalidations under way (R189, R191)
  block : Nat := 0            -- the core block of the save area that its save takes (R462)
  left : Option Nat := none   -- the launch whose cohort was the last to retire here; what it left stands for a chained start (R453)
  deriving DecidableEq, Repr

/-- A watch entry (R392). `launch` names the launch of the waiter: two launches of one context may have cohorts of the
same COHORT (log entry 7). -/
structure Watch where
  cmp : Nat
  w : Bool
  scope : Nat
  agent : Nat
  ctx : Nat
  cont : Nat
  tmo : Nat
  cohort : Nat
  launch : Nat
  tb : Nat
  dead : Nat
  pa : Nat
  opnd : Word
  mask : W32
  mq : W32
  deriving DecidableEq, Repr

/-- A wake on its way (R400): cause, value, the entry. -/
structure Wake where
  cause : Nat
  value : Word
  e : Watch
  deriving DecidableEq, Repr

/-- A home slice's registers and watch table (R392 to R397). -/
structure Slice where
  wlimit : Nat
  spen : Bool
  log2nb : Nat
  spbase : Nat
  sweep : Nat
  onchip : List Watch
  spill : List (Nat × Watch)  -- spilled entries with the physical address of their 32 bytes (R396)
  filter : List Nat
  retry : List Watch          -- launch unit and loader registrations refused for room (R398)
  deriving DecidableEq, Repr

/-- Context states (R443). -/
inductive CtxSt where
  | free | idle | running | saving | saved | restoring
  deriving DecidableEq, Repr

/-- A saved cohort (R461, R462): what the device layout of its core block holds, its old core, and MODEL and STEPPING of
SQ_FEAT at the save. -/
structure SavedCore where
  core : Core
  old : Nat
  model : Nat
  deriving DecidableEq, Repr

/-- A context (R442, R443). -/
structure Ctx where
  st : CtxSt
  held : Bool
  seq : W32
  root : Nat
  cls : Nat
  pinq : Nat
  save : Nat
  nblk : Nat
  wakes : List (Nat × Wake)   -- the wake list, oldest first, each with its entry of the save area (R464)
  saved : List SavedCore
  order : Nat                 -- when its save completed
  tornWakes : Nat
  deriving DecidableEq, Repr

/-- A submission queue (R445, R446). -/
structure Queue where
  en : Bool
  desc : List Word
  head : W32
  seen : W32                  -- tail last read
  woken : Option W32          -- tail value to serve
  deficit : Nat
  deriving DecidableEq, Repr

/-- A launch's stage; failed: its predecessor completed with a status other than OK; refused: cause of R448. -/
inductive LaunchSt where
  | pending | running | failed | refused (cause : Nat)
  deriving DecidableEq, Repr

/-- An accepted launch (R447 to R452). -/
structure Launch where
  id : Nat
  queue : Nat
  ctx : Nat
  rcd : List Word
  st : LaunchSt
  windows : List Word
  bufs : List Word
  segs : List Word
  deps : List Bool            -- dependences not yet held
  cores : List Nat            -- cores of its cohorts, position for position
  waiting : List Nat          -- positions not yet started (chained start)
  live : Nat                  -- cohorts not yet retired
  fatal : Bool
  nfault : W32
  lastPred : Option Nat       -- its predecessor launch
  kept : SMap Matrix := []    -- what retired cohorts of the predecessor leave to waiting positions (R333, R453)
  predBad : Bool
  deriving DecidableEq, Repr

/-- The launch unit (R440, R441, R457). -/
structure Lu where
  en : Bool
  ctxtab : Nat
  qtab : Nat
  fringLog : Nat
  fringBase : Nat
  fnote : Nat
  fprod : W32
  fcons : W32
  rsv0 : BitVec 48
  rsv1 : BitVec 48
  arg0 : Word
  arg1 : Word
  busy : Option (Nat × Nat)   -- command and context
  status : Byte
  fbuf : List (List Word × Nat)  -- fault records waiting, with their context
  lastQ : SMap Nat            -- per class the queue last taken
  picked : SMap (Nat × Bool)     -- per class: launch, or (true) context to restore, waiting for its cores
  deriving DecidableEq, Repr

/-- Module registers and host links (R471 to R477). -/
structure Module where
  facc : List W32             -- FACC0 to FACC3
  feat : Option (List W32)    -- the accepted feature set, once EN has been 1
  clkReq : Word
  clkNow : Word
  err : BitVec 4              -- CE UE THERM POWER
  window : Bool               -- the management window answers
  link : LinkWidth
  ports : List Bool           -- halyard ports up
  wins : SMap Word            -- HY_WIN: 16·p + w
  lens : SMap Word
  flash : List Byte           -- the service-firmware image
  deriving DecidableEq, Repr

/-- Trust-core modes (R478). -/
inductive TrustMode where
  | boot | recovery | running
  deriving DecidableEq, Repr

/-- The trust core (R478 to R484). -/
structure Trust where
  mode : TrustMode
  svn : W32
  digest : List Byte
  grants : SMap (Word × Word)
  mbCode : Byte
  mbLen : Nat
  payload : Mem
  mctpCode : Byte             -- status of the latest vendor-defined message (R481)
  secure : Mem                -- the 256 KiB partition of trusted code (R478)
  ram : Mem                   -- the 2 MiB partition of service firmware (R478)
  log : List (Word × Word)
  logNext : Nat
  staged : Option (List Byte)
  tick : Nat
  cycles : Nat                -- engine cycles since power-on at the latest event (R484)
  deriving DecidableEq, Repr

/-- What a turn does (the model's agenda). Besides the rows of the table: the host reads 64 bits of BAR0 or BAR2 (R8, R472,
R481), a corrected memory error (R473), a load of the sequencer that performs ahead of its turn (R160), an access of the trust core's code to its partitions (R478, R479). -/
inductive Act where
  | seq | early (pa : Nat) | unit (x y : Nat) | node (x : Nat) | oplist | relay
  | switch (x y slot idx : Nat) | event (i : Instr)
  | hostRead (off : Nat) | corrected | trustAccess (trusted secure : Bool) (addr : Nat) (op : MemOp)
  deriving DecidableEq, Repr

/-- One turn: a core and what acts there. -/
structure Turn where
  core : Nat
  act : Act
  deriving DecidableEq, Repr

/-- Where the acting unit stands: a site or node column, a slot. -/
structure Locus where
  x : Nat
  y : Nat
  slot : Nat
  deriving DecidableEq, Repr

/-- The module. -/
structure State where
  core : Nat                  -- the core whose turn it is (model)
  locus : Locus               -- the unit whose turn it is (model)
  agenda : List Turn          -- who moves next (model)
  cores : SMap Core
  mem : Mem
  badMem : List Nat
  hbm : Mem                   -- bytes of HBM that no populated region reaches: 2^37·die + offset (R379, R380)
  badHbm : List Nat           -- errors among them
  homeMap : SMap Word
  pins : List (Nat × Nat × Nat)  -- line, context, count
  slices : SMap Slice
  wakes : List Wake
  ctxs : SMap Ctx
  queues : SMap Queue
  launches : List Launch
  lu : Lu
  mod : Module
  trust : Trust
  remote : List (Nat × Nat)   -- remote accesses waiting: core, generator
  hostData : List Byte        -- what the outside last received (model)
  peerOut : Option (Nat × RemoteAnswer)  -- port and answer that a peer last received (model, R477)
  mctpOut : List Byte
  nextId : Nat                -- fresh numbers (model)
  deriving DecidableEq, Repr

/-- The sequencer at module reset (R133, R135); pc and registers: log entry 4. -/
def Seq.reset : Seq :=
  { pc := 0, regs := Vector.replicate 32 0, st := .idle, held := .idle, th := false, pf := 0,
    pn := [0, 0, 0, 0, 0, 0, 0, 0], cause := 0, epc := 0, tvec := 0, cycle := 0, ctxReg := 0, cohReg := 0,
    fpdef := 0, sel := 0, ibuf := [], itlb := [], waitu := none }

/-- A site, node or port that holds nothing. -/
def FUnit.reset : FUnit :=
  { place := 0, slots := [], inq := [], out := [], unitq := [], side := [], store := [], ready := [], marks := [],
    accs := [], last := 7, arb := [], saved := false }

/-- A memory node that holds nothing. -/
def Node.reset : Node := { u := FUnit.reset, tlb := [], compare := [], sectors := [] }

/-- A FREE generator (R306). -/
def Gen.reset : Gen :=
  { st := .free, cmd := 0, fn := 0, rcd := [], ports := [], fin := false, pos := 0, loaded := [], loaded2 := [],
    doneN := 0, q := [], q2 := [], extents := [], stall := 0, stallAt := 0, budget := 0, arg := 0, port := 0, tagFull := false,
    stopped := false, bars := [], waitAck := false, slice := 0, col := 0, row := 0,
    header := none, pa := 0 }

/-- An idle stream port. -/
def Port.reset : Port := { fifo := [], cur := none, round := 0, q := [], outq := [], rounds := 0, used := 0 }

/-- The matrix engine at cohort start (R333). -/
def Matrix.reset : Matrix :=
  { tile := [], weight := [], tags := [], opened := [], shapes := [], wds := [], oplist := [], fired := [],
    place := 0, running := none, ports := [] }

/-- The block scheduler at cohort start (R355, R373). -/
def Sched.reset : Sched :=
  { waiting := [], barred := [], watch := [], ages := [], turn := none, turnReady := false, demand := [],
    sel := false, nopack := false, st := false, dir := 0, cached := [], defMode := 0, hold := false, armed := [],
    armHold := false, straight := 0, policy := none, exits := [] }

/-- A relay with nothing placed. -/
def Relay.reset : Relay :=
  { place := 0, nu := [], nd := [], nuBuf := [], endSeen := false, ndq := [], linkOut := [], endSent := false,
    store := [], locals := [], carries := [], results := [], runs := [], solved := [], localClosed := 0,
    carryClosed := 0, sentClosed := 0, ndSent := 0, taken := 0 }

/-- A core at module reset. -/
def Core.reset : Core :=
  { seq := Seq.reset, unstored := none, coh := none, prev := none, flags := [0, 0, 0, 0, 0, 0, 0, 0, 0], entries := [], regions := [],
    sites := [], nodes := [], tlb2 := [], walk := [], parked := [], cmds := [], flights := [], hold := [],
    fences := [], cbs := [], lv := [], pfile := [], scratch := [], badScratch := [], badTile := [],
    badWeight := [], badBank := [], badLink := [], badScan := [], gens := [], ports := [], caps := [], mx := Matrix.reset, bs := Sched.reset,
    relay := Relay.reset, saving := false, seqSaved := false, wakes := [], quiet := false }

/-- A home slice at reset (R395). -/
def Slice.reset : Slice :=
  { wlimit := 4096, spen := false, log2nb := 0, spbase := 0, sweep := 0, onchip := [], spill := [], filter := [],
    retry := [] }

/-- A FREE context. -/
def Ctx.reset : Ctx :=
  { st := .free, held := false, seq := 0, root := 0, cls := 0, pinq := 0, save := 0, nblk := 0, wakes := [],
    saved := [], order := 0, tornWakes := 0 }

/-- A disabled queue (R446). -/
def Queue.reset : Queue := { en := false, desc := [], head := 0, seen := 0, woken := none, deficit := 0 }

/-- The launch unit at reset (R440). -/
def Lu.reset : Lu :=
  { en := false, ctxtab := 0, qtab := 0, fringLog := 5, fringBase := 0, fnote := 0, fprod := 0, fcons := 0,
    rsv0 := 0, rsv1 := 0, arg0 := 0, arg1 := 0, busy := none, status := 0, fbuf := [], lastQ := [], picked := [] }

/-- The module registers at reset (R473, R475). -/
def Module.reset : Module :=
  { facc := [0, 0, 0, 0], feat := none, clkReq := 0, clkNow := 0, err := 0, window := false, link := .x16,
    ports := List.replicate 12 true, wins := [], lens := [], flash := [] }

/-- The trust core at power-on (R478, R481, R484). -/
def Trust.reset : Trust :=
  { mode := .boot, svn := 0, digest := [], grants := [], mbCode := 0, mbLen := 0, payload := [], mctpCode := 0, secure := [],
    ram := [], log := [],
    logNext := 0, staged := none, tick := 0, cycles := 0 }

/-- The module right after a power-on reset (R470). -/
def State.reset : State :=
  { core := 0, locus := ⟨0, 0, 0⟩, agenda := [], cores := [], mem := [], badMem := [], hbm := [], badHbm := [], homeMap := [], pins := [],
    slices := [], wakes := [], ctxs := [], queues := [], launches := [], lu := Lu.reset, mod := Module.reset,
    trust := Trust.reset, remote := [], hostData := [], peerOut := none, mctpOut := [], nextId := 1 }

end Sys2Proof.Machine
end

