-- ==== Sys2Proof/Machine/Float.lean ====
section
/-! DEFINITION. Numbers (R45 to R64): formats, exact values, rounding with its flags, conversions, minimum and maximum. -/

namespace Sys2Proof.Machine

/-- The flag set of R64: NX 1, UF 2, OF 4, DZ 8, NV 16. -/
abbrev Flags := BitVec 5
/-- Inexact. -/
def fNX : Flags := 1
/-- Underflow. -/
def fUF : Flags := 2
/-- Overflow. -/
def fOF : Flags := 4
/-- Divide by zero. -/
def fDZ : Flags := 8
/-- Invalid. -/
def fNV : Flags := 16

/-- An exact value: NaN (quiet or signalling), an infinity, or ±m·2^e. With `sticky` the magnitude lies strictly between
m·2^e and (m + 1)·2^e. Zero is m = 0 without sticky. -/
inductive Val where
  | nan (signalling : Bool)
  | inf (neg : Bool)
  | fin (neg : Bool) (m : Nat) (e : Int) (sticky : Bool)
  deriving DecidableEq, Repr

/-- A floating-point format of R45: exponent and mantissa widths, bias, and which special encodings it has. -/
structure FFmt where
  eb : Nat
  mb : Nat
  bias : Int
  hasInf : Bool
  hasNan : Bool
  e4m3 : Bool
  deriving DecidableEq, Repr

/-- The formats of R45 by their code of R50. -/
def ffmt : Nat → FFmt
  | 0 => ⟨8, 23, 127, true, true, false⟩
  | 1 => ⟨5, 10, 15, true, true, false⟩
  | 2 => ⟨8, 7, 127, true, true, false⟩
  | 3 => ⟨4, 3, 7, false, true, true⟩
  | 4 => ⟨5, 2, 15, true, true, false⟩
  | 5 => ⟨3, 2, 3, false, false, false⟩
  | 6 => ⟨2, 3, 1, false, false, false⟩
  | _ => ⟨2, 1, 1, false, false, false⟩

/-- binary32. -/
def f32 : FFmt := ffmt 0
/-- Width in bits. -/
def FFmt.width (F : FFmt) : Nat := 1 + F.eb + F.mb
/-- Exponent of the smallest normal value. -/
def FFmt.emin (F : FFmt) : Int := 1 - F.bias
/-- Largest biased exponent of a finite value. -/
def FFmt.topField (F : FFmt) : Nat := if F.hasInf then 2 ^ F.eb - 2 else 2 ^ F.eb - 1
/-- Mantissa of the largest finite value, hidden bit included. -/
def FFmt.topMant (F : FFmt) : Nat := if F.e4m3 then 14 else 2 ^ (F.mb + 1) - 1
/-- Exponent of one unit in the last place of the largest finite value. -/
def FFmt.topExp (F : FFmt) : Int := F.topField - F.bias - F.mb
/-- The canonical NaN (R45, R46). -/
def FFmt.canon (F : FFmt) : Nat :=
  if F.e4m3 then 0x7F else if F.hasNan then (2 ^ F.eb - 1) * 2 ^ F.mb + 2 ^ (F.mb - 1) else 0
/-- The encoding of an infinity. -/
def FFmt.encInf (F : FFmt) (neg : Bool) : Nat := neg.toNat * 2 ^ (F.eb + F.mb) + (2 ^ F.eb - 1) * 2 ^ F.mb
/-- The encoding of ± the largest finite value. -/
def FFmt.encMax (F : FFmt) (neg : Bool) : Nat :=
  neg.toNat * 2 ^ (F.eb + F.mb) + F.topField * 2 ^ F.mb + (F.topMant - 2 ^ F.mb)
/-- The encoding of a signed zero. -/
def FFmt.encZero (F : FFmt) (neg : Bool) : Nat := neg.toNat * 2 ^ (F.eb + F.mb)

/-- The value that the low bits of `v` encode in `F` (R45, R46). -/
def decodeF (F : FFmt) (v : Nat) : Val :=
  let m := v % 2 ^ F.mb
  let e := v / 2 ^ F.mb % 2 ^ F.eb
  let neg := v / 2 ^ (F.eb + F.mb) % 2 == 1
  if F.e4m3 && e == 15 && m == 7 then .nan false
  else if F.hasInf && e == 2 ^ F.eb - 1 then
    if m == 0 then .inf neg else .nan (m / 2 ^ (F.mb - 1) == 0)
  else if e == 0 then .fin neg m (F.emin - F.mb) false
  else .fin neg (m + 2 ^ F.mb) (e - F.bias - F.mb) false

/-- Encodes ±k·2^q, known to lie on the grid of `F` and in range. -/
def encodeF (F : FFmt) (neg : Bool) (k : Nat) (q : Int) : Nat :=
  if k = 0 then F.encZero neg else
  let lg : Int := Nat.log2 k + q
  if lg < F.emin then
    F.encZero neg + k * 2 ^ (q - (F.emin - F.mb)).toNat / 2 ^ (F.emin - F.mb - q).toNat
  else
    let mant := k * 2 ^ (F.mb - Nat.log2 k) / 2 ^ (Nat.log2 k - F.mb)
    F.encZero neg + (lg + F.bias).toNat * 2 ^ F.mb + (mant - 2 ^ F.mb)

/-- floor(m·2^e / 2^q), and the remainder: compared with one half (0 below, 1 equal, 2 above), exact or not, and its
first 16 bits. -/
def cutAt (m : Nat) (e q : Int) (st : Bool) : Nat × Nat × Bool × Nat :=
  if q ≤ e then (m * 2 ^ (e - q).toNat, 0, !st, 0)
  else
    let n := (q - e).toNat
    let k := m / 2 ^ n
    let r := m % 2 ^ n
    let half := 2 ^ (n - 1)
    let c := if r < half then 0 else if r = half && !st then 1 else 2
    (k, c, r == 0 && !st, r * 2 ^ 16 / 2 ^ n)

/-- Whether the neighbour farther from zero is taken (R53, R55); `r` is the value of the LFSR under SR. -/
def roundUp (mode : Nat) (neg : Bool) (k c d r : Nat) : Bool :=
  match mode with
  | 0 => c == 2 || (c == 1 && k % 2 == 1)
  | 1 => false
  | 2 => neg
  | 3 => !neg
  | 4 => c ≥ 1
  | _ => d + r ≥ 2 ^ 16

/-- `round(x, F, m, sat)` of R57 with the flags it raises; `r` is the slot's LFSR value for SR (R55). -/
def roundTo (F : FFmt) (mode : Nat) (sat : Bool) (r : Nat) (x : Val) : Nat × Flags :=
  match x with
  | .nan _ => if F.hasNan then (F.canon, 0) else (0, fNV)
  | .inf neg =>
    if F.hasInf then (F.encInf neg, 0)
    else if sat || !F.hasNan then (F.encMax neg, fNV) else (F.canon, fNV)
  | .fin neg m e st =>
    if m = 0 && !st then (F.encZero neg, 0) else
    let lg : Int := Nat.log2 m + e
    let q := max lg F.emin - F.mb
    let (k, c, exact, d) := cutAt m e q st
    let y := if exact then k else if roundUp mode neg k c d r then k + 1 else k
    let big := decide (F.topMant * 2 ^ (F.topExp - q).toNat < y * 2 ^ (q - F.topExp).toNat)
    if big then
      let fl := fOF ||| fNX
      if sat || !F.hasNan then (F.encMax neg, fl)
      else if mode = 1 || (mode = 2 && !neg) || (mode = 3 && neg) then (F.encMax neg, fl)
      else if F.hasInf then (F.encInf neg, fl) else (F.canon, fl)
    else
      let uq := lg - F.mb
      let (uk, uc, ue, ud) := cutAt m e uq st
      let uy := if ue then uk else if roundUp mode neg uk uc ud r then uk + 1 else uk
      let tiny := decide (uy * 2 ^ (uq - (F.emin - F.mb)).toNat < 2 ^ F.mb * 2 ^ (F.emin - F.mb - uq).toNat)
      let fl := if exact then 0 else (if tiny then fUF ||| fNX else fNX)
      (if y = 0 then F.encZero neg else encodeF F neg y q, fl)

/-- The value is a signalling NaN. -/
def isSnan : Val → Bool
  | .nan sg => sg
  | _ => false
/-- The value is a NaN. -/
def isNan : Val → Bool
  | .nan _ => true
  | _ => false
/-- An exact zero. -/
def isZero : Val → Bool
  | .fin _ m _ st => m = 0 && !st
  | _ => false
/-- Sign of a value that is no NaN. -/
def isNeg : Val → Bool
  | .nan _ => false
  | .inf n => n
  | .fin n _ _ _ => n
/-- The value with its sign inverted. -/
def vneg : Val → Val
  | .nan s => .nan s
  | .inf n => .inf (!n)
  | .fin n m e st => .fin (!n) m e st

/-- The signed mantissa of a finite value at exponent `q ≤ e`. -/
def signedAt (neg : Bool) (m : Nat) (e q : Int) : Int :=
  let a : Int := (m * 2 ^ (e - q).toNat : Nat)
  if neg then -a else a

/-- The invalid flag of signalling operands (R61). -/
def nvOf (xs : List Val) : Flags := if xs.any isSnan then fNV else 0

/-- The exact sum with R61's special cases; `rdn` decides the sign of an exact zero that is not all of one sign. -/
def addV (rdn : Bool) (x y : Val) : Val × Flags :=
  match x, y with
  | .nan _, _ => (.nan false, nvOf [x, y])
  | _, .nan _ => (.nan false, nvOf [x, y])
  | .inf a, .inf b => if a == b then (.inf a, 0) else (.nan false, fNV)
  | .inf a, _ => (.inf a, 0)
  | _, .inf b => (.inf b, 0)
  | .fin a m e st, .fin b n f su =>
    if m = 0 && !st then (if n = 0 && !su then (.fin (if a == b then a else rdn) 0 0 false, 0) else (y, 0))
    else if n = 0 && !su then (x, 0)
    else
      let q := min e f
      let t := signedAt a m e q + signedAt b n f q
      if t = 0 then (.fin rdn 0 0 false, 0) else (.fin (decide (t < 0)) t.natAbs q (st || su), 0)

/-- The exact product with R61's special cases. -/
def mulV (x y : Val) : Val × Flags :=
  match x, y with
  | .nan _, _ => (.nan false, nvOf [x, y])
  | _, .nan _ => (.nan false, nvOf [x, y])
  | .inf a, v => if isZero v then (.nan false, fNV) else (.inf (a != isNeg v), 0)
  | v, .inf b => if isZero v then (.nan false, fNV) else (.inf (b != isNeg v), 0)
  | .fin a m e st, .fin b n f su => (.fin (a != b) (m * n) (e + f) (st || su), 0)

/-- `x·y + z` as one exact value (R61): 0·∞ raises invalid even when z is a quiet NaN. -/
def fmaV (rdn : Bool) (x y z : Val) (negProduct : Bool := false) : Val × Flags :=
  let (p, f) := mulV x y
  let p := if negProduct then vneg p else p
  let (r, g) := addV rdn p z
  (r, f ||| g ||| nvOf [x, y, z])

/-- The quotient of finite values, n ≠ 0, kept to 300 bits with a sticky bit. -/
def divFin (a : Bool) (m : Nat) (e : Int) (b : Bool) (n : Nat) (f : Int) : Val :=
  let sh := 300 + Nat.log2 n
  let num := m * 2 ^ sh
  .fin (a != b) (num / n) (e - f - sh) (num % n != 0)

/-- Division by IEEE 754-2019 (R61, R256). -/
def divV (x y : Val) : Val × Flags :=
  match x, y with
  | .nan _, _ => (.nan false, nvOf [x, y])
  | _, .nan _ => (.nan false, nvOf [x, y])
  | .inf _, .inf _ => (.nan false, fNV)
  | .inf a, v => (.inf (a != isNeg v), 0)
  | v, .inf b => (.fin (isNeg v != b) 0 0 false, 0)
  | .fin a m e _, .fin b n f _ =>
    if n = 0 then (if m = 0 then (.nan false, fNV) else (.inf (a != b), fDZ))
    else if m = 0 then (.fin (a != b) 0 0 false, 0) else (divFin a m e b n f, 0)

/-- Rounds to FP32 under RNE. -/
def toF32 (v : Val × Flags) : Nat × Flags :=
  let x := roundTo f32 0 false 0 v.1
  (x.1, v.2 ||| x.2)

/-- Three-way comparison of two values that are no NaN: -1, 0, 1 with −0 equal to +0 (R62). -/
def cmpV (x y : Val) : Int :=
  match x, y with
  | .inf a, .inf b => if a == b then 0 else if a then -1 else 1
  | .inf a, _ => if a then -1 else 1
  | _, .inf b => if b then 1 else -1
  | .fin a m e _, .fin b n f _ =>
    let q := min e f
    let t := signedAt a m e q - signedAt b n f q
    if t < 0 then -1 else if t = 0 then 0 else 1
  | _, _ => 0

/-- Floating comparison of R62 under the predicate code of R243, with its invalid flag. -/
def fcmp (pred : Nat) (x y : Val) : Bool × Flags :=
  if isNan x || isNan y then
    (pred == 1, if pred ≤ 1 then nvOf [x, y] else fNV)
  else
    let t := cmpV x y
    (match pred with
     | 0 => t == 0 | 1 => t != 0 | 2 => t == -1 | 3 => t ≤ 0 | 4 => t == 1 | _ => t ≥ 0, 0)

/-- fmin (or fmax) of R63 on encodings: the operand's bits, the canonical NaN when both are NaNs. -/
def fminmax (F : FFmt) (isMax : Bool) (a b : Nat) : Nat × Flags :=
  let x := decodeF F a; let y := decodeF F b
  let a := a % 2 ^ F.width; let b := b % 2 ^ F.width
  let fl := nvOf [x, y]
  if isNan x && isNan y then (F.canon, fl)
  else if isNan x then (b, fl) else if isNan y then (a, fl)
  else
    let t := cmpV x y
    let less := t == -1 || (t == 0 && isNeg x && !isNeg y)
    (if less != isMax then a else b, fl)

/-- Range of an integer format of `n` bits. -/
def intLo (n : Nat) (signed : Bool) : Int := if signed then -(2 ^ (n - 1) : Int) else 0
/-- Upper end of the range. -/
def intHi (n : Nat) (signed : Bool) : Int := if signed then 2 ^ (n - 1) - 1 else 2 ^ n - 1
/-- Clamps to a range. -/
def clamp (x lo hi : Int) : Int := if x < lo then lo else if x > hi then hi else x

/-- `cvt_int` of R59. -/
def cvtInt (n : Nat) (signed : Bool) (mode : Nat) (sat : Bool) (r : Nat) (x : Val) : Int × Flags :=
  let lo := intLo n signed; let hi := intHi n signed
  match x with
  | .nan _ => (0, fNV)
  | .inf neg => (if sat then (if neg then lo else hi) else 0, fNV)
  | .fin neg m e st =>
    let (k, c, exact, d) := cutAt m e 0 st
    let k := if exact then k else if roundUp mode neg k c d r then k + 1 else k
    let y : Int := if neg then -(k : Int) else k
    if y < lo || y > hi then
      (if sat then clamp y lo hi else (if signed then (BitVec.ofInt n y).toInt else (BitVec.ofInt n y).toNat), fNV)
    else (y, if exact then 0 else fNX)

/-- The exact value of an integer. -/
def ofInt (x : Int) : Val := .fin (decide (x < 0)) x.natAbs 0 false

/-- The value of an E8M0 scale (R47). -/
def ofScale (s : Nat) : Val := if s = 255 then .nan false else .fin false 1 ((s : Int) - 127) false

/-- One step of the LFSR (R55). -/
def lfsrStep (s : Half) : Half :=
  if s.getLsbD 0 then (s >>> 1) ^^^ 0xB400 else s >>> 1
/-- The LFSR's value loaded from k1 (R55). -/
def lfsrSeed (k1 : W32) : Half := if k1.setWidth 16 = (0 : Half) then 1 else k1.setWidth 16

end Sys2Proof.Machine
end

