-- ==== Sys2Proof/Config.lean ====
section
/-! DEFINITION. What the spec leaves to standards, fused secrets and clocks of the outside: free values with no body. -/

namespace Sys2Proof.Config

/-- Byte `i` of the SHAKE256 digest of a byte string (R478, R480). The spec names the function and does not define it. -/
opaque shakeByte : List Byte → Nat → Byte
/-- Whether an image's ML-DSA-65 signature verifies over its digest with the fused vendor key (R478). -/
opaque signatureOk : List Byte → List Byte → Bool
/-- The image's security version (R478, R480); the image's own layout is not in the spec. -/
opaque imageVersion : List Byte → W32
/-- The fused minimum security version (R478). -/
opaque fusedMinimum : Nat
/-- Byte `i` of the ML-DSA-65 signature over a report (R480), made by the device identity key of the latest reset. -/
opaque signByte : List Byte → Nat → Byte
/-- Byte `i` of the public half of the device identity key (R480, R481). -/
opaque idKeyByte : Nat → Byte
/-- Engine cycles of the trust core from the event before, or from power-on, to event `n` of the sideband log (R484). -/
opaque trustCycles : Nat → Nat

/-- The 64-byte digest of R478. -/
def digest (b : List Byte) : List Byte := (List.range 64).map (shakeByte b)
/-- The 3,309-byte signature of R480. -/
def signature (b : List Byte) : List Byte := (List.range 3309).map (signByte b)
/-- The 1,952-byte public key of R481. -/
def idKey : List Byte := (List.range 1952).map idKeyByte

end Sys2Proof.Config
end

