-- ==== Sys2Proof/WellFormed.lean ====
section
/-! DEFINITION. Which instructions have an assigned encoding: the operand limits of R105, R110 to R118, R269, R285,
R296, R310 and R405. An event row has no encoding and is always well formed. -/

namespace Sys2Proof

/-- A scope code of R109. -/
def scopeOk (s : BitVec 3) : Bool := s.toNat ≤ 5
/-- A port code of R117. -/
def portOk (p : BitVec 3) : Bool := p.toNat ≤ 5
/-- A CSR number of R135. -/
def csrOk (c : BitVec 8) : Bool := c.toNat ≤ 0x0A
/-- Operands 3 to `n` come from registers after `a` and must not pass s31 (R105). -/
def operandsOk (a : Reg) (n : Nat) : Bool := a.toNat + (n - 2) ≤ 31

/-- Source selects of a scratchpad unit word (R269): in0, in1, in2, k0, k1. -/
def suSrcOk (a : BitVec 3) : Bool := a == 0 || a == 1 || a == 2 || a == 4 || a == 5
/-- Destination selects of a scratchpad unit word (R269); `rel` and `out+rel` only with `scamo`. -/
def suDstOk (amo : Bool) (d : BitVec 3) : Bool := d.toNat ≤ 2 || (amo && d.toNat ≤ 4)
/-- Types of the add, min and max atomics (R112): .s32, .n32, .f32. -/
def amoTypeOk (t : BitVec 3) : Bool := t.toNat ≥ 5
/-- Source selects of a memory-node word (R285): in0, in1, in2, k1. -/
def mnSrcOk (a : BitVec 3) : Bool := a == 0 || a == 1 || a == 2 || a == 5
/-- Destination selects of a memory-node word (R285): nx, out, ord. -/
def mnDstOk (d : BitVec 3) : Bool := d.toNat ≤ 2

/-- Types and pairings of `amo` (R104): codes 101 to 111, and and/or/xor with .f32, are unassigned. -/
def amoOk (o t : BitVec 3) : Bool := t.toNat ≤ 4 && !(t == 4 && (o == 3 || o == 4 || o == 5))

/-- Fields of `nb.scan` (R115, R428). -/
def nbScanOk (t : BitVec 3) (s : BitVec 1) (m : BitVec 3) : Bool :=
  (t == 0 || t == 1 || t == 3 || t == 4 || t == 5) && m.toNat ≤ 3 &&
  (m != 3 || t.toNat ≥ 3) && (s == 0 || (t.toNat ≤ 1 && m == 0))

/-- The instruction has an assigned encoding that is accepted where it stands. -/
def WellFormed : Instr → Bool
  | .csrr _ c => csrOk c
  | .csrw _ _ c => csrOk c
  | .csrs _ _ c => csrOk c
  | .csrc _ _ c => csrOk c
  | .fence s => scopeOk s
  | .sxRemote _ a _ _ => operandsOk a 3
  | .amo _ a _ o t => amoOk o t && (o != 7 || operandsOk a 3)
  | .waitu d a _ => operandsOk a 4 && d.toNat ≤ 30
  | .embPool _ a _ _ => operandsOk a 3
  | .embGather _ a _ _ => operandsOk a 3
  | .embScatadd _ a _ _ => operandsOk a 3
  | .scld d a _ _ => suDstOk false d && suSrcOk a
  | .scst d a b _ _ => suDstOk false d && suSrcOk a && suSrcOk b
  | .scamoAdd d a b t _ => suDstOk true d && suSrcOk a && suSrcOk b && amoTypeOk t
  | .scamoMin d a b t _ => suDstOk true d && suSrcOk a && suSrcOk b && amoTypeOk t
  | .scamoMax d a b t _ => suDstOk true d && suSrcOk a && suSrcOk b && amoTypeOk t
  | .scamoAnd d a b _ => suDstOk true d && suSrcOk a && suSrcOk b
  | .scamoOr d a b _ => suDstOk true d && suSrcOk a && suSrcOk b
  | .scamoXor d a b _ => suDstOk true d && suSrcOk a && suSrcOk b
  | .scamoSwap d a b _ => suDstOk true d && suSrcOk a && suSrcOk b
  | .scamoCas d a b c _ => suDstOk true d && suSrcOk a && suSrcOk b && suSrcOk c
  | .cbput d a => suDstOk false d && suSrcOk a
  | .cbget d a => suDstOk false d && suSrcOk a
  | .cbadv d a _ => suDstOk false d && suSrcOk a
  | .cbwait d a _ => suDstOk false d && suSrcOk a
  | .mtfill d a b t => suDstOk false d && suSrcOk a && suSrcOk b && (t == 0 || t == 2 || t == 4)
  | .mttag d => suDstOk false d
  | .mld d a _ s => mnDstOk d && mnSrcOk a && scopeOk s
  | .mst d a b _ s => mnDstOk d && mnSrcOk a && mnSrcOk b && scopeOk s
  | .mldNc d a _ s => mnDstOk d && mnSrcOk a && scopeOk s
  | .mstNc d a b _ s => mnDstOk d && mnSrcOk a && mnSrcOk b && scopeOk s
  | .mgath d a _ s => mnDstOk d && mnSrcOk a && scopeOk s
  | .mscat d a b _ s => mnDstOk d && mnSrcOk a && mnSrcOk b && scopeOk s
  | .mfence d k s => mnDstOk d && (k == 1 || k == 2 || k == 3) && scopeOk s
  | .mflush d a s => mnDstOk d && mnSrcOk a && scopeOk s
  | .minv d a s => mnDstOk d && mnSrcOk a && scopeOk s
  | .mamoAdd d a b t s => mnDstOk d && mnSrcOk a && mnSrcOk b && amoTypeOk t && scopeOk s
  | .mamoMin d a b t s => mnDstOk d && mnSrcOk a && mnSrcOk b && amoTypeOk t && scopeOk s
  | .mamoMax d a b t s => mnDstOk d && mnSrcOk a && mnSrcOk b && amoTypeOk t && scopeOk s
  | .mamoAnd d a b s => mnDstOk d && mnSrcOk a && mnSrcOk b && scopeOk s
  | .mamoOr d a b s => mnDstOk d && mnSrcOk a && mnSrcOk b && scopeOk s
  | .mamoXor d a b s => mnDstOk d && mnSrcOk a && mnSrcOk b && scopeOk s
  | .mamoSwap d a b s => mnDstOk d && mnSrcOk a && mnSrcOk b && scopeOk s
  | .mamoCas d a b c s => mnDstOk d && mnSrcOk a && mnSrcOk b && mnSrcOk c && scopeOk s
  | .mwaitu a b c k w s =>
      mnSrcOk a && mnSrcOk b && k.toNat ≤ 6 && !(k == 6 && w == 1) && scopeOk s &&
      (if w == 1 || k == 6 then mnSrcOk c else c == 0)
  | .mxMma a g _ _ _ _ _ _ _ => a.toNat / 4 != g.toNat
  | .mxMmas a g _ _ _ _ _ _ _ => a.toNat / 4 != g.toNat
  | .nbScan t s m => nbScanOk t s m
  | .swRoute i o _ => portOk i && portOk o && i != o
  | .swFork i _ m => portOk i && m != 0 && !m.getLsbD i.toNat
  | .swMerge i o j _ => portOk i && portOk o && portOk j && i != o && i != j
  | .swGate i o b _ => portOk i && portOk o && portOk b && i != o && i != b
  | .swSteer i t _ f _ => portOk i && portOk t && portOk f && f != t && t != i && f != i
  | .swBound i o s _ => portOk i && portOk o && i != o && scopeOk s
  | .swNull i o p _ => portOk i && portOk o && i != o && p != 3
  | .swSink i => portOk i
  | .swSrc o _ _ => portOk o
  | .swCtl i => portOk i
  | .swOrd i o _ => portOk i && portOk o && i != o
  | _ => true

end Sys2Proof
end

