-- ==== Sys2Proof/Decode.lean ====
section
/-! DEFINITION. The decoders of the three encoded kinds of word (R100), total and rejecting by name, and the encoders.
Which decoder reads a word depends on who holds it: the sequencer at its pc, a slot, or a switch list. -/

namespace Sys2Proof

/-- Why a word is refused (R121). -/
inductive Reject where
  | unassignedMajor | unassignedFunction | reservedField | operandsPastS31 | unassignedOpcode | unassignedField
  deriving DecidableEq, Repr

/-- `len` bits of `w` from bit `lo` (R3). -/
def bits {n : Nat} (w : BitVec n) (lo len : Nat) : BitVec len := w.extractLsb' lo len

/-- Bytes to a word, the lowest address first (R3). -/
def leNat : List Byte → Nat
  | [] => 0
  | b :: r => b.toNat + 256 * leNat r

/-- The `k` bytes of `v`, the lowest address first (R3). -/
def leBytes (k : Nat) (v : Nat) : List Byte :=
  match k with
  | 0 => []
  | k + 1 => BitVec.ofNat 8 v :: leBytes k (v / 256)

namespace Fld
/-- [31:26] of R101. -/
def major (w : W32) : BitVec 6 := bits w 26 6
/-- [25:21]: rd, or ra of SB. -/
def rd (w : W32) : Reg := bits w 21 5
/-- [20:16]: ra, or rb of SB. -/
def ra (w : W32) : Reg := bits w 16 5
/-- [15:11]: rb of SA and SE. -/
def rb (w : W32) : Reg := bits w 11 5
/-- [10:8]: the pennant of SE. -/
def pn (w : W32) : Pen := bits w 8 3
/-- [10:0]: the function of SA. -/
def fn11 (w : W32) : BitVec 11 := bits w 0 11
/-- [7:0]: the function of SE. -/
def fn8 (w : W32) : BitVec 8 := bits w 0 8
/-- [15:0]. -/
def imm (w : W32) : BitVec 16 := bits w 0 16
end Fld

/-- `i`, unless a field that must be zero is not (R10, R121). -/
def res0 (ok : Bool) (i : Instr) : Except Reject Instr := if ok then .ok i else .error .reservedField

/-- `i`, unless it breaks a limit that makes the encoding unassigned. -/
def okField (i : Instr) : Except Reject Instr := if WellFormed i then .ok i else .error .unassignedField

/-- Major 0x01 (R145). -/
def decInteger (w : W32) : Except Reject Instr :=
  let d := Fld.rd w; let a := Fld.ra w; let b := Fld.rb w
  match (Fld.fn11 w).toNat with
  | 0x000 => .ok (.add d a b) | 0x001 => .ok (.sub d a b) | 0x002 => .ok (.and d a b)
  | 0x003 => .ok (.or d a b) | 0x004 => .ok (.xor d a b) | 0x005 => .ok (.andn d a b)
  | 0x008 => .ok (.sll d a b) | 0x009 => .ok (.srl d a b) | 0x00A => .ok (.sra d a b)
  | 0x010 => .ok (.slt d a b) | 0x011 => .ok (.sltu d a b) | 0x012 => .ok (.seq d a b)
  | 0x013 => .ok (.min d a b) | 0x014 => .ok (.minu d a b)
  | 0x015 => .ok (.max d a b) | 0x016 => .ok (.maxu d a b)
  | 0x018 => res0 (b == 0) (.clz d a) | 0x019 => res0 (b == 0) (.ctz d a) | 0x01A => res0 (b == 0) (.popc d a)
  | _ => .error .unassignedFunction

/-- Major 0x02 (R148). -/
def decMulDiv (w : W32) : Except Reject Instr :=
  let d := Fld.rd w; let a := Fld.ra w; let b := Fld.rb w
  match (Fld.fn11 w).toNat with
  | 0 => .ok (.mul d a b) | 1 => .ok (.mulh d a b) | 2 => .ok (.mulhu d a b) | 3 => .ok (.mulhsu d a b)
  | 4 => .ok (.div d a b) | 5 => .ok (.divu d a b) | 6 => .ok (.rem d a b) | 7 => .ok (.remu d a b)
  | _ => .error .unassignedFunction

/-- Major 0x03 (R156): function [10:8] is the operation and [7:0] the register. -/
def decCsr (w : W32) : Except Reject Instr :=
  let d := Fld.rd w; let a := Fld.ra w; let c := Fld.fn8 w
  if Fld.rb w != 0 then .error .reservedField else
  match (Fld.pn w).toNat with
  | 0 => if a != 0 then .error .reservedField else okField (.csrr d c)
  | 1 => okField (.csrw d a c)
  | 2 => okField (.csrs d a c)
  | 3 => okField (.csrc d a c)
  | _ => .error .unassignedFunction

/-- Major 0x0B (R147): imm16 [9:8] selects, [15:10] and [7:6] are res0. -/
def decShiftImm (w : W32) : Except Reject Instr :=
  let d := Fld.rd w; let a := Fld.ra w; let n := bits w 0 6
  if bits w 10 6 != 0 || bits w 6 2 != 0 then .error .reservedField else
  match (bits w 8 2).toNat with
  | 0 => .ok (.slli d a n) | 1 => .ok (.srli d a n) | 2 => .ok (.srai d a n)
  | _ => .error .unassignedFunction

/-- Major 0x2C (R157): rd, ra and rb are res0. -/
def decSystem (w : W32) : Except Reject Instr :=
  if bits w 11 15 != 0 then .error .reservedField else
  if bits w 8 3 == 1 then .ok (.trap (Fld.fn8 w)) else
  if bits w 3 8 == 2 then okField (.fence (bits w 0 3)) else
  match (Fld.fn11 w).toNat with
  | 0x020 => .ok .ifence | 0x030 => .ok .tret | 0x031 => .ok .kend
  | _ => .error .unassignedFunction

/-- Majors 0x30 to 0x37 (R103), the engine commands. The rb field of a command that takes no operand 2 is res0 (log entry 104). -/
def decEngine (w : W32) : Except Reject Instr :=
  let d := Fld.rd w; let a := Fld.ra w; let b := Fld.rb w; let p := Fld.pn w
  let nb := b == 0; let np := p == 0
  match (Fld.major w).toNat, (Fld.fn8 w).toNat with
  | 0x30, 0x00 => .ok (.cfgFetch d a b p) | 0x30, 0x01 => .ok (.cfgPlace d a b p)
  | 0x30, 0x02 => .ok (.cfgStitch d a b p) | 0x30, 0x03 => res0 np (.cfgStart d a b)
  | 0x30, 0x04 => .ok (.cfgSplice d a b p) | 0x30, 0x05 => res0 nb (.cfgDrain d a p)
  | 0x30, 0x06 => res0 (nb && np) (.cfgEvict d a) | 0x30, 0x07 => res0 np (.cfgPatch d a b)
  | 0x30, 0x08 => .ok (.cfgInv d a b p)
  | 0x31, 0x00 => .ok (.sxBind d a b p) | 0x31, 0x01 => res0 (nb && np) (.sxGo d a)
  | 0x31, 0x02 => res0 nb (.sxBar d a p) | 0x31, 0x03 => .ok (.sxMcast d a b p)
  | 0x31, 0x04 => res0 (nb && np) (.sxStop d a) | 0x31, 0x05 => res0 (nb && np) (.sxQuery d a)
  | 0x31, 0x06 => .ok (.sxSparse d a b p)
  | 0x31, 0x07 => if WellFormed (.sxRemote d a b p) then .ok (.sxRemote d a b p) else .error .operandsPastS31
  | 0x31, 0x08 => .ok (.sxWbload d a b p) | 0x31, 0x09 => .ok (.sxTile d a b p)
  | 0x32, 0x00 => res0 nb (.mxZero d a p) | 0x32, 0x01 => res0 nb (.mxMove d a p)
  | 0x32, 0x02 => .ok (.mxLdsh d a b p) | 0x32, 0x03 => .ok (.mxLdwd d a b p)
  | 0x32, 0x04 => res0 (nb && np) (.mxTag d a)
  | 0x33, 0x00 => res0 (nb && np) (.bsQuery d a) | 0x33, 0x01 => res0 np (.bsSeed d a b)
  | 0x33, 0x02 => res0 np (.bsPolicy d a b) | 0x33, 0x03 => res0 (nb && np) (.bsUniform d a)
  | 0x33, 0x04 => res0 nb (.bsRound d a p)
  | 0x34, 0x40 =>
      if !np then .error .reservedField
      else if WellFormed (.waitu d a b) then .ok (.waitu d a b) else .error .operandsPastS31
  | 0x34, 0x41 => res0 np (.wcancel d a b)
  | 0x34, 0x42 => res0 (nb && np) (.cpin d a) | 0x34, 0x43 => res0 (nb && np) (.cunpin d a)
  | 0x34, f =>
      if f ≥ 0x40 then .error .unassignedFunction
      else if !np then .error .reservedField
      else okField (.amo d a b (bits w 3 3) (bits w 0 3))
  | 0x35, 0x00 => if WellFormed (.embPool d a b p) then .ok (.embPool d a b p) else .error .operandsPastS31
  | 0x35, 0x01 => if WellFormed (.embGather d a b p) then .ok (.embGather d a b p) else .error .operandsPastS31
  | 0x35, 0x02 => if WellFormed (.embScatadd d a b p) then .ok (.embScatadd d a b p) else .error .operandsPastS31
  | 0x36, 0x00 => res0 (nb && a == 0) (.nbDrain d p)
  | 0x37, 0x00 => res0 (a == 0 && nb && np) (.ctxYield d)
  | 0x37, 0x01 => res0 (a == 0 && nb && np) (.ctxMark d)
  | 0x37, 0x02 => res0 np (.ctxFault d a b)
  | _, _ => .error .unassignedFunction

/-- A sequencer instruction (R101 to R105). -/
def decodeSeq (w : W32) : Except Reject Instr :=
  let d := Fld.rd w; let a := Fld.ra w; let i := Fld.imm w
  match (Fld.major w).toNat with
  | 0x01 => decInteger w
  | 0x02 => decMulDiv w
  | 0x03 => decCsr w
  | 0x04 => .ok (.addi d a i) | 0x05 => .ok (.andi d a i) | 0x06 => .ok (.ori d a i) | 0x07 => .ok (.xori d a i)
  | 0x08 => .ok (.slti d a i) | 0x09 => .ok (.sltiu d a i) | 0x0A => res0 (a == 0) (.lui d i)
  | 0x0B => decShiftImm w
  | 0x10 => .ok (.lb d a i) | 0x11 => .ok (.lbu d a i) | 0x12 => .ok (.lh d a i) | 0x13 => .ok (.lhu d a i)
  | 0x14 => .ok (.lw d a i) | 0x15 => .ok (.lwu d a i) | 0x16 => .ok (.ld d a i)
  | 0x18 => .ok (.stb d a i) | 0x19 => .ok (.sth d a i) | 0x1A => .ok (.stw d a i) | 0x1B => .ok (.std d a i)
  | 0x20 => .ok (.beq d a i) | 0x21 => .ok (.bne d a i) | 0x22 => .ok (.blt d a i)
  | 0x23 => .ok (.bge d a i) | 0x24 => .ok (.bltu d a i) | 0x25 => .ok (.bgeu d a i)
  | 0x26 => .ok (.j (bits w 0 26)) | 0x27 => .ok (.jal (bits w 0 26)) | 0x28 => .ok (.jalr d a i)
  | 0x2C => decSystem w
  | 0x2D => res0 (bits w 8 18 == 0) (.waitp (Fld.fn8 w))
  | 0x30 => decEngine w | 0x31 => decEngine w | 0x32 => decEngine w | 0x33 => decEngine w
  | 0x34 => decEngine w | 0x35 => decEngine w | 0x36 => decEngine w | 0x37 => decEngine w
  | _ => .error .unassignedMajor

namespace OpF
/-- [21:19] of R107. -/
def dst (w : W32) : BitVec 3 := bits w 19 3
/-- [18:16]. -/
def srcA (w : W32) : BitVec 3 := bits w 16 3
/-- [15:13]. -/
def srcB (w : W32) : BitVec 3 := bits w 13 3
/-- [12:10]. -/
def srcC (w : W32) : BitVec 3 := bits w 10 3
/-- [9:7]. -/
def ty (w : W32) : BitVec 3 := bits w 7 3
/-- [6:4]. -/
def rnd (w : W32) : BitVec 3 := bits w 4 3
/-- [3]. -/
def sat (w : W32) : BitVec 1 := bits w 3 1
/-- [2:0]. -/
def mod (w : W32) : BitVec 3 := bits w 0 3
end OpF

/-- A word whose fields not named as read are zero (R116): `z` says so. -/
def okOp (z : Bool) (i : Instr) : Except Reject Instr := if z then okField i else .error .reservedField

/-- Scratchpad-unit words, class 001 (R112, R269). -/
def decScratch (w : W32) : Except Reject Instr :=
  let d := OpF.dst w; let a := OpF.srcA w; let b := OpF.srcB w; let c := OpF.srcC w
  let t := OpF.ty w; let m := OpF.mod w
  let rs := OpF.rnd w == 0 && OpF.sat w == 0
  let zb := b == 0 && c == 0; let b32 := t == 4
  match (bits w 22 7).toNat with
  | 0x00 => okOp (rs && zb) (.scld d a t m) | 0x01 => okOp (rs && c == 0) (.scst d a b t m)
  | 0x08 => okOp (rs && c == 0) (.scamoAdd d a b t m) | 0x09 => okOp (rs && c == 0) (.scamoMin d a b t m)
  | 0x0A => okOp (rs && c == 0) (.scamoMax d a b t m)
  | 0x0B => okOp (rs && c == 0 && b32) (.scamoAnd d a b m) | 0x0C => okOp (rs && c == 0 && b32) (.scamoOr d a b m)
  | 0x0D => okOp (rs && c == 0 && b32) (.scamoXor d a b m) | 0x0E => okOp (rs && c == 0 && b32) (.scamoSwap d a b m)
  | 0x0F => okOp (rs && b32) (.scamoCas d a b c m)
  | 0x10 => okOp (rs && zb && b32 && m == 0) (.cbput d a) | 0x11 => okOp (rs && zb && b32 && m == 0) (.cbget d a)
  | 0x12 => okOp (rs && zb && b32 && m.toNat ≤ 1) (.cbadv d a (bits w 0 1))
  | 0x13 => okOp (rs && zb && b32 && m.toNat ≤ 1) (.cbwait d a (bits w 0 1))
  | 0x18 => okOp (rs && c == 0 && m == 0) (.mtfill d a b t)
  | 0x19 => okOp (rs && zb && b32 && m == 0 && a == 0) (.mttag d)
  | _ => .error .unassignedOpcode

/-- Memory-node words, class 010 (R113, R296, R402). -/
def decMemNode (w : W32) : Except Reject Instr :=
  let d := OpF.dst w; let a := OpF.srcA w; let b := OpF.srcB w; let c := OpF.srcC w
  let t := OpF.ty w; let s := OpF.mod w
  let rs := OpF.rnd w == 0 && OpF.sat w == 0
  let zb := b == 0 && c == 0; let b32 := t == 4
  match (bits w 22 7).toNat with
  | 0x00 => okOp (rs && zb) (.mld d a t s) | 0x01 => okOp (rs && c == 0) (.mst d a b t s)
  | 0x02 => okOp (rs && zb) (.mldNc d a t s) | 0x03 => okOp (rs && c == 0) (.mstNc d a b t s)
  | 0x04 => okOp (rs && zb) (.mgath d a t s) | 0x05 => okOp (rs && c == 0) (.mscat d a b t s)
  | 0x08 => okOp (rs && zb && a == 0) (.mfence d t s)
  | 0x09 => okOp (bits w 0 19 == 0 && d == 2) .mord
  | 0x0A => okOp (rs && zb && t == 0) (.mflush d a s) | 0x0B => okOp (rs && zb && t == 0) (.minv d a s)
  | 0x10 => okOp (rs && c == 0) (.mamoAdd d a b t s) | 0x11 => okOp (rs && c == 0) (.mamoMin d a b t s)
  | 0x12 => okOp (rs && c == 0) (.mamoMax d a b t s)
  | 0x13 => okOp (rs && c == 0 && b32) (.mamoAnd d a b s) | 0x14 => okOp (rs && c == 0 && b32) (.mamoOr d a b s)
  | 0x15 => okOp (rs && c == 0 && b32) (.mamoXor d a b s) | 0x16 => okOp (rs && c == 0 && b32) (.mamoSwap d a b s)
  | 0x17 => okOp (rs && b32) (.mamoCas d a b c s)
  | 0x18 => okOp (d == 0 && OpF.rnd w == 0) (.mwaitu a b c t (OpF.sat w) s)
  | _ => .error .unassignedOpcode

/-- Matrix words, class 011 (R114). Where the word stands decides whether its A tile may lie in its group (R339). -/
def decMatrix (w : W32) : Except Reject Instr :=
  if bits w 0 2 != 0 then .error .reservedField else
  match (bits w 25 4).toNat with
  | 0 => .ok (.mxMma (bits w 19 6) (bits w 15 4) (bits w 11 4) (bits w 7 4)
           (bits w 6 1) (bits w 5 1) (bits w 4 1) (bits w 3 1) (bits w 2 1))
  | 1 => .ok (.mxMmas (bits w 19 6) (bits w 15 4) (bits w 11 4) (bits w 7 4)
           (bits w 6 1) (bits w 5 1) (bits w 4 1) (bits w 3 1) (bits w 2 1))
  | _ => .error .unassignedOpcode

/-- Relay words, class 100 (R115, R428), but for `nb.carry`, which nu alone holds and which makes no step of its own. -/
def decRelay (w : W32) : Except Reject Instr :=
  if bits w 10 12 != 0 || OpF.rnd w != 0 then .error .reservedField else
  match (bits w 22 7).toNat with
  | 0x00 => okOp (OpF.ty w == 2 && OpF.sat w == 0 && OpF.mod w == 0) .nbFwd
  | 0x01 => okField (.nbScan (OpF.ty w) (OpF.sat w) (OpF.mod w))
  | _ => .error .unassignedOpcode

/-- An operation word of a scratchpad unit, memory node, the op list or a relay port (R107). -/
def decodeOp (w : W32) : Except Reject Instr :=
  match (bits w 29 3).toNat with
  | 1 => decScratch w
  | 2 => decMemNode w
  | 3 => decMatrix w
  | 4 => decRelay w
  | _ => .error .unassignedOpcode

/-- `i`, when the port codes `ps` are assigned (R117). -/
def okPorts (ps : List (BitVec 3)) (z : Bool) (i : Instr) : Except Reject Instr :=
  if !z then .error .reservedField else if ps.all portOk then .ok i else .error .unassignedField

/-- A switch word (R117, R118). The refusals of R118 that compare ports are made at placement (`WellFormed`). -/
def decodeSw (w : Half) : Except Reject Instr :=
  let i := bits w 9 3; let o := bits w 6 3; let q := bits w 3 3; let n := bits w 0 3
  match (bits w 12 4).toNat with
  | 0x0 => okPorts [i, o] (q == 0) (.swRoute i o n)
  | 0x1 => okPorts [i] true (.swFork i o (bits w 0 6))
  | 0x2 => okPorts [i, o, q] true (.swMerge i o q n)
  | 0x3 => okPorts [i, o, q] true (.swGate i o q n)
  | 0x4 => okPorts [i, o, bits w 2 3] true (.swSteer i o (bits w 5 1) (bits w 2 3) (bits w 0 2))
  | 0x5 => if scopeOk q then okPorts [i, o] true (.swBound i o q n) else .error .unassignedField
  | 0x6 => if bits w 4 2 == 3 then .error .unassignedField
           else okPorts [i, o] (bits w 3 1 == 0) (.swNull i o (bits w 4 2) n)
  | 0x7 => okPorts [i] (bits w 0 9 == 0) (.swSink i)
  | 0x8 => okPorts [o] (i == 0) (.swSrc o q n)
  | 0x9 => if o == 5 then okPorts [i] (bits w 0 6 == 0) (.swCtl i) else .error .unassignedField
  | 0xA => okPorts [i, o] (q == 0) (.swOrd i o n)
  | _ => .error .unassignedOpcode

/-! Encoders, from the same tables. -/

/-- Format SA (R101). -/
def encSA (m : BitVec 6) (d a b : Reg) (f : BitVec 11) : W32 := m ++ d ++ a ++ b ++ f
/-- Format SI; also SB, whose registers stand in the same places. -/
def encSI (m : BitVec 6) (d a : Reg) (i : BitVec 16) : W32 := m ++ d ++ a ++ i
/-- Format SJ. -/
def encSJ (m : BitVec 6) (o : BitVec 26) : W32 := m ++ o
/-- Format SE. -/
def encSE (m : BitVec 6) (d a b : Reg) (p : Pen) (f : BitVec 8) : W32 := m ++ d ++ a ++ b ++ p ++ f
/-- Operation word (R107) of class and opcode `co`. -/
def encOp (co : BitVec 10) (d a b c t r : BitVec 3) (s : BitVec 1) (m : BitVec 3) : W32 :=
  co ++ d ++ a ++ b ++ c ++ t ++ r ++ s ++ m
/-- Matrix word (R114). -/
def encMx (co : BitVec 7) (a : BitVec 6) (g h w : BitVec 4) (n b z c k : BitVec 1) : W32 :=
  co ++ a ++ g ++ h ++ w ++ n ++ b ++ z ++ c ++ k ++ (0 : BitVec 2)
/-- Switch word (R117) with [5:3] and [2:0] apart. -/
def encSw (k : BitVec 4) (i o q n : BitVec 3) : Half := k ++ i ++ o ++ q ++ n

/-- The 32-bit word of a sequencer instruction or operation word; none for switch words and events. -/
def encode32 : Instr → Option W32
  | .add d a b => some (encSA 0x01 d a b 0x000)
  | .sub d a b => some (encSA 0x01 d a b 0x001)
  | .and d a b => some (encSA 0x01 d a b 0x002)
  | .or d a b => some (encSA 0x01 d a b 0x003)
  | .xor d a b => some (encSA 0x01 d a b 0x004)
  | .andn d a b => some (encSA 0x01 d a b 0x005)
  | .sll d a b => some (encSA 0x01 d a b 0x008)
  | .srl d a b => some (encSA 0x01 d a b 0x009)
  | .sra d a b => some (encSA 0x01 d a b 0x00A)
  | .slt d a b => some (encSA 0x01 d a b 0x010)
  | .sltu d a b => some (encSA 0x01 d a b 0x011)
  | .seq d a b => some (encSA 0x01 d a b 0x012)
  | .min d a b => some (encSA 0x01 d a b 0x013)
  | .minu d a b => some (encSA 0x01 d a b 0x014)
  | .max d a b => some (encSA 0x01 d a b 0x015)
  | .maxu d a b => some (encSA 0x01 d a b 0x016)
  | .clz d a => some (encSA 0x01 d a 0 0x018)
  | .ctz d a => some (encSA 0x01 d a 0 0x019)
  | .popc d a => some (encSA 0x01 d a 0 0x01A)
  | .mul d a b => some (encSA 0x02 d a b 0x000)
  | .mulh d a b => some (encSA 0x02 d a b 0x001)
  | .mulhu d a b => some (encSA 0x02 d a b 0x002)
  | .mulhsu d a b => some (encSA 0x02 d a b 0x003)
  | .div d a b => some (encSA 0x02 d a b 0x004)
  | .divu d a b => some (encSA 0x02 d a b 0x005)
  | .rem d a b => some (encSA 0x02 d a b 0x006)
  | .remu d a b => some (encSA 0x02 d a b 0x007)
  | .csrr d c => some (encSE 0x03 d 0 0 0 c)
  | .csrw d a c => some (encSE 0x03 d a 0 1 c)
  | .csrs d a c => some (encSE 0x03 d a 0 2 c)
  | .csrc d a c => some (encSE 0x03 d a 0 3 c)
  | .addi d a i => some (encSI 0x04 d a i)
  | .andi d a i => some (encSI 0x05 d a i)
  | .ori d a i => some (encSI 0x06 d a i)
  | .xori d a i => some (encSI 0x07 d a i)
  | .slti d a i => some (encSI 0x08 d a i)
  | .sltiu d a i => some (encSI 0x09 d a i)
  | .lui d i => some (encSI 0x0A d 0 i)
  | .slli d a n => some (encSI 0x0B d a ((0 : BitVec 6) ++ (0 : BitVec 2) ++ (0 : BitVec 2) ++ n))
  | .srli d a n => some (encSI 0x0B d a ((0 : BitVec 6) ++ (1 : BitVec 2) ++ (0 : BitVec 2) ++ n))
  | .srai d a n => some (encSI 0x0B d a ((0 : BitVec 6) ++ (2 : BitVec 2) ++ (0 : BitVec 2) ++ n))
  | .lb d a i => some (encSI 0x10 d a i)
  | .lbu d a i => some (encSI 0x11 d a i)
  | .lh d a i => some (encSI 0x12 d a i)
  | .lhu d a i => some (encSI 0x13 d a i)
  | .lw d a i => some (encSI 0x14 d a i)
  | .lwu d a i => some (encSI 0x15 d a i)
  | .ld d a i => some (encSI 0x16 d a i)
  | .stb d a i => some (encSI 0x18 d a i)
  | .sth d a i => some (encSI 0x19 d a i)
  | .stw d a i => some (encSI 0x1A d a i)
  | .std d a i => some (encSI 0x1B d a i)
  | .beq a b o => some (encSI 0x20 a b o)
  | .bne a b o => some (encSI 0x21 a b o)
  | .blt a b o => some (encSI 0x22 a b o)
  | .bge a b o => some (encSI 0x23 a b o)
  | .bltu a b o => some (encSI 0x24 a b o)
  | .bgeu a b o => some (encSI 0x25 a b o)
  | .j o => some (encSJ 0x26 o)
  | .jal o => some (encSJ 0x27 o)
  | .jalr d a i => some (encSI 0x28 d a i)
  | .fence s => some (encSA 0x2C 0 0 0 ((2 : BitVec 8) ++ s))
  | .ifence => some (encSA 0x2C 0 0 0 0x020)
  | .tret => some (encSA 0x2C 0 0 0 0x030)
  | .kend => some (encSA 0x2C 0 0 0 0x031)
  | .trap n => some (encSE 0x2C 0 0 0 1 n)
  | .waitp m => some (encSE 0x2D 0 0 0 0 m)
  | .cfgFetch d a b p => some (encSE 0x30 d a b p 0x00)
  | .cfgPlace d a b p => some (encSE 0x30 d a b p 0x01)
  | .cfgStitch d a b p => some (encSE 0x30 d a b p 0x02)
  | .cfgStart d a b => some (encSE 0x30 d a b 0 0x03)
  | .cfgSplice d a b p => some (encSE 0x30 d a b p 0x04)
  | .cfgDrain d a p => some (encSE 0x30 d a 0 p 0x05)
  | .cfgEvict d a => some (encSE 0x30 d a 0 0 0x06)
  | .cfgPatch d a b => some (encSE 0x30 d a b 0 0x07)
  | .cfgInv d a b p => some (encSE 0x30 d a b p 0x08)
  | .sxBind d a b p => some (encSE 0x31 d a b p 0x00)
  | .sxGo d a => some (encSE 0x31 d a 0 0 0x01)
  | .sxBar d a p => some (encSE 0x31 d a 0 p 0x02)
  | .sxMcast d a b p => some (encSE 0x31 d a b p 0x03)
  | .sxStop d a => some (encSE 0x31 d a 0 0 0x04)
  | .sxQuery d a => some (encSE 0x31 d a 0 0 0x05)
  | .sxSparse d a b p => some (encSE 0x31 d a b p 0x06)
  | .sxRemote d a b p => some (encSE 0x31 d a b p 0x07)
  | .sxWbload d a b p => some (encSE 0x31 d a b p 0x08)
  | .sxTile d a b p => some (encSE 0x31 d a b p 0x09)
  | .mxZero d a p => some (encSE 0x32 d a 0 p 0x00)
  | .mxMove d a p => some (encSE 0x32 d a 0 p 0x01)
  | .mxLdsh d a b p => some (encSE 0x32 d a b p 0x02)
  | .mxLdwd d a b p => some (encSE 0x32 d a b p 0x03)
  | .mxTag d a => some (encSE 0x32 d a 0 0 0x04)
  | .bsQuery d a => some (encSE 0x33 d a 0 0 0x00)
  | .bsSeed d a b => some (encSE 0x33 d a b 0 0x01)
  | .bsPolicy d a b => some (encSE 0x33 d a b 0 0x02)
  | .bsUniform d a => some (encSE 0x33 d a 0 0 0x03)
  | .bsRound d a p => some (encSE 0x33 d a 0 p 0x04)
  | .amo d a b o t => some (encSE 0x34 d a b 0 ((0 : BitVec 2) ++ o ++ t))
  | .waitu d a b => some (encSE 0x34 d a b 0 0x40)
  | .wcancel d a b => some (encSE 0x34 d a b 0 0x41)
  | .cpin d a => some (encSE 0x34 d a 0 0 0x42)
  | .cunpin d a => some (encSE 0x34 d a 0 0 0x43)
  | .embPool d a b p => some (encSE 0x35 d a b p 0x00)
  | .embGather d a b p => some (encSE 0x35 d a b p 0x01)
  | .embScatadd d a b p => some (encSE 0x35 d a b p 0x02)
  | .nbDrain d p => some (encSE 0x36 d 0 0 p 0x00)
  | .ctxYield d => some (encSE 0x37 d 0 0 0 0x00)
  | .ctxMark d => some (encSE 0x37 d 0 0 0 0x01)
  | .ctxFault d a b => some (encSE 0x37 d a b 0 0x02)
  | .scld d a t w => some (encOp 0x080 d a 0 0 t 0 0 w)
  | .scst d a b t w => some (encOp 0x081 d a b 0 t 0 0 w)
  | .scamoAdd d a b t w => some (encOp 0x088 d a b 0 t 0 0 w)
  | .scamoMin d a b t w => some (encOp 0x089 d a b 0 t 0 0 w)
  | .scamoMax d a b t w => some (encOp 0x08A d a b 0 t 0 0 w)
  | .scamoAnd d a b w => some (encOp 0x08B d a b 0 4 0 0 w)
  | .scamoOr d a b w => some (encOp 0x08C d a b 0 4 0 0 w)
  | .scamoXor d a b w => some (encOp 0x08D d a b 0 4 0 0 w)
  | .scamoSwap d a b w => some (encOp 0x08E d a b 0 4 0 0 w)
  | .scamoCas d a b c w => some (encOp 0x08F d a b c 4 0 0 w)
  | .cbput d a => some (encOp 0x090 d a 0 0 4 0 0 0)
  | .cbget d a => some (encOp 0x091 d a 0 0 4 0 0 0)
  | .cbadv d a m => some (encOp 0x092 d a 0 0 4 0 0 ((0 : BitVec 2) ++ m))
  | .cbwait d a m => some (encOp 0x093 d a 0 0 4 0 0 ((0 : BitVec 2) ++ m))
  | .mtfill d a b t => some (encOp 0x098 d a b 0 t 0 0 0)
  | .mttag d => some (encOp 0x099 d 0 0 0 4 0 0 0)
  | .mld d a t s => some (encOp 0x100 d a 0 0 t 0 0 s)
  | .mst d a b t s => some (encOp 0x101 d a b 0 t 0 0 s)
  | .mldNc d a t s => some (encOp 0x102 d a 0 0 t 0 0 s)
  | .mstNc d a b t s => some (encOp 0x103 d a b 0 t 0 0 s)
  | .mgath d a t s => some (encOp 0x104 d a 0 0 t 0 0 s)
  | .mscat d a b t s => some (encOp 0x105 d a b 0 t 0 0 s)
  | .mfence d k s => some (encOp 0x108 d 0 0 0 k 0 0 s)
  | .mord => some (encOp 0x109 2 0 0 0 0 0 0 0)
  | .mflush d a s => some (encOp 0x10A d a 0 0 0 0 0 s)
  | .minv d a s => some (encOp 0x10B d a 0 0 0 0 0 s)
  | .mamoAdd d a b t s => some (encOp 0x110 d a b 0 t 0 0 s)
  | .mamoMin d a b t s => some (encOp 0x111 d a b 0 t 0 0 s)
  | .mamoMax d a b t s => some (encOp 0x112 d a b 0 t 0 0 s)
  | .mamoAnd d a b s => some (encOp 0x113 d a b 0 4 0 0 s)
  | .mamoOr d a b s => some (encOp 0x114 d a b 0 4 0 0 s)
  | .mamoXor d a b s => some (encOp 0x115 d a b 0 4 0 0 s)
  | .mamoSwap d a b s => some (encOp 0x116 d a b 0 4 0 0 s)
  | .mamoCas d a b c s => some (encOp 0x117 d a b c 4 0 0 s)
  | .mwaitu a b c k w s => some (encOp 0x118 0 a b c k 0 w s)
  | .mxMma a g h w n b z c k => some (encMx 0x30 a g h w n b z c k)
  | .mxMmas a g h w n b z c k => some (encMx 0x31 a g h w n b z c k)
  | .nbFwd => some (encOp 0x200 0 0 0 0 2 0 0 0)
  | .nbScan t s m => some (encOp 0x201 0 0 0 0 t 0 s m)
  | _ => none

/-- The 16-bit word of a switch word (R117, R118); none for everything else. -/
def encode16 : Instr → Option Half
  | .swRoute i o n => some (encSw 0x0 i o 0 n)
  | .swFork i n m => some ((0x1 : BitVec 4) ++ i ++ n ++ m)
  | .swMerge i o j n => some (encSw 0x2 i o j n)
  | .swGate i o b n => some (encSw 0x3 i o b n)
  | .swSteer i t u f l => some ((0x4 : BitVec 4) ++ i ++ t ++ u ++ f ++ l)
  | .swBound i o s n => some (encSw 0x5 i o s n)
  | .swNull i o p n => some ((0x6 : BitVec 4) ++ i ++ o ++ p ++ (0 : BitVec 1) ++ n)
  | .swSink i => some (encSw 0x7 i 0 0 0)
  | .swSrc o q n => some (encSw 0x8 0 o q n)
  | .swCtl i => some (encSw 0x9 i 5 0 0)
  | .swOrd i o n => some (encSw 0xA i o 0 n)
  | _ => none

/-- The bytes of an instruction as the hardware stores them, the lowest address first (R3). -/
def encode (i : Instr) : Option (List Byte) :=
  match encode32 i with
  | some w => some (leBytes 4 w.toNat)
  | none => (encode16 i).map (fun w => leBytes 2 w.toNat)

/-- Four bytes in memory order as a word. -/
def word32 (bs : List Byte) : W32 := BitVec.ofNat 32 (leNat bs)

/-- The word an operation-word holder or the sequencer would read; a word that is assigned as an operation word is read
as one, because operation words leave most of the space unassigned (log entry 6). -/
def decodeWord32 (w : W32) : Option Instr :=
  match decodeOp w with
  | .ok i => some i
  | .error _ => (decodeSeq w).toOption

/-- The decoder on a row of the table: `nbits` bits numbered from the least significant bit of the first word. -/
def decodeTableWord (nbits w : Nat) : Option Instr :=
  if nbits ≤ 16 then (decodeSw (BitVec.ofNat 16 (leNat (leBytes 2 w)))).toOption
  else decodeWord32 (word32 (leBytes 4 w))

end Sys2Proof
end

