-- ==== Sys2Proof/Machine/Ops.lean ====
section
/-! DEFINITION. The named operations over maps, memory, cores and registers; fault records (R455, R457); taking a
sequencer trap (R155) and returning from one (R157). -/

namespace Sys2Proof.Machine

-- maps ------------------------------------------------------------------------------------------------------------

/-- The entry at key `k`. -/
def mapGet {α : Type} : SMap α → Nat → Option α
  | [], _ => none
  | (a, v) :: r, k => if a = k then some v else mapGet r k

/-- The entry at key `k`, or `d`. -/
def mapGetD {α : Type} (m : SMap α) (k : Nat) (d : α) : α := (mapGet m k).getD d

/-- The map with `v` at key `k`. -/
def mapSet {α : Type} : SMap α → Nat → α → SMap α
  | [], k, v => [(k, v)]
  | (a, x) :: r, k, v =>
    if k < a then (k, v) :: (a, x) :: r else if k = a then (k, v) :: r else (a, x) :: mapSet r k v

/-- The map without key `k`. -/
def mapDel {α : Type} : SMap α → Nat → SMap α
  | [], _ => []
  | (a, x) :: r, k => if a = k then mapDel r k else (a, x) :: mapDel r k

/-- Element `i` of a list, or `d`. -/
def nthD {α : Type} (l : List α) (i : Nat) (d : α) : α := (l[i]?).getD d

/-- The list without its element `i`. -/
def dropNth {α : Type} (l : List α) (i : Nat) : List α := l.take i ++ l.drop (i + 1)

/-- `some` of the first index at which `p` holds. -/
def findIdx {α : Type} (l : List α) (p : α → Bool) : Option Nat :=
  match l with
  | [] => none
  | a :: r => if p a then some 0 else (findIdx r p).map (· + 1)

/-- Replaces each element that `p` picks by `f` of it. -/
def mapWhere {α : Type} (l : List α) (p : α → Bool) (f : α → α) : List α := l.map fun a => if p a then f a else a

-- memory ----------------------------------------------------------------------------------------------------------

/-- The byte at `a`; an unlisted byte reads 0 (R470). -/
def memGet : Mem → Nat → Byte
  | [], _ => 0
  | (k, v) :: r, a => if k = a then v else memGet r a

/-- Stores one byte, keeping the canonical form. -/
def memPut : Mem → Nat → Byte → Mem
  | [], a, v => if v = 0 then [] else [(a, v)]
  | (k, x) :: r, a, v =>
    if a < k then (if v = 0 then (k, x) :: r else (a, v) :: (k, x) :: r)
    else if a = k then (if v = 0 then r else (k, v) :: r)
    else (k, x) :: memPut r a v

/-- `n` bytes from `a`. -/
def memRead (m : Mem) (a : Nat) : Nat → List Byte
  | 0 => []
  | n + 1 => memGet m a :: memRead m (a + 1) n

/-- Stores bytes from `a` up. -/
def memWrite (m : Mem) (a : Nat) : List Byte → Mem
  | [] => m
  | b :: r => memWrite (memPut m a b) (a + 1) r

/-- The first key of `m` is at least `lo`, keys rise, and no listed byte is 0. -/
def Mem.wfFrom (lo : Nat) : Mem → Bool
  | [] => true
  | (k, v) :: r => decide (lo ≤ k) && v != 0 && Mem.wfFrom (k + 1) r

/-- The canonical form of a memory. -/
def Mem.wf (m : Mem) : Bool := Mem.wfFrom 0 m

/-- The little-endian number of `n` bytes at `a` (R3). -/
def memNat (m : Mem) (a n : Nat) : Nat := leNat (memRead m a n)

/-- Zeroes `n` bytes from `a`, on the list of bytes that are listed there. -/
def memZero (m : Mem) (a n : Nat) : Mem := m.filter fun p => p.1 < a || a + n ≤ p.1

/-- Copies `n` bytes from `a` to `b`. -/
def memMove (m : Mem) (a b n : Nat) : Mem :=
  ((m.filter fun p => a ≤ p.1 && p.1 < a + n).foldl (fun acc p => memPut acc (p.1 - a + b) p.2) (memZero m b n))

/-- Memory `m` with the `n` bytes at `a` replaced by the bytes of `sec`, whose addresses count from `a`. -/
def memSection (m : Mem) (a n : Nat) (sec : Mem) : Mem :=
  (m.filter fun p => p.1 < a) ++ ((sec.filter fun p => p.1 < n).map fun p => (a + p.1, p.2)) ++ m.filter fun p => a + n ≤ p.1
/-- The `n` bytes at `a`, with addresses that count from `a`. -/
def memPart (m : Mem) (a n : Nat) : Mem := (m.filter fun p => a ≤ p.1 && p.1 < a + n).map fun p => (p.1 - a, p.2)
/-- A list of bytes as a memory from address `a` up. -/
def bytesMem (a : Nat) : List Byte → Mem
  | [] => []
  | b :: r => if b = 0 then bytesMem (a + 1) r else (a, b) :: bytesMem (a + 1) r

/-- Whether any of `n` bytes at `a` has an uncorrectable error (R98). -/
def isBad (bad : List Nat) (a n : Nat) : Bool := bad.any fun b => decide (a ≤ b ∧ b < a + n)

-- cores -----------------------------------------------------------------------------------------------------------

/-- The state of core `n`. -/
def coreAt (s : State) (n : Nat) : Core := mapGetD s.cores n Core.reset
/-- The state with core `n` set. -/
def setCore (s : State) (n : Nat) (c : Core) : State := { s with cores := mapSet s.cores n c }
/-- The core whose turn it is. -/
def cur (s : State) : Core := coreAt s s.core
/-- Sets the core whose turn it is. -/
def setCur (s : State) (c : Core) : State := setCore s s.core c
/-- Changes the core whose turn it is. -/
def updCur (s : State) (f : Core → Core) : State := setCur s (f (cur s))
/-- Changes core `n`. -/
def updCore (s : State) (n : Nat) (f : Core → Core) : State := setCore s n (f (coreAt s n))

/-- Core number of rank `r` in the cluster of core `n` (R20). -/
def peer (n r : Nat) : Nat := n / 4 * 4 + r
/-- Context `n`. -/
def ctxAt (s : State) (n : Nat) : Ctx := mapGetD s.ctxs n Ctx.reset
/-- Sets context `n`. -/
def setCtx (s : State) (n : Nat) (c : Ctx) : State := { s with ctxs := mapSet s.ctxs n c }
/-- Slice `n`. -/
def sliceAt (s : State) (n : Nat) : Slice := mapGetD s.slices n Slice.reset
/-- Sets slice `n`. -/
def setSlice (s : State) (n : Nat) (c : Slice) : State := { s with slices := mapSet s.slices n c }
/-- Queue `n`. -/
def queueAt (s : State) (n : Nat) : Queue := mapGetD s.queues n Queue.reset
/-- Sets queue `n`. -/
def setQueue (s : State) (n : Nat) (q : Queue) : State := { s with queues := mapSet s.queues n q }

-- registers -------------------------------------------------------------------------------------------------------

/-- X[n] of the sequencer: s0 reads as zero (R132). -/
def getX (q : Seq) (r : Reg) : Word := if r = 0 then 0 else q.regs[r.toNat]'r.isLt
/-- Writes X[n]; writing s0 has no effect (R132). -/
def setX (q : Seq) (r : Reg) (v : Word) : Seq :=
  if r = 0 then q else { q with regs := q.regs.set r.toNat v r.isLt }

/-- Whether an issued command has not yet written `r` as its rd (R105). -/
def regBusy (c : Core) (r : Reg) : Bool := r != 0 && c.cmds.any fun m => m.rdWait && m.rd == r
/-- The sequencer may issue: in RUN, or in WAIT but for `waitu` (R133). -/
def issuing (q : Seq) : Bool := q.st == .run || (q.st == .wait && q.waitu.isNone)

/-- Issue of one instruction that reads or writes the registers `rs`: nothing in other states; WAIT while a command has
still to write one of them (R105, R133, R144); otherwise `f` on the core in RUN. -/
def onIssue (s : State) (rs : List Reg) (f : State → Core → State) : State :=
  let c := cur s
  if !issuing c.seq then s
  else if rs.any (regBusy c) then setCur s { c with seq := { c.seq with st := .wait } }
  else f s { c with seq := { c.seq with st := .run } }

/-- The sequencer with rd written and pc moved to the next instruction. -/
def wrNext (q : Seq) (d : Reg) (v : Word) : Seq := { setX q d v with pc := q.pc + 4 }

/-- An instruction that only writes `v c` into rd. -/
def regOp (s : State) (rs : List Reg) (d : Reg) (v : Seq → Word) : State :=
  onIssue s (d :: rs) fun s c => setCur s { c with seq := wrNext c.seq d (v c.seq) }

/-- Bits [63:57] all equal bit 56 (R74). -/
def canonical (a : Word) : Bool := a.toNat < 2 ^ 56 || 2 ^ 64 - 2 ^ 56 ≤ a.toNat
/-- The first address of the sequencer's local aperture (R151). -/
def apertureBase : Nat := 0xFFFF_FFFF_0000_0000
/-- In the local aperture (R151). -/
def inAperture (a : Word) : Bool := apertureBase ≤ a.toNat
/-- Offset in the aperture. -/
def apOff (a : Word) : Nat := a.toNat - apertureBase
/-- The low 58 bits, the INFO of address traps (R154). -/
def low58 (a : Word) : Nat := a.toNat % 2 ^ 58

-- cohorts and fault records ---------------------------------------------------------------------------------------

/-- A fault record's fields (R455); word 3's SEQ and LID are added when it is written. -/
structure Record where
  kind : Nat
  fatal : Bool
  park : Bool
  core : Nat
  unit : Nat
  pos : Nat
  slot : Nat
  flags : Nat
  base : Nat
  len : Nat
  sp : Nat
  status : Nat
  addr : Word
  deriving DecidableEq, Repr

/-- The four words of a record (R455). -/
def recordWords (r : Record) (ctx : Nat) (seq lid : W32) : List Word :=
  [ BitVec.ofNat 64 (r.kind % 256 + ctx % 64 * 2 ^ 8 + r.fatal.toNat * 2 ^ 14 + r.park.toNat * 2 ^ 15 +
      r.core % 512 * 2 ^ 16 + r.unit % 16 * 2 ^ 32 + r.pos % 64 * 2 ^ 36 + r.slot % 8 * 2 ^ 42 + r.flags % 32 * 2 ^ 45),
    BitVec.ofNat 64 (r.base % 4096 + r.len % 64 * 2 ^ 12 + r.sp % 256 * 2 ^ 24 + r.status % 2 ^ 32 * 2 ^ 32),
    r.addr,
    BitVec.ofNat 64 (seq.toNat + lid.toNat * 2 ^ 32) ]

/-- Sends a record to the launch unit: SEQ is the context's fault counter, which rises by one (R455, R457). -/
def putRecord (s : State) (ctx : Nat) (lid : W32) (launch : Option Nat) (r : Record) : State :=
  let x := ctxAt s ctx
  let s := setCtx s ctx { x with seq := x.seq + 1 }
  { s with
    lu := { s.lu with fbuf := s.lu.fbuf ++ [(recordWords r ctx x.seq lid, ctx)] }
    launches := mapWhere s.launches (fun l => some l.id == launch)
      fun l => { l with nfault := if l.nfault = -1 then l.nfault else l.nfault + 1 } }

/-- The cohort a unit works for: during a chained start the fabric still works for the predecessor (R453). -/
def fabricCohort (c : Core) : Option Cohort := c.prev <|> c.coh

/-- The cohort's index in its launch (R392). -/
def cohortIndex (h : Cohort) : Nat := 24 * h.dg + 4 * h.cg + h.coh

/-- The entry or wake is one of cohort `h` (R392, R400). -/
def isWaiter (h : Cohort) (e : Watch) : Bool := e.ctx == h.ctx && e.cohort == cohortIndex h && e.launch == h.launch

/-- Takes the watch entries that `p` picks out of every slice; a spilled entry's V bit is cleared in its bucket, and the
filter is cleared when the last one goes (R392, R396, R397). -/
def takeWatches (s : State) (p : Watch → Bool) : State :=
  let gone := s.slices.flatMap fun x => x.2.spill.filter fun e => p e.2
  { s with
    mem := gone.foldl (fun m e => memPut m e.1 (memGet m e.1 &&& 0xFE)) s.mem
    slices := s.slices.map fun x =>
      let sp := x.2.spill.filter fun e => !p e.2
      (x.1, { x.2 with
        onchip := x.2.onchip.filter fun e => !p e
        retry := x.2.retry.filter fun e => !p e
        spill := sp
        filter := if sp.isEmpty then [] else x.2.filter }) }

/-- The entries that `p` picks, on chip and spilled. -/
def pickWatches (s : State) (p : Watch → Bool) : List Watch :=
  s.slices.flatMap fun x => x.2.onchip.filter p ++ (x.2.spill.map (·.2)).filter p

/-- Drops a cohort's watch entries; their wakes are discarded (R401). -/
def dropWatches (s : State) (h : Cohort) : State :=
  let mine := fun (e : Watch) => isWaiter h e && e.agent != 2
  let s := takeWatches s mine
  { s with wakes := s.wakes.filter fun w => !mine w.e }

/-- The fatal end of a cohort (R35, R133): the sequencer enters DEAD, sources stop, its watch entries are cancelled. -/
def endCohort (s : State) (n : Nat) (seqSide : Bool) : State :=
  let c := coreAt s n
  match (if seqSide then c.coh else fabricCohort c) with
  | none => s
  | some h =>
    let mineIsCoh := seqSide || c.prev.isNone
    let c := if mineIsCoh then { c with coh := some { h with fatal := true }, seq := { c.seq with st := .dead, waitu := none } }
             else { c with prev := some { h with fatal := true } }
    let s := dropWatches (setCore s n c) h
    { s with launches := mapWhere s.launches (·.id == h.launch) fun l => { l with fatal := true } }

/-- A fault of a unit of core `n` (R11, R12): its record, and the fatal end of its cohort when `r.fatal`. A cohort that has
ended fatally retires at once (R35): no further record is written for it. -/
def faultAt (s : State) (n : Nat) (seqSide : Bool) (r : Record) : State :=
  let c := coreAt s n
  match (if seqSide then c.coh else fabricCohort c) with
  | none => s
  | some h =>
    if h.fatal then s
    else
      let s := putRecord s h.ctx h.lid (some h.launch) { r with core := n }
      if r.fatal then endCohort s n seqSide else s

/-- A record with every optional field zero. -/
def Record.mk' (kind unit status : Nat) (fatal : Bool) : Record :=
  { kind := kind, fatal := fatal, park := false, core := 0x1FF, unit := unit, pos := 0, slot := 0, flags := 0,
    base := 0, len := 0, sp := 0, status := status, addr := 0 }

/-- One entry of the sideband log (R484): the event, its die and port, and the trust core's cycles, which have grown by a free number
since the event before or power-on; beyond 256 the oldest goes. -/
def logEvent (s : State) (event die port : Nat) : State :=
  let t := s.trust
  let w : Word := BitVec.ofNat 64 (event % 256 + die % 16 * 2 ^ 8 + port % 16 * 2 ^ 12 + t.logNext % 2 ^ 16 * 2 ^ 16)
  let cycles := t.cycles + Config.trustCycles t.tick
  let log := t.log ++ [(w, BitVec.ofNat 64 cycles)]
  { s with trust := { t with
      log := log.drop (log.length - 256), logNext := (t.logNext + 1) % 2 ^ 16, tick := t.tick + 1, cycles := cycles } }

/-- An uncorrectable error that no context can be charged with (R473, R484). -/
def unchargedError (s : State) (die : Nat) : State :=
  logEvent { s with mod := { s.mod with err := s.mod.err ||| 2 } } 3 die 0

/-- A write to the management window acts only while the window answers (R470, R472, R478). -/
def mgmt (s : State) (f : State → State) : State := if s.mod.window then f s else s

-- taking an exception and returning from it -----------------------------------------------------------------------

/-- `trap(cause)` of R155 on the core whose turn it is: with TH = 1 or no handler the sequencer enters DEAD and its
cohort ends with a sequencer-fatal record; otherwise SQ_EPC takes the pc, SQ_CAUSE the cause, TH is set and pc is
SQ_TVEC. A sequencer that is DEAD takes none (its store's watches may have ended the cohort, R399). -/
def trap (s : State) (cause : Nat) : State :=
  let c := cur s
  if c.seq.st = .dead then s
  else if c.seq.th || c.seq.tvec == 0 then
    faultAt (setCur s { c with seq := { c.seq with st := .dead, waitu := none } }) s.core true
      { Record.mk' 0x0C 7 (cause % 2 ^ 32) true with addr := c.seq.pc }
  else
    setCur s { c with seq := { c.seq with
      epc := c.seq.pc, cause := BitVec.ofNat 64 cause, th := true, pc := c.seq.tvec, st := .run } }

/-- `tret` with TH = 1 (R157). -/
def returnFromTrap (s : State) : State :=
  updCur s fun c => { c with seq := { c.seq with pc := c.seq.epc, th := false } }

/-- Parks the sequencer on a translation fault (R152, R187): one record of kind sequencer translation, STALL. -/
def stallSeq (s : State) (va : Word) (cause : Nat) : State :=
  let c := cur s
  let q := { c.seq with st := .stall }
  if c.seq.st = .dead then s
  else match c.coh with
  | none => setCur s { c with seq := q }
  | some h =>
    let n := (ctxAt s h.ctx).seq
    putRecord (setCur s { c with
        seq := q, parked := c.parked ++ [{ seq := n, who := .sequencer, va := va, inRing := false, answer := 0 }] })
      h.ctx h.lid (some h.launch)
      { Record.mk' 0x0B 7 cause false with park := true, core := s.core, addr := va }

end Sys2Proof.Machine
end

