-- ==== Sys2Proof/Machine/Flags.lean ====
section
/-! DEFINITION. The nine flag sets of a core (R65, R66): raising, reading and clearing; the control and status registers
as values (R135 to R142) and the fields a write changes (R8, R156). -/

namespace Sys2Proof.Machine

/-- Flag set `i`: 0 to 7 the regions', 8 the commands'; no set beyond (R142). -/
def flagSet (c : Core) (i : Nat) : Flags := nthD c.flags i 0

/-- raise(f) in flag set `i` (R65). -/
def raiseIn (c : Core) (i : Nat) (f : Flags) : Core := { c with flags := c.flags.set i (flagSet c i ||| f) }

/-- Clears the bits `f` of flag set `i` (R66). -/
def clearIn (c : Core) (i : Nat) (f : Flags) : Core := { c with flags := c.flags.set i (flagSet c i &&& ~~~f) }

/-- Region number that holds placement `p`: its configuration's or, in a splice, its successor's. -/
def regionOfPlace (c : Core) (p : Nat) : Option Nat :=
  (c.regions.find? fun r => r.2.cfg.place == p || (match r.2.succ with | some x => x.cfg.place == p | none => false)).map
    (·.1)

/-- Flag set of the region of placement `p`, for the FLAGS of a record whose site fields name a unit of that region: a site, a
memory node, the op list, nu or nd (R455, R65; log entry 44). -/
def placeFlags (c : Core) (p : Nat) : Nat :=
  match regionOfPlace c p with
  | some r => (flagSet c r).toNat
  | none => 0

/-- raise(f) in a slot of placement `p`: in its region's flag set. -/
def raisePlace (c : Core) (p : Nat) (f : Flags) : Core :=
  match regionOfPlace c p with
  | some r => raiseIn c r f
  | none => c

/-- PB: bit i is 1 while the count of pn i is non-zero (R136). -/
def pennantBusy (q : Seq) : Nat := (List.range 8).foldl (fun a i => if nthD q.pn i 0 ≠ 0 then a + 2 ^ i else a) 0

/-- NZ: bit i is 1 while flag set i is non-zero (R142). -/
def flagsNonZero (c : Core) : Nat := (List.range 9).foldl (fun a i => if flagSet c i ≠ 0 then a + 2 ^ i else a) 0

/-- Value of control and status register `r` on core `n` (R135 to R142). -/
def csrValue (n : Nat) (c : Core) (r : BitVec 8) : Word :=
  let q := c.seq
  match r.toNat with
  | 0x00 => BitVec.ofNat 64 (q.th.toNat + q.pf.toNat * 2 ^ 8 + pennantBusy q * 2 ^ 16)
  | 0x01 => q.cause
  | 0x02 => q.epc
  | 0x03 => q.tvec
  | 0x04 => q.cycle
  | 0x05 => q.ctxReg
  | 0x06 => BitVec.ofNat 64 (n % 4 + n / 4 % 6 * 2 ^ 2 + n / 24 * 2 ^ 5 + n * 2 ^ 16)
  | 0x07 => q.cohReg
  | 0x08 => 0x0000_0001_0001_0001#64
  | 0x09 => q.fpdef.setWidth 64
  | _ => BitVec.ofNat 64 ((flagSet c q.sel.toNat).toNat + q.sel.toNat * 2 ^ 8 + flagsNonZero c * 2 ^ 16)

/-- The core with register `r` written with `v` (R8, R156): RW fields take their bits, W1C fields clear where `v` has a 1
when `w1c`, RO and res0 fields keep. -/
def csrPut (c : Core) (r : BitVec 8) (v : Word) (w1c : Bool) : Core :=
  let q := c.seq
  match r.toNat with
  | 0x00 => if w1c then { c with seq := { q with pf := q.pf &&& ~~~(v.extractLsb' 8 8) } } else c
  | 0x01 => { c with seq := { q with cause := v } }
  | 0x02 => { c with seq := { q with epc := v &&& ~~~3#64 } }
  | 0x03 => { c with seq := { q with tvec := v &&& ~~~3#64 } }
  | 0x09 => { c with seq := { q with fpdef := v.extractLsb' 0 3 } }
  | 0x0A =>
    let c := { c with seq := { q with sel := v.extractLsb' 8 4 } }
    if w1c then clearIn c (v.extractLsb' 8 4).toNat (v.extractLsb' 0 5) else c
  | _ => c

/-- A write to SQ_FPDEF that would leave 0b110 or 0b111 in MODE (R141). -/
def csrRefused (r : BitVec 8) (v : Word) : Bool := r == 0x09 && decide ((v.extractLsb' 0 3).toNat ≥ 6)

end Sys2Proof.Machine
end

