-- ==== Sys2Proof/Machine/Home.lean ====
section
/-! DEFINITION. Where a line lives (R76, R378 to R381), home writes and the watch table (R389 to R401), translation
(R184 to R187), the cache banks of a core (R81 to R83). -/

namespace Sys2Proof.Machine

/-- Feature bit `i` of FEAT0 is accepted (R474). -/
def accepted (s : State) (i : Nat) : Bool :=
  match s.mod.feat with
  | some (w :: _) => w.getLsbD i
  | _ => false

/-- The ranges of R76. -/
inductive Range where
  | hbm | capacity | host
  deriving DecidableEq, Repr

/-- Home-map entry of an HBM address (R378). -/
def homeEntry (s : State) (pa : Nat) : Word := mapGetD s.homeMap (pa / 2 ^ 30) 0

/-- The range a physical address lies in, none when it is unassigned (R76, R378, R474). -/
def rangeOf (s : State) (pa : Nat) : Option Range :=
  if pa < 2 ^ 41 then (if (homeEntry s pa).extractLsb' 0 2 = 0 then none else some .hbm)
  else if 2 ^ 42 ≤ pa ∧ pa < 2 ^ 43 then (if accepted s 1 then some .capacity else none)
  else if 2 ^ 51 ≤ pa ∧ pa < 2 ^ 52 then (if accepted s 3 then some .host else none)
  else none

/-- In a home-map region with PROT = 1 (R378). -/
def isProt (s : State) (pa : Nat) : Bool := pa < 2 ^ 41 && (homeEntry s pa).getLsbD 17
/-- A translation may yield the address (R76). -/
def paOk (s : State) (pa : Nat) : Bool := (rangeOf s pa).isSome && !isProt s pa
/-- The address lies in the capacity tier. -/
def isCap (pa : Nat) : Bool := decide (2 ^ 42 ≤ pa ∧ pa < 2 ^ 43)
/-- Every byte of `n` at `a` lies in a PROT region of HBM (R395, R442). -/
def allProt (s : State) (a n : Nat) : Bool :=
  n = 0 || (a + n ≤ 2 ^ 41 && (List.range ((a + n - 1) / 2 ^ 30 - a / 2 ^ 30 + 1)).all fun k =>
    let pa := (a / 2 ^ 30 + k) * 2 ^ 30
    (rangeOf s pa).isSome && isProt s pa)

/-- Members of a home-map set in ascending order (R378). -/
def homeMembers (mode set : Nat) : List Nat :=
  if mode = 1 then [set]
  else if mode = 2 then let a := 2 * (set % 2) + 8 * (set / 2); [a, a + 1, a + 4, a + 5]
  else List.range 16

/-- The home slice, 16·die + slice, of an HBM or host address (R380, R381). -/
def homeSlice (s : State) (pa : Nat) : Nat :=
  let sl := (pa / 2 ^ 10 % 16) ^^^ (pa / 2 ^ 18 % 16)
  if pa < 2 ^ 41 then
    let e := homeEntry s pa
    let mem := homeMembers (e.extractLsb' 0 2).toNat (e.extractLsb' 2 4).toNat
    16 * nthD mem (pa / 2 ^ 16 % 2 ^ 14 % mem.length) 0 + sl
  else 16 * (pa / 2 ^ 16 % 16) + sl

/-- The die of the first byte with an uncorrectable error among `n` at `pa`: the one that holds its line (R380, R381), and in the
capacity tier the one that its purlin chip is connected to (R19, R410). -/
def badDie (s : State) (pa n : Nat) : Nat :=
  let a := (((List.range n).map (pa + ·)).find? (s.badMem.contains ·)).getD pa
  if isCap a then (a - 2 ^ 42) / 2 ^ 38 % 16 else homeSlice s a / 16

/-- The access does not perform: an uncorrectable error, or an address no longer assigned (R98, R379). -/
def placeBad (s : State) (pa n : Nat) : Bool := isBad s.badMem pa n || (rangeOf s pa).isNone

-- watches ---------------------------------------------------------------------------------------------------------

/-- Bytes of the watched word. -/
def Watch.size (e : Watch) : Nat := if e.w then 8 else 4
/-- The word's value at an entry's address. -/
def watchValue (s : State) (e : Watch) : Word := BitVec.ofNat 64 (memNat s.mem e.pa e.size)

/-- The condition of R389 on value `v` of the watched word. -/
def holds (cmp : Nat) (w : Bool) (v x : Word) (k : W32) : Bool :=
  let n := if w then 64 else 32
  let zv := v.toNat % 2 ^ n; let zx := x.toNat % 2 ^ n
  let sv := (BitVec.ofNat n zv).toInt; let sx := (BitVec.ofNat n zx).toInt
  match cmp with
  | 0 => zv == zx | 1 => zv != zx
  | 2 => decide (sv < sx) | 3 => decide (sv ≥ sx) | 4 => decide (zv < zx) | 5 => decide (zv ≥ zx)
  | _ => (BitVec.ofNat 32 zv &&& k) == (BitVec.ofNat 32 zx &&& k)

/-- The condition of an entry on the word's present value. -/
def watchHolds (s : State) (e : Watch) : Bool := holds e.cmp e.w (watchValue s e) e.opnd e.mq

/-- The spill filter's hash of a line (R396). -/
def spillHash (pa : Nat) : Nat := (pa / 2 ^ 10 % 2 ^ 16) ^^^ (pa / 2 ^ 26 % 2 ^ 16)
/-- Addresses of the eight buckets of a line, in spill order (R396). -/
def lineBuckets (sl : Slice) (pa : Nat) : List Nat :=
  let nb := 2 ^ sl.log2nb
  let h := (spillHash pa ^^^ (pa / 2 ^ 42 % 2 ^ 10)) % nb
  (List.range 8).map fun b => sl.spbase + (h + b) % nb * 1024
/-- The bucket that holds address `a` has an uncorrectable error. -/
def bucketBad (s : State) (a : Nat) : Bool := isBad s.badMem (a / 1024 * 1024) 1024

/-- The core that runs the waiter's cohort, if it is resident (R400). -/
def residentCore (s : State) (w : Watch) : Option Nat :=
  (s.cores.find? fun e =>
    let is := fun (h : Option Cohort) => match h with | some h => isWaiter h w | none => false
    is e.2.coh || is e.2.prev).map (·.1)

/-- Ends a cohort that a spill error hits, resident or saved (R399). -/
def endWatcher (s : State) (e : Watch) : State :=
  match residentCore s e with
  | some n => endCohort s n !((coreAt s n).prev.any fun h => isWaiter h e)
  | none =>
    let x := ctxAt s e.ctx
    let hs := x.saved.flatMap fun v => (v.core.coh.toList ++ v.core.prev.toList).filter fun h => isWaiter h e
    let s := setCtx s e.ctx { x with saved := x.saved.map fun v =>
      let c := v.core
      let fatal' := fun (h : Cohort) => if isWaiter h e then { h with fatal := true } else h
      { v with core := { c with
          coh := c.coh.map fatal', prev := c.prev.map fatal'
          seq := if c.coh.any fun h => isWaiter h e then { c.seq with held := .dead, waitu := none } else c.seq } } }
    hs.foldl (fun s h =>
      { dropWatches s h with launches := mapWhere s.launches (·.id == h.launch) fun l => { l with fatal := true } }) s

/-- An uncorrectable error in the bucket at `a` (R399): a record of kind home slice, cause 0x04, for each context with an
entry there, the end of those cohorts, a module error. -/
def bucketError (s : State) (n a : Nat) : State :=
  let here := fun (x : Nat × Watch) => x.1 / 1024 == a / 1024
  let es := ((sliceAt s n).spill.filter here).map (·.2)
  let ctxs := (es.map (·.ctx)).eraseDups
  let s := ctxs.foldl (fun s k =>
    putRecord s k 0 none { Record.mk' 0x10 11 0x04 true with pos := n, addr := BitVec.ofNat 64 (a / 1024 * 1024) }) s
  let sl := sliceAt s n
  let rest := sl.spill.filter fun x => !here x
  let s := setSlice s n { sl with spill := rest, filter := if rest.isEmpty then [] else sl.filter }
  let s := (es.filter fun e => e.agent != 2).foldl endWatcher s
  unchargedError s (n / 16)

/-- A write on a line whose filter bit is set walks the line's buckets (R397) and meets their errors (R399). -/
def walkBuckets (s : State) (pa : Nat) : State :=
  let n := homeSlice s pa
  let sl := sliceAt s n
  if sl.filter.contains (spillHash pa) then ((lineBuckets sl pa).filter (bucketBad s)).foldl (fun s a => bucketError s n a) s else s

/-- The entries that `hit` picks leave with cause satisfaction, on chip and spilled. -/
def satisfyWatches (s : State) (hit : Watch → Bool) : State :=
  let out := pickWatches s hit
  if out.isEmpty then s
  else
    let s' := takeWatches s hit
    { s' with wakes := s'.wakes ++ out.map fun e => { cause := 0x10, value := watchValue s e, e := e } }

/-- After a write at home of `n` bytes at `pa`: every entry on the word whose condition holds leaves (R391, R397). -/
def checkWatches (s : State) (pa n : Nat) : State :=
  let s := walkBuckets s pa
  satisfyWatches s fun e => decide (e.pa < pa + n ∧ pa < e.pa + e.size) && watchHolds s e

/-- A write at its place: home, with its watch check, or a purlin chip (R79, R391). -/
def placeWrite (s : State) (pa : Nat) (bs : List Byte) : State :=
  let s := { s with mem := memWrite s.mem pa bs }
  if isCap pa then s else checkWatches s pa bs.length

/-- The store that core `n`'s sequencer issued last performs, if it has not yet (R144, R150); one whose place is unassigned or
has an error does not (R98). -/
def performStore (s : State) (n : Nat) : State :=
  match (coreAt s n).unstored with
  | some (pa, bs) =>
    let u := updCore s n fun c => { c with unstored := none }
    if placeBad u pa bs.length then u else placeWrite u pa bs
  | none => s

/-- Every store that a sequencer has issued performs: an event that changes where addresses lie comes after them. -/
def performStores (s : State) : State := (s.cores.map (·.1)).foldl performStore s

/-- An entry's words 0 to 3 in a bucket (R392). -/
def watchBytes (e : Watch) : List Byte :=
  leBytes 8 (1 + e.cmp % 8 * 2 + e.w.toNat * 16 + e.scope % 8 * 32 + e.agent % 4 * 2 ^ 8 + e.ctx % 64 * 2 ^ 10 +
    e.cont % 4096 * 2 ^ 16 + e.tmo % 16 * 2 ^ 28 + e.cohort % 512 * 2 ^ 32 + e.tb % 128 * 2 ^ 41 + e.dead % 2 ^ 16 * 2 ^ 48)
  ++ leBytes 8 e.pa ++ leBytes 8 e.opnd.toNat ++ leBytes 8 (e.mask.toNat + e.mq.toNat * 2 ^ 32)

/-- Writes an entry into the spill area of slice `n` at `a` (R396, R397). -/
def spillAt (s : State) (n a : Nat) (e : Watch) : State :=
  let sl := sliceAt s n
  let f := spillHash e.pa
  setSlice { s with mem := memWrite s.mem a (watchBytes e) } n
    { sl with spill := sl.spill ++ [(a, e)], filter := if sl.filter.contains f then sl.filter else f :: sl.filter }

/-- The first free place of the line's buckets that can be read (R396, R399). -/
def freePlace (s : State) (sl : Slice) (pa : Nat) : Option Nat :=
  ((lineBuckets sl pa).flatMap fun b => (List.range 32).map fun i => b + 32 * i).find? fun a =>
    !(sl.spill.any fun e => e.1 == a) && !bucketBad s a

/-- A spill looks through the line's buckets up to a free place, which the entry takes if there is one; a bucket on the way with an
error meets R399, and where that ends the entry's own cohort the entry goes with the cohort's others (R401). -/
def spillEntry (s : State) (n : Nat) (e : Watch) : State × Option Nat :=
  let sl := sliceAt s n
  let p := freePlace s sl e.pa
  let seen := ((lineBuckets sl e.pa).takeWhile fun b => !(p.any fun a => a / 1024 * 1024 == b)).filter (bucketBad s)
  let s := match p with | some a => spillAt s n a e | none => s
  (seen.foldl (fun s b => bucketError s n b) s, p)

/-- What a registration answers (R390, R398). -/
inductive Reg' where
  | atOnce (v : Word) | armed | refused
  deriving DecidableEq, Repr

/-- A registration, one event at home (R390, R393, R394, R398). -/
def register (s : State) (e : Watch) : State × Reg' :=
  if watchHolds s e then (s, .atOnce (watchValue s e))
  else
    let n := homeSlice s e.pa
    let sl := sliceAt s n
    let e := { e with dead := if e.tmo = 0 then 0 else (sl.sweep + 1 + 2 ^ (e.tmo - 1)) % 2 ^ 16 }
    if sl.onchip.length < min sl.wlimit 4096 then
      (setSlice s n { sl with onchip := sl.onchip ++ [e] }, .armed)
    else if sl.spen then
      match spillEntry s n e with
      | (s, some _) => (s, .armed)
      | (s, none) => (s, .refused)
    else (s, .refused)

/-- A registration of the launch unit or the loader: refused ones register again at the slice's next sweep (R398). -/
def registerRetry (s : State) (e : Watch) : State × Reg' :=
  match register s e with
  | (s, .refused) =>
    let n := homeSlice s e.pa
    let sl := sliceAt s n
    (setSlice s n { sl with retry := sl.retry ++ [e] }, .armed)
  | x => x

/-- The buckets with an error that hold a spilled entry which `p` picks meet R399. -/
def cancelErrors (s : State) (p : Watch → Bool) : State :=
  let bad := s.slices.flatMap fun x => (x.2.spill.filter fun e => p e.2 && bucketBad s e.1).map fun e => (x.1, e.1 / 1024 * 1024)
  bad.eraseDups.foldl (fun s b => bucketError s b.1 b.2) s
/-- The entries that `p` picks, and the registrations that still wait for room (R379; log entry 70). -/
def cancelled (s : State) (p : Watch → Bool) : List Watch := pickWatches s p ++ s.slices.flatMap fun x => x.2.retry.filter p

/-- Cancels the entries that `p` picks: they leave with cause cancellation and the word's value (R393). A spilled entry's bucket
with an error meets R399 first. -/
def cancelWatches (s : State) (p : Watch → Bool) : State :=
  let s := cancelErrors s p
  let out := cancelled s p
  let s' := takeWatches s p
  { s' with wakes := s'.wakes ++ out.map fun e => { cause := 0x13, value := watchValue s e, e := e } }

-- translation -----------------------------------------------------------------------------------------------------

/-- What an access needs of a page (R185). -/
inductive Need where
  | read | write | both | exec
  deriving DecidableEq, Repr

/-- The need includes writing. -/
def Need.writes : Need → Bool
  | .write => true | .both => true | _ => false

/-- A leaf grants the need (R185). -/
def Tlb.grants (t : Tlb) : Need → Bool
  | .read => t.rd | .write => t.wr | .both => t.rd && t.wr | .exec => t.ex

/-- Walk-cache entries: level, index prefix of the virtual address, table (R186). -/
abbrev WalkCache := List (Nat × Nat × Nat)

/-- The lowest address bit that level `lvl` indexes (R184). -/
def lvlShift : Nat → Nat
  | 0 => 48 | 1 => 39 | 2 => 30 | 3 => 21 | _ => 16

/-- Byte offset of the table entry for `va` at a level. -/
def lvlIndex (va lvl : Nat) : Nat := 8 * (va / 2 ^ lvlShift lvl % (if lvl ≥ 4 then 32 else 512))

/-- An entry breaks R184 or R185 at level `lvl`. -/
def badEntry (e : Word) (lvl : Nat) : Bool :=
  let leaf := e.getLsbD 1
  (leaf && lvl < 2) || (!leaf && lvl == 4) || e.getLsbD 7 || e.extractLsb' 52 12 != 0 ||
  (e.getLsbD 3 && !e.getLsbD 2) || (!leaf && e.extractLsb' 2 5 != 0) ||
  (if leaf then e.toNat / 2 ^ 8 % 2 ^ (lvlShift lvl - 8) != 0 else (lvl != 3 && e.extractLsb' 8 4 != 0))

/-- The walk of R186 from level `lvl` at table `t`: the leaf with its page, or the cause of R187. The walk cache keeps the table entries
read, 64 of them, and the oldest leaves (log entry 112). -/
def walkFrom : Nat → State → WalkCache → Nat → Need → Nat → Nat → State × WalkCache × Except Nat Tlb
  | 0, s, wc, _, _, _, _ => (s, wc, .error 0x04)
  | fuel + 1, s, wc, va, need, lvl, t =>
    let a := t + lvlIndex va lvl
    if !paOk s a then (s, wc, .error 0x04)
    else if isBad s.badMem a 8 then (s, wc, .error 0x06)
    else
      let e : Word := BitVec.ofNat 64 (memNat s.mem a 8)
      if !e.getLsbD 0 then (s, wc, .error 0x02)
      else if badEntry e lvl then (s, wc, .error 0x04)
      else
        let addr := (e.extractLsb' 8 44).toNat * 256
        if e.getLsbD 1 then
          let size := 2 ^ lvlShift lvl
          let leaf : Tlb := { va := va / size * size, size := size, pa := addr, rd := e.getLsbD 2, wr := e.getLsbD 3,
                              ex := e.getLsbD 4, dt := e.getLsbD 6 || need.writes }
          if !leaf.grants need then (s, wc, .error 0x03)
          else if !paOk s (addr + va % size) then (s, wc, .error 0x05)
          else
            let e' := e ||| (if need.writes then 0x60 else 0x20)
            let s := if e' = e then s else placeWrite s a (leBytes 8 e'.toNat)
            (s, wc, .ok leaf)
        else
          let key := (lvl + 1, va / 2 ^ lvlShift lvl)
          let wc := (wc ++ [(key.1, key.2, addr)]).drop (wc.length + 1 - 64)
          walkFrom fuel s wc va need (lvl + 1) addr

/-- The deepest cached table for `va`. -/
def walkStart (wc : WalkCache) (root va : Nat) : Nat × Nat :=
  let hit := fun lvl => (wc.find? fun e => e.1 == lvl && e.2.1 == va / 2 ^ lvlShift (lvl - 1)).map fun e => (lvl, e.2.2)
  ((hit 4 <|> hit 3 <|> hit 2 <|> hit 1).getD (0, root))

/-- `translate` of R186 with walk cache `wc`. -/
def walk (s : State) (wc : WalkCache) (root : Nat) (va : Word) (need : Need) : State × WalkCache × Except Nat Tlb :=
  if !canonical va then (s, wc, .error 0x01)
  else
    let v := va.toNat % 2 ^ 57
    let (lvl, t) := walkStart wc root v
    walkFrom 5 s wc v need lvl t

/-- The physical address of `va` in a page. -/
def Tlb.phys (t : Tlb) (va : Word) : Nat := t.pa + va.toNat % t.size
/-- The page covers `va`. -/
def Tlb.covers (t : Tlb) (va : Word) : Bool := decide (va.toNat % 2 ^ 57 / t.size * t.size = t.va)

/-- A translation by core `n`'s walker (R186). -/
def translateAt (s : State) (n : Nat) (va : Word) (need : Need) : State × Except Nat Tlb :=
  let c := coreAt s n
  let root := match c.coh with | some h => h.root | none => 0
  let (s, wc, r) := walk s c.walk root va need
  (updCore s n fun c => { c with walk := wc }, r)

/-- A translation by the launch unit, which keeps no walk cache. -/
def translateRoot (s : State) (root : Nat) (va : Word) (need : Need) : State × Except Nat Nat :=
  match walk s [] root va need with
  | (s, _, .ok t) => (s, .ok (t.phys va))
  | (s, _, .error e) => (s, .error e)

/-- Bytes to 64-bit words. -/
def wordsOf : Nat → List Byte → List Word
  | 0, _ => []
  | n + 1, b => BitVec.ofNat 64 (leNat (b.take 8)) :: wordsOf n (b.drop 8)

-- cache banks -----------------------------------------------------------------------------------------------------

/-- The owning bank of a physical address under a bank map (R81, R291). -/
def bankOf (map : Word) (pa : Nat) : Nat :=
  let f := fun k => pa / 2 ^ ((map.toNat % 64) + k) % 8
  if map.getLsbD 6 then f 0 ^^^ f 3 ^^^ f 6 else f 0

/-- Node `x` of a core. -/
def nodeAt (c : Core) (x : Nat) : Node := mapGetD c.nodes x Node.reset
/-- Sets node `x`. -/
def setNode (c : Core) (x : Nat) (v : Node) : Core := { c with nodes := mapSet c.nodes x v }
/-- The bank map of the core's cohort (R81). -/
def mapOf (c : Core) : Word := match fabricCohort c with | some h => h.bankMap | none => 0xA
/-- The bank of an address on a core. -/
def ownBank (c : Core) (pa : Nat) : Nat := bankOf (mapOf c) pa

/-- A sector in state I (R82). -/
def Sector.empty : Sector := { filled := false, clean := [], dirty := [] }
/-- Sector `k` of a node's bank. -/
def sectorAt (c : Core) (b k : Nat) : Sector := mapGetD (nodeAt c b).sectors k Sector.empty
/-- Sets sector `k`; a sector in state I is not listed. -/
def setSector (c : Core) (b k : Nat) (v : Sector) : Core :=
  let nd := nodeAt c b
  setNode c b { nd with sectors := if v.filled || !v.dirty.isEmpty then mapSet nd.sectors k v else mapDel nd.sectors k }

/-- A memory-node fault that ends the cohort of core `n` (R299, R303). -/
def nodeFault (s : State) (n x slot cause : Nat) (base len : Nat) (addr : Word) : State :=
  let f := placeFlags (coreAt s n) (nodeAt (coreAt s n) x).u.place
  faultAt s n false { Record.mk' 0x07 2 cause true with
    pos := x, slot := slot, flags := f, base := base, len := len, addr := addr }

/-- Sector `k` of bank `b` holds something and has an uncorrectable error (R299). -/
def bankBad (c : Core) (b k : Nat) : Bool :=
  c.badBank.contains k && ((sectorAt c b k).filled || !(sectorAt c b k).dirty.isEmpty)

/-- A write-back of sector `k` in bank `b`: the masked bytes to home; D becomes C, P becomes I (R82). One that meets an error
in the sector loses it, and one that home does not take is dropped; both are charged to the cohort that owns the bank (R299,
R379). -/
def writeBack (s : State) (n b k : Nat) : State :=
  let c := coreAt s n
  let v := sectorAt c b k
  if v.dirty.isEmpty then s
  else if c.badBank.contains k then
    nodeFault (setCore s n (setSector c b k Sector.empty)) n b 0 0x02 0 0 (BitVec.ofNat 64 (128 * k))
  else
    let v' : Sector :=
      { filled := v.filled, dirty := [],
        clean := if v.filled then (List.range 128).map fun i => (mapGet v.dirty i).getD (nthD v.clean i 0) else [] }
    let s := setCore s n (setSector c b k v')
    if placeBad s (128 * k) 128 then nodeFault s n b 0 0x03 0 0 (BitVec.ofNat 64 (128 * k))
    else
      let mem := v.dirty.foldl (fun m (e : Nat × Byte) => memPut m (128 * k + e.1) e.2) s.mem
      checkWatches { s with mem := mem } (128 * k) 128

/-- The acquire event of R82 on one sector: C becomes I, D becomes P. -/
def acquireSector (v : Sector) : Sector := { v with filled := false, clean := [] }

/-- Every sector of the core's eight banks, with its bank. -/
def allSectors (c : Core) : List (Nat × Nat) := c.nodes.flatMap fun nd => nd.2.sectors.map fun e => (nd.1, e.1)

/-- Writes back every D and P sector of the core's eight banks (R88). -/
def releaseBanks (s : State) (n : Nat) : State :=
  (allSectors (coreAt s n)).foldl (fun s e => writeBack s n e.1 e.2) s

/-- Applies the acquire event to every sector of the core's eight banks (R88). -/
def acquireBanks (s : State) (n : Nat) : State :=
  updCore s n fun c => (allSectors c).foldl (fun c e => setSector c e.1 e.2 (acquireSector (sectorAt c e.1 e.2))) c

/-- Writes back and empties every bank (R35, R81, R99). -/
def emptyBanks (s : State) (n : Nat) : State :=
  updCore (releaseBanks s n) n fun c =>
    { c with nodes := c.nodes.map fun nd => (nd.1, { nd.2 with sectors := [] }) }


/-- The byte of a sector that a load is served: the dirty byte, else the clean one. -/
def sectorByte (v : Sector) (i : Nat) : Byte := (mapGet v.dirty i).getD (nthD v.clean i 0)

/-- Evicts sector `k`: write-back, then I (R82). -/
def evictSector (s : State) (n b k : Nat) : State :=
  updCore (writeBack s n b k) n fun c => setSector c b k Sector.empty

/-- Bank `b` has a line for sector `k`: it holds 64 lines of eight sectors, and a line more evicts one of them (R21, R292). Which
one affects timing only; the model takes the lowest. -/
def makeRoom (s : State) (n b k : Nat) : State :=
  let ls := ((nodeAt (coreAt s n) b).sectors.map fun e => e.1 / 8).eraseDups
  if ls.contains (k / 8) || ls.length < 64 then s
  else match ls with
    | l :: _ => (List.range 8).foldl (fun s i => evictSector s n b (8 * l + i)) s
    | [] => s

/-- A fill of sector `k`: home's bytes; dirty bytes stay (R82). -/
def fillSector (s : State) (n b k : Nat) : State :=
  let s := makeRoom s n b k
  updCore s n fun c => setSector c b k { sectorAt c b k with filled := true, clean := memRead s.mem (128 * k) 128 }

/-- A load of `size` bytes at its owning bank: a byte that is neither dirty nor filled makes a fill first (R82). -/
def bankLoad (s : State) (n pa size : Nat) : State × List Byte :=
  let c := coreAt s n
  let b := ownBank c pa
  let k := pa / 128
  let v := sectorAt c b k
  let need := !v.filled && (List.range size).any fun i => (mapGet v.dirty (pa % 128 + i)).isNone
  let s := if need then fillSector s n b k else s
  let v := sectorAt (coreAt s n) b k
  (s, (List.range size).map fun i => sectorByte v (pa % 128 + i))

/-- A store at the owning bank: the mask gains the bytes; C becomes D, I becomes P (R82). -/
def bankStore (s : State) (n pa : Nat) (bs : List Byte) : State :=
  let b := ownBank (coreAt s n) pa
  let k := pa / 128
  updCore (makeRoom s n b k) n fun c =>
    let v := sectorAt c b k
    let d := (List.range bs.length).foldl (fun d i => mapSet d (pa % 128 + i) (nthD bs i 0)) v.dirty
    setSector c b k { v with dirty := d }

/-- A byte of the access is in the mask of its sector at the owning bank. -/
def readsDirty (c : Core) (pa size : Nat) : Bool :=
  let v := sectorAt c (ownBank c pa) (pa / 128)
  (List.range size).any fun i => (mapGet v.dirty (pa % 128 + i)).isSome
/-- `mld.nc` and `mwaitu` at the owning bank: write back the sector if a byte read is in its mask (R83, R298). -/
def bypassRead (s : State) (n pa size : Nat) : State :=
  let c := coreAt s n
  if readsDirty c pa size then writeBack s n (ownBank c pa) (pa / 128) else s

/-- `mst.nc` and `mamo` at the owning bank: write back the masked bytes, set the sector to I (R83). -/
def bypassWrite (s : State) (n pa : Nat) : State :=
  let b := ownBank (coreAt s n) pa
  evictSector s n b (pa / 128)

end Sys2Proof.Machine
end

