-- ==== Sys2Proof/Machine/Integer.lean ====
section
/-! DEFINITION. Integer, immediate, shift, multiply and divide instructions of the sequencer (R145 to R148). -/

namespace Sys2Proof.Machine

/-- Sign-extended imm16. -/
def immS (i : BitVec 16) : Word := i.signExtend 64
/-- Zero-extended imm16. -/
def immZ (i : BitVec 16) : Word := i.setWidth 64
/-- 1 or 0. -/
def flag (b : Bool) : Word := if b then 1 else 0
/-- A shift amount: bits [5:0] (R145). -/
def amount (b : Word) : Nat := b.toNat % 64

/-- Leading zero bits of a word, 0 to 64. -/
def clzW (a : Word) : Nat := if a = 0 then 64 else 63 - Nat.log2 a.toNat
/-- Trailing zero bits from bit `i` up, `n` bits left to look at. -/
def ctzFrom (a : Word) (i : Nat) : Nat → Nat
  | 0 => i
  | n + 1 => if a.getLsbD i then i else ctzFrom a (i + 1) n
/-- Bits set among the lowest `n`. -/
def popW (a : Word) : Nat → Nat
  | 0 => 0
  | n + 1 => popW a n + (a.getLsbD n).toNat

/-- Signed quotient and remainder of R148. -/
def divS (a b : Word) : Int × Int :=
  if b = 0 then (-1, a.toInt) else (a.toInt.tdiv b.toInt, a.toInt.tmod b.toInt)
/-- Unsigned quotient and remainder of R148. -/
def divU (a b : Word) : Nat × Nat :=
  if b = 0 then (2 ^ 64 - 1, a.toNat) else (a.toNat / b.toNat, a.toNat % b.toNat)

/-- An instruction rd := f(X[ra], X[rb]). -/
def op2 (d a b : Reg) (f : Word → Word → Word) (s : State) : State :=
  regOp s [a, b] d fun q => f (getX q a) (getX q b)
/-- An instruction rd := f(X[ra]). -/
def op1 (d a : Reg) (f : Word → Word) (s : State) : State := regOp s [a] d fun q => f (getX q a)

/-- `add` (R145). -/
def execAdd (d a b : Reg) (s : State) : Host.Outcome State Fault Refusal := .next (op2 d a b (fun x y => x + y) s)
/-- `sub` (R145). -/
def execSub (d a b : Reg) (s : State) : Host.Outcome State Fault Refusal := .next (op2 d a b (fun x y => x - y) s)
/-- `and` (R145). -/
def execAnd (d a b : Reg) (s : State) : Host.Outcome State Fault Refusal := .next (op2 d a b (fun x y => x &&& y) s)
/-- `or` (R145). -/
def execOr (d a b : Reg) (s : State) : Host.Outcome State Fault Refusal := .next (op2 d a b (fun x y => x ||| y) s)
/-- `xor` (R145). -/
def execXor (d a b : Reg) (s : State) : Host.Outcome State Fault Refusal := .next (op2 d a b (fun x y => x ^^^ y) s)
/-- `andn` (R145). -/
def execAndn (d a b : Reg) (s : State) : Host.Outcome State Fault Refusal :=
  .next (op2 d a b (fun x y => x &&& ~~~y) s)
/-- `sll` (R145). -/
def execSll (d a b : Reg) (s : State) : Host.Outcome State Fault Refusal :=
  .next (op2 d a b (fun x y => x <<< amount y) s)
/-- `srl` (R145). -/
def execSrl (d a b : Reg) (s : State) : Host.Outcome State Fault Refusal :=
  .next (op2 d a b (fun x y => x >>> amount y) s)
/-- `sra` (R145). -/
def execSra (d a b : Reg) (s : State) : Host.Outcome State Fault Refusal :=
  .next (op2 d a b (fun x y => x.sshiftRight (amount y)) s)
/-- `slt` (R145). -/
def execSlt (d a b : Reg) (s : State) : Host.Outcome State Fault Refusal :=
  .next (op2 d a b (fun x y => flag (decide (x.toInt < y.toInt))) s)
/-- `sltu` (R145). -/
def execSltu (d a b : Reg) (s : State) : Host.Outcome State Fault Refusal :=
  .next (op2 d a b (fun x y => flag (decide (x.toNat < y.toNat))) s)
/-- `seq` (R145). -/
def execSeq (d a b : Reg) (s : State) : Host.Outcome State Fault Refusal :=
  .next (op2 d a b (fun x y => flag (x == y)) s)
/-- `min` (R145). -/
def execMin (d a b : Reg) (s : State) : Host.Outcome State Fault Refusal :=
  .next (op2 d a b (fun x y => if x.toInt ≤ y.toInt then x else y) s)
/-- `minu` (R145). -/
def execMinu (d a b : Reg) (s : State) : Host.Outcome State Fault Refusal :=
  .next (op2 d a b (fun x y => if x.toNat ≤ y.toNat then x else y) s)
/-- `max` (R145). -/
def execMax (d a b : Reg) (s : State) : Host.Outcome State Fault Refusal :=
  .next (op2 d a b (fun x y => if x.toInt ≤ y.toInt then y else x) s)
/-- `maxu` (R145). -/
def execMaxu (d a b : Reg) (s : State) : Host.Outcome State Fault Refusal :=
  .next (op2 d a b (fun x y => if x.toNat ≤ y.toNat then y else x) s)
/-- `clz` (R145). -/
def execClz (d a : Reg) (s : State) : Host.Outcome State Fault Refusal :=
  .next (op1 d a (fun x => BitVec.ofNat 64 (clzW x)) s)
/-- `ctz` (R145). -/
def execCtz (d a : Reg) (s : State) : Host.Outcome State Fault Refusal :=
  .next (op1 d a (fun x => BitVec.ofNat 64 (ctzFrom x 0 64)) s)
/-- `popc` (R145). -/
def execPopc (d a : Reg) (s : State) : Host.Outcome State Fault Refusal :=
  .next (op1 d a (fun x => BitVec.ofNat 64 (popW x 64)) s)

/-- `addi` (R146). -/
def execAddi (d a : Reg) (i : BitVec 16) (s : State) : Host.Outcome State Fault Refusal :=
  .next (op1 d a (fun x => x + immS i) s)
/-- `andi` (R146). -/
def execAndi (d a : Reg) (i : BitVec 16) (s : State) : Host.Outcome State Fault Refusal :=
  .next (op1 d a (fun x => x &&& immZ i) s)
/-- `ori` (R146). -/
def execOri (d a : Reg) (i : BitVec 16) (s : State) : Host.Outcome State Fault Refusal :=
  .next (op1 d a (fun x => x ||| immZ i) s)
/-- `xori` (R146). -/
def execXori (d a : Reg) (i : BitVec 16) (s : State) : Host.Outcome State Fault Refusal :=
  .next (op1 d a (fun x => x ^^^ immZ i) s)
/-- `slti` (R146). -/
def execSlti (d a : Reg) (i : BitVec 16) (s : State) : Host.Outcome State Fault Refusal :=
  .next (op1 d a (fun x => flag (decide (x.toInt < i.toInt))) s)
/-- `sltiu` (R146): the sign-extended immediate as an unsigned number. -/
def execSltiu (d a : Reg) (i : BitVec 16) (s : State) : Host.Outcome State Fault Refusal :=
  .next (op1 d a (fun x => flag (decide (x.toNat < (immS i).toNat))) s)
/-- `lui` (R146). -/
def execLui (d : Reg) (i : BitVec 16) (s : State) : Host.Outcome State Fault Refusal :=
  .next (regOp s [] d fun _ => immS i <<< 16)
/-- `slli` (R147). -/
def execSlli (d a : Reg) (n : BitVec 6) (s : State) : Host.Outcome State Fault Refusal :=
  .next (op1 d a (fun x => x <<< n.toNat) s)
/-- `srli` (R147). -/
def execSrli (d a : Reg) (n : BitVec 6) (s : State) : Host.Outcome State Fault Refusal :=
  .next (op1 d a (fun x => x >>> n.toNat) s)
/-- `srai` (R147). -/
def execSrai (d a : Reg) (n : BitVec 6) (s : State) : Host.Outcome State Fault Refusal :=
  .next (op1 d a (fun x => x.sshiftRight n.toNat) s)

/-- `mul` (R148). -/
def execMul (d a b : Reg) (s : State) : Host.Outcome State Fault Refusal := .next (op2 d a b (fun x y => x * y) s)
/-- `mulh` (R148). -/
def execMulh (d a b : Reg) (s : State) : Host.Outcome State Fault Refusal :=
  .next (op2 d a b (fun x y => trunc 64 (x.toInt * y.toInt / 2 ^ 64)) s)
/-- `mulhu` (R148). -/
def execMulhu (d a b : Reg) (s : State) : Host.Outcome State Fault Refusal :=
  .next (op2 d a b (fun x y => BitVec.ofNat 64 (x.toNat * y.toNat / 2 ^ 64)) s)
/-- `mulhsu` (R148). -/
def execMulhsu (d a b : Reg) (s : State) : Host.Outcome State Fault Refusal :=
  .next (op2 d a b (fun x y => trunc 64 (x.toInt * y.toNat / 2 ^ 64)) s)
/-- `div` (R148). -/
def execDiv (d a b : Reg) (s : State) : Host.Outcome State Fault Refusal :=
  .next (op2 d a b (fun x y => trunc 64 (divS x y).1) s)
/-- `divu` (R148). -/
def execDivu (d a b : Reg) (s : State) : Host.Outcome State Fault Refusal :=
  .next (op2 d a b (fun x y => BitVec.ofNat 64 (divU x y).1) s)
/-- `rem` (R148). -/
def execRem (d a b : Reg) (s : State) : Host.Outcome State Fault Refusal :=
  .next (op2 d a b (fun x y => trunc 64 (divS x y).2) s)
/-- `remu` (R148). -/
def execRemu (d a b : Reg) (s : State) : Host.Outcome State Fault Refusal :=
  .next (op2 d a b (fun x y => BitVec.ofNat 64 (divU x y).2) s)

end Sys2Proof.Machine
end

