-- ==== Sys2Proof/Machine/LoadStore.lean ====
section
/-! DEFINITION. Loads and stores of the sequencer (R149, R150, R152) and its local aperture (R151, R264, R273, R332). -/

namespace Sys2Proof.Machine

/-- ea = X[ra] + sext(imm16) (R149). -/
def effAddr (q : Seq) (a : Reg) (i : BitVec 16) : Word := getX q a + immS i

/-- The checks of R149 before the aperture and translation: the trap's cause, or none. -/
def eaCheck (store : Bool) (ea : Word) (size : Nat) : Option Nat :=
  if !canonical ea then some ((if store then 0x06 else 0x05) + 64 * low58 ea)
  else if ea.toNat % size ≠ 0 then some ((if store then 0x04 else 0x03) + 64 * low58 ea)
  else none

/-- The core runs a cohort of launch `l`. -/
def runsLaunch (c : Core) (l : Nat) : Bool :=
  (match c.coh with | some h => h.launch == l | none => false) || (match c.prev with | some h => h.launch == l | none => false)

/-- The core and offset that a scratchpad address names for an agent of launch `l` on core `n` (R264). -/
def scratchHome (s : State) (n : Nat) (l : Option Nat) (o : Nat) : Option (Nat × Nat) :=
  let off := o % 2 ^ 21
  let m := peer n (o / 2 ^ 22 % 4)
  match l with
  | none => none
  | some l => if o / 2 ^ 21 % 2 = 0 ∧ off < 1179648 ∧ o < 2 ^ 24 ∧ runsLaunch (coreAt s m) l = true then some (m, off) else none

/-- The launch whose sequencer acts on core `n`. -/
def seqLaunch (c : Core) : Option Nat := c.coh.map (·.launch)

/-- Tag of tile `t` (R332). -/
def tagOf (m : Matrix) (t : Nat) : Tag := mapGetD m.tags t .empty
/-- Sets the tag of tile `t`. -/
def setTag (m : Matrix) (t : Nat) (g : Tag) : Matrix :=
  { m with tags := if g = .empty then mapDel m.tags t else mapSet m.tags t g }

/-- Where an aperture offset leads (R151). -/
inductive Local where
  | scratch (core off : Nat) | tile (b : Nat) | none
  deriving DecidableEq, Repr

/-- The aperture's map. -/
def localOf (s : State) (o : Nat) : Local :=
  match o / 2 ^ 24 with
  | 0 => match scratchHome s s.core (seqLaunch (cur s)) o with
         | some (m, f) => .scratch m f
         | none => .none
  | 1 => if o % 2 ^ 24 < 2 ^ 20 then .tile (o % 2 ^ 20) else .none
  | _ => .none

/-- What an access answers. -/
inductive Got where
  | value (v : Nat) | trap (cause : Nat) | stall (cause : Nat) | wait
  deriving DecidableEq, Repr

/-- Cause 0x08 with offset `o`; cause 0x09 with the address (R154). -/
def causeLocal (o : Nat) : Nat := 0x08 + 64 * o
/-- The uncorrectable-error cause. -/
def causeError (ea : Word) : Nat := 0x09 + 64 * low58 ea

/-- What a load of `size` bytes at physical address `pa` reads: memory now, or then if it has performed ahead of its turn (R150,
R160). -/
def loadValue (s : State) (pa size : Nat) : Nat :=
  match (cur s).early with
  | some (p, bs) => if p ≤ pa && pa + size ≤ p + bs.length then leNat ((bs.drop (pa - p)).take size) else memNat s.mem pa size
  | none => memNat s.mem pa size
/-- The sequencer's next load of the 8 bytes at `pa` performs now, ahead of instructions that do not order it: command issues, register
and CSR accesses (R144, R156, R160). Its own store has performed. -/
def loadEarly (s : State) (n pa : Nat) : State :=
  let c := coreAt s n
  if !issuing c.seq || c.unstored.isSome || pa % 8 ≠ 0 || placeBad s pa 8 then s
  else setCore s n { c with early := some (pa, memRead s.mem pa 8) }
/-- Nothing is read ahead past an access, a fence or a wait (R92, R157, R159). -/
def noEarly (c : Core) : Core := { c with early := none }

/-- A load of `size` bytes by the sequencer (R149 to R152). -/
def seqLoad (s : State) (ea : Word) (size : Nat) : State × Got :=
  match eaCheck false ea size with
  | some c => (s, .trap c)
  | none =>
    if inAperture ea then
      match localOf s (apOff ea) with
      | .scratch m f =>
        let c := coreAt s m
        if isBad c.badScratch f size then (s, .trap (causeError ea)) else (s, .value (memNat c.scratch f size))
      | .tile b =>
        let c := cur s
        if tagOf c.mx (b / 2 ^ 14) = .busy then (s, .wait)
        else if isBad c.badTile b size then (s, .trap (causeError ea)) else (s, .value (memNat c.mx.tile b size))
      | .none => (s, .trap (causeLocal (apOff ea)))
    else
      match translateAt s s.core ea .read with
      | (s, .error e) => (s, .stall e)
      | (s, .ok t) =>
        if placeBad s (t.phys ea) size then (s, .trap (causeError ea)) else (s, .value (loadValue s (t.phys ea) size))

/-- A store of the low `size` bytes of `v` by the sequencer. One to memory is issued here and performs later (R144): at the
latest before the sequencer's next access or fence begins (R150, R157). -/
def seqStore (s : State) (ea : Word) (size : Nat) (v : Word) : State × Got :=
  let bs := leBytes size v.toNat
  match eaCheck true ea size with
  | some c => (s, .trap c)
  | none =>
    if inAperture ea then
      match localOf s (apOff ea) with
      | .scratch m f =>
        if isBad (coreAt s m).badScratch f size then (s, .trap (causeError ea))
        else (updCore s m fun c => { c with scratch := memWrite c.scratch f bs }, .value 0)
      | .tile b =>
        let c := cur s
        let g := tagOf c.mx (b / 2 ^ 14)
        if g = .full ∨ g = .busy then (s, .trap (causeLocal (apOff ea)))
        else if isBad c.badTile b size then (s, .trap (causeError ea))
        else (setCur s { c with mx := { setTag c.mx (b / 2 ^ 14) .filling with tile := memWrite c.mx.tile b bs } }, .value 0)
      | .none => (s, .trap (causeLocal (apOff ea)))
    else
      match translateAt s s.core ea .write with
      | (s, .error e) => (s, .stall e)
      | (s, .ok t) =>
        if placeBad s (t.phys ea) size then (s, .trap (causeError ea))
        else (updCur s fun c => { c with unstored := some (t.phys ea, bs) }, .value 0)

/-- Ends an access: a trap, STALL, WAIT, or `f` of the value. -/
def finish (ea : Word) (r : State × Got) (f : State → Nat → State) : State :=
  match r with
  | (s, .value v) => f s v
  | (s, .trap c) => trap s c
  | (s, .stall e) => stallSeq s ea e
  | (s, .wait) => updCur s fun c => if c.seq.st = .dead then c else { c with seq := { c.seq with st := .wait } }

/-- A load instruction: `ext` widens the value (R149). -/
def loadOp (d a : Reg) (i : BitVec 16) (size : Nat) (ext : Nat → Word) (s : State) : State :=
  onIssue s [d, a] fun s c =>
    let ea := effAddr c.seq a i
    finish ea (seqLoad (performStore (setCur s c) s.core) ea size) fun s v => updCur s fun c => { noEarly c with seq := wrNext c.seq d (ext v) }

/-- A store instruction (R149). -/
def storeOp (d a : Reg) (i : BitVec 16) (size : Nat) (s : State) : State :=
  onIssue s [d, a] fun s c =>
    let ea := effAddr c.seq a i
    finish ea (seqStore (performStore (setCur s c) s.core) ea size (getX c.seq d)) fun s _ =>
      updCur s fun c => { noEarly c with seq := { c.seq with pc := c.seq.pc + 4 } }

/-- sext(v, n) to 64 bits. -/
def sextN (n v : Nat) : Word := (BitVec.ofNat n v).signExtend 64
/-- zext to 64 bits. -/
def zextN (v : Nat) : Word := BitVec.ofNat 64 v

/-- `lb` (R149). -/
def execLb (d a : Reg) (i : BitVec 16) (s : State) : Host.Outcome State Fault Refusal :=
  .next (loadOp d a i 1 (sextN 8) s)
/-- `lbu` (R149). -/
def execLbu (d a : Reg) (i : BitVec 16) (s : State) : Host.Outcome State Fault Refusal := .next (loadOp d a i 1 zextN s)
/-- `lh` (R149). -/
def execLh (d a : Reg) (i : BitVec 16) (s : State) : Host.Outcome State Fault Refusal :=
  .next (loadOp d a i 2 (sextN 16) s)
/-- `lhu` (R149). -/
def execLhu (d a : Reg) (i : BitVec 16) (s : State) : Host.Outcome State Fault Refusal := .next (loadOp d a i 2 zextN s)
/-- `lw` (R149). -/
def execLw (d a : Reg) (i : BitVec 16) (s : State) : Host.Outcome State Fault Refusal :=
  .next (loadOp d a i 4 (sextN 32) s)
/-- `lwu` (R149). -/
def execLwu (d a : Reg) (i : BitVec 16) (s : State) : Host.Outcome State Fault Refusal := .next (loadOp d a i 4 zextN s)
/-- `ld` (R149). -/
def execLd (d a : Reg) (i : BitVec 16) (s : State) : Host.Outcome State Fault Refusal := .next (loadOp d a i 8 zextN s)
/-- `stb` (R149). -/
def execStb (d a : Reg) (i : BitVec 16) (s : State) : Host.Outcome State Fault Refusal := .next (storeOp d a i 1 s)
/-- `sth` (R149). -/
def execSth (d a : Reg) (i : BitVec 16) (s : State) : Host.Outcome State Fault Refusal := .next (storeOp d a i 2 s)
/-- `stw` (R149). -/
def execStw (d a : Reg) (i : BitVec 16) (s : State) : Host.Outcome State Fault Refusal := .next (storeOp d a i 4 s)
/-- `std` (R149). -/
def execStd (d a : Reg) (i : BitVec 16) (s : State) : Host.Outcome State Fault Refusal := .next (storeOp d a i 8 s)

end Sys2Proof.Machine
end

