-- ==== Sys2Proof/Machine/Control.lean ====
section
/-! DEFINITION. Fetch (R143), branches and jumps (R153), CSR access (R156), fences, traps, `waitp` and `kend` (R157 to
R159), and the cycle count (R138). -/

namespace Sys2Proof.Machine

/-- The trap cause that a fetch or jump target meets, if any (R153). -/
def targetCheck (t : Word) : Option Nat :=
  if !canonical t then some (0x07 + 64 * low58 t)
  else if t.toNat % 4 ≠ 0 then some (0x02 + 64 * low58 t)
  else if inAperture t then some (0x08 + 64 * apOff t)
  else none

/-- Trap entry at an instruction boundary (R155): every earlier instruction has completed, the store issued last with them
(R150). -/
def takeTrap (s : State) (cause : Nat) : State := trap (performStore s s.core) cause
/-- The illegal-instruction trap there (R121, R154). -/
def takeIllegal (s : State) (w : W32) : State := takeTrap s (0x01 + 64 * w.toNat)

/-- A taken branch or jump to `t` that writes `v` to `d` (s0 for none). -/
def jumpTo (s : State) (d : Reg) (v t : Word) : State :=
  match targetCheck t with
  | some c => takeTrap s c
  | none => updCur s fun c => { c with seq := { setX c.seq d v with pc := t } }

/-- pc := pc + 4. -/
def nextPc (s : State) : State := updCur s fun c => { c with seq := { c.seq with pc := c.seq.pc + 4 } }

/-- A conditional branch (R153). -/
def branchOp (a b : Reg) (o : BitVec 16) (p : Word → Word → Bool) (s : State) : State :=
  onIssue s [a, b] fun s c =>
    let s := setCur s c
    if p (getX c.seq a) (getX c.seq b) then jumpTo s 0 0 (c.seq.pc + 4 * immS o) else nextPc s

/-- `beq` (R153). -/
def execBeq (a b : Reg) (o : BitVec 16) (s : State) : Host.Outcome State Fault Refusal :=
  .next (branchOp a b o (fun x y => x == y) s)
/-- `bne` (R153). -/
def execBne (a b : Reg) (o : BitVec 16) (s : State) : Host.Outcome State Fault Refusal :=
  .next (branchOp a b o (fun x y => x != y) s)
/-- `blt` (R153). -/
def execBlt (a b : Reg) (o : BitVec 16) (s : State) : Host.Outcome State Fault Refusal :=
  .next (branchOp a b o (fun x y => decide (x.toInt < y.toInt)) s)
/-- `bge` (R153). -/
def execBge (a b : Reg) (o : BitVec 16) (s : State) : Host.Outcome State Fault Refusal :=
  .next (branchOp a b o (fun x y => decide (x.toInt ≥ y.toInt)) s)
/-- `bltu` (R153). -/
def execBltu (a b : Reg) (o : BitVec 16) (s : State) : Host.Outcome State Fault Refusal :=
  .next (branchOp a b o (fun x y => decide (x.toNat < y.toNat)) s)
/-- `bgeu` (R153). -/
def execBgeu (a b : Reg) (o : BitVec 16) (s : State) : Host.Outcome State Fault Refusal :=
  .next (branchOp a b o (fun x y => decide (x.toNat ≥ y.toNat)) s)

/-- The target of a jump's 26-bit offset. -/
def jumpTarget (pc : Word) (o : BitVec 26) : Word := pc + 4 * o.signExtend 64

/-- `j` (R153). -/
def execJ (o : BitVec 26) (s : State) : Host.Outcome State Fault Refusal :=
  .next (onIssue s [] fun s c => jumpTo (setCur s c) 0 0 (jumpTarget c.seq.pc o))
/-- `jal` (R153): s31 takes the return address. -/
def execJal (o : BitVec 26) (s : State) : Host.Outcome State Fault Refusal :=
  .next (onIssue s [31] fun s c => jumpTo (setCur s c) 31 (c.seq.pc + 4) (jumpTarget c.seq.pc o))
/-- `jalr` (R153): the old value of ra is used when rd = ra. -/
def execJalr (d a : Reg) (i : BitVec 16) (s : State) : Host.Outcome State Fault Refusal :=
  .next (onIssue s [d, a] fun s c => jumpTo (setCur s c) d (c.seq.pc + 4) (getX c.seq a + immS i))

/-- The word of an instruction, the INFO of an illegal-instruction trap. -/
def wordOf (i : Instr) : W32 := (encode32 i).getD 0

/-- A CSR instruction that writes (R156): `f` old value and X[ra] to the value written. -/
def csrOp (i : Instr) (d a : Reg) (r : BitVec 8) (f : Word → Word → Word) (w1c : Bool) (s : State) : State :=
  onIssue s [d, a] fun s c =>
    let old := csrValue s.core c r
    let v := f old (getX c.seq a)
    if !csrOk r || csrRefused r v then takeIllegal (setCur s c) (wordOf i)
    else
      let c' := csrPut c r v w1c
      setCur s { c' with seq := wrNext c'.seq d old }

/-- `csrr` (R156). -/
def execCsrr (d : Reg) (r : BitVec 8) (s : State) : Host.Outcome State Fault Refusal :=
  .next (onIssue s [d] fun s c =>
    if !csrOk r then takeIllegal (setCur s c) (wordOf (.csrr d r))
    else setCur s { c with seq := wrNext c.seq d (csrValue s.core c r) })
/-- `csrw` (R156). -/
def execCsrw (d a : Reg) (r : BitVec 8) (s : State) : Host.Outcome State Fault Refusal :=
  .next (csrOp (.csrw d a r) d a r (fun _ x => x) true s)
/-- `csrs` (R156). -/
def execCsrs (d a : Reg) (r : BitVec 8) (s : State) : Host.Outcome State Fault Refusal :=
  .next (csrOp (.csrs d a r) d a r (fun o x => o ||| x) false s)
/-- `csrc` (R156). -/
def execCsrc (d a : Reg) (r : BitVec 8) (s : State) : Host.Outcome State Fault Refusal :=
  .next (csrOp (.csrc d a r) d a r (fun o x => o &&& ~~~x) false s)

/-- `fence` (R157): it completes once the store issued before it, if any, has performed; the six scopes act alike. -/
def execFence (_sc : BitVec 3) (s : State) : Host.Outcome State Fault Refusal :=
  .next (onIssue s [] fun s c => nextPc (performStore (setCur s (noEarly c)) s.core))
/-- `ifence` (R157): later instructions are fetched anew, after the store issued before it has performed. -/
def execIfence (s : State) : Host.Outcome State Fault Refusal :=
  .next (onIssue s [] fun s c => nextPc (performStore (setCur s { noEarly c with seq := { c.seq with ibuf := [] } }) s.core))
/-- `tret` (R157). -/
def execTret (s : State) : Host.Outcome State Fault Refusal :=
  .next (onIssue s [] fun s c =>
    if c.seq.th then returnFromTrap (setCur s c) else takeIllegal (setCur s c) (wordOf .tret))
/-- `kend` (R157): the sequencer enters DONE with the pc at the `kend`, which also ends a hold of barriers (R371). -/
def execKend (s : State) : Host.Outcome State Fault Refusal :=
  .next (onIssue s [] fun s c =>
    if c.seq.th then takeIllegal (setCur s c) (wordOf .kend)
    else setCur s { c with
      seq := { c.seq with st := .done }
      bs := { c.bs with hold := false, armHold := false } })
/-- `trap n` (R157). -/
def execTrap (n : BitVec 8) (s : State) : Host.Outcome State Fault Refusal :=
  .next (onIssue s [] fun s c => takeTrap (setCur s c) (0x0A + 64 * n.toNat))

/-- A pennant of mask `m` still holds `waitp`: a command that names it waits for acceptance, or its count is not zero
(R159). -/
def pennantsHold (c : Core) (m : BitVec 8) : Bool :=
  (c.cmds.any fun k => k.rdWait && (match k.pen with | some p => m.getLsbD p | none => false)) ||
  (List.range 8).any fun i => m.getLsbD i && nthD c.seq.pn i 0 != 0

/-- `waitp` (R159). -/
def execWaitp (m : BitVec 8) (s : State) : Host.Outcome State Fault Refusal :=
  .next (onIssue s [] fun s c =>
    if pennantsHold c m then setCur s { c with seq := { c.seq with st := .wait } } else nextPc (setCur s (noEarly c)))

/-- An encoding that R15 and R121 refuse, at the sequencer's pc (R154). -/
def execIllegalInstruction (w : W32) (s : State) : Host.Outcome State Fault Refusal :=
  .next (onIssue s [] fun s c => takeIllegal (setCur s c) w)

/-- The fetch translation that covers `va`: page base, size, physical base (R189). -/
def itlbHit (q : Seq) (va : Word) : Option Nat :=
  (q.itlb.find? fun e => va.toNat % 2 ^ 57 / e.2.1 * e.2.1 == e.1).map fun e => e.2.2 + va.toNat % e.2.1

/-- The instruction buffer with the word at `pc`; it holds at most 4,096 words (R143). -/
def bufferWord (q : Seq) (pc : Word) (w : W32) : Seq :=
  let b := mapSet q.ibuf pc.toNat w
  { q with ibuf := if b.length ≤ 4096 then b else [(pc.toNat, w)] }

/-- SEQUENCER_FETCH of the word `ahead` words after the pc (R143): a demand fetch at 0 translates and may trap or STALL
(R152, R153, R154); a read-ahead stays in pages already translated and does nothing else. -/
def execSequencerFetch (ahead : Nat) (s : State) : Host.Outcome State Fault Refusal :=
  .next (
    let c := cur s
    let va := c.seq.pc + BitVec.ofNat 64 (4 * ahead)
    if !issuing c.seq then s
    else if (targetCheck va).isSome then (if ahead = 0 then takeTrap s ((targetCheck va).getD 0) else s)
    else
      match itlbHit c.seq va with
      | some pa =>
        if placeBad s pa 4 then (if ahead = 0 then takeTrap s (causeError va) else s)
        else setCur s { c with seq := bufferWord c.seq va (BitVec.ofNat 32 (memNat s.mem pa 4)) }
      | none =>
        if ahead ≠ 0 then s
        else
          match translateAt s s.core va .exec with
          | (s, .error e) => stallSeq s va e
          | (s, .ok t) =>
            let s := updCur s fun c => { c with seq := { c.seq with itlb := (t.va, t.size, t.pa) :: c.seq.itlb } }
            if placeBad s (t.phys va) 4 then takeTrap s (causeError va)
            else updCur s fun c => { c with seq := bufferWord c.seq va (BitVec.ofNat 32 (memNat s.mem (t.phys va) 4)) })

end Sys2Proof.Machine
end

