-- ==== Sys2Proof/Machine/Fabric.lean ====
section
/-! DEFINITION. The fabric's shared operations: tokens and beats (R196 to R199), slots and their inputs (R201, R283),
words by port (R202), census (R219), edge ports (R127, R177), the matching store (R206 to R208), arbitration (R205). -/

namespace Sys2Proof.Machine

-- tokens ----------------------------------------------------------------------------------------------------------

/-- A run of either form. -/
def Tok.isRun (t : Tok) : Bool := t.kind == .run || t.kind == .packed
/-- A run or an ordering token. -/
def Tok.isData (t : Tok) : Bool := t.isRun || t.kind == .ordering
/-- A round marker, a wavefront or a pre-emption marker. -/
def Tok.isMark (t : Tok) : Bool := t.kind == .marker || t.kind == .wavefront || t.kind == .preempt
/-- Beats a token takes in a port's buffer (R196, R197); a token without a beat takes one place for its header. -/
def Tok.beats (t : Tok) : Nat :=
  match t.kind with
  | .run => if t.tags.length > 16 then 2 else 1
  | .packed => if t.tags.length > 16 then 3 else 2
  | .ordering => if t.tags.length > 16 then 2 else 1
  | _ => 1
/-- Beats of a queue. -/
def qBeats (q : List Tok) : Nat := (q.map Tok.beats).sum
/-- A port buffer of 8 beats has space for the token (R197). -/
def hasSpace (q : List Tok) (t : Tok) : Bool := qBeats q + t.beats ≤ 8
/-- Tags are consecutive and ascending. -/
def consecutive : List Nat → Bool
  | a :: b :: r => b == a + 1 && consecutive (b :: r)
  | _ => true
/-- Base tag of a token's record fields (R455): a run's lowest tag. -/
def Tok.base (t : Tok) : Nat := match t.tags with | a :: _ => a | [] => 0
/-- Lane of thread `tag`. -/
def Tok.lane (t : Tok) (tag : Nat) : Option Lane :=
  (t.tags.zip t.lanes).find? (fun e => e.1 == tag) |>.map (·.2)
/-- The token cut to some of its tags, in the order given; a piece of an ordering token is laid out from position 0 again (log
entry 74). -/
def Tok.cut (t : Tok) (tags : List Nat) : Tok :=
  { t with tags := tags, lanes := tags.map fun a => (t.lane a).getD ⟨0, true⟩ }
/-- A token with no lanes. -/
def bareTok (k : TokKind) (slot : Nat) (round : BitVec 8) (ctx place : Nat) : Tok :=
  { kind := k, slot := slot, round := round, frame := 0, ctx := ctx, level := 0, tags := [], lanes := [], place := place }
/-- Insertion into an ascending list. -/
def insertTag (a : Nat) : List Nat → List Nat
  | [] => [a]
  | b :: r => if a ≤ b then a :: b :: r else b :: insertTag a r
/-- The tags in ascending order. -/
def sortTags (l : List Nat) : List Nat := l.foldr insertTag []
/-- Cuts an ascending list into its stretches of consecutive tags. -/
def stretches : List Nat → List (List Nat)
  | [] => []
  | a :: r =>
    match stretches r with
    | (b :: q) :: rest => if b = a + 1 then (a :: b :: q) :: rest else [a] :: (b :: q) :: rest
    | other => [a] :: other
/-- Kind of a run that lists `tags`: contiguous when they are consecutive. -/
def runKind (tags : List Nat) : TokKind := if consecutive tags then .run else .packed

-- slots and units -------------------------------------------------------------------------------------------------

/-- CTL.PRI (R201). -/
def Slot.pri (sl : Slot) : Nat := sl.ctl.toNat % 4
/-- CTL.NUL: 0 absorb, 1 pass, 2 identity. -/
def Slot.nul (sl : Slot) : Nat := sl.ctl.toNat / 4 % 4
/-- CTL.INk: a port code, 7 unused. -/
def Slot.inPort (sl : Slot) (k : Nat) : Nat := sl.ctl.toNat / 2 ^ (4 + 3 * k) % 8
/-- CTL.ACC. -/
def Slot.acc (sl : Slot) : Bool := sl.ctl.getLsbD 13
/-- CTL.SLEV. -/
def Slot.slev (sl : Slot) : Nat := sl.ctl.toNat / 2 ^ 14 % 16
/-- CTL.SACT. -/
def Slot.sact (sl : Slot) : Nat := sl.ctl.toNat / 2 ^ 18 % 4
/-- Field of k0 of a memory-node slot (R282). -/
def Slot.nxt (sl : Slot) : Nat := sl.k0.toNat / 16 % 8
/-- k0.LOOP. -/
def Slot.loops (sl : Slot) : Bool := sl.k0.getLsbD 7
/-- The slot's unit word. -/
def Slot.word0 (sl : Slot) : W32 := nthD sl.stages 0 0

/-- The slot that is not in use. -/
def Slot.off : Slot :=
  { en := false, nst := 0, stages := [], k0 := 0, k1 := 0, ctl := 0, sw := [], lfsr := 1, loss := 0 }
/-- Slot `n` of a unit. -/
def FUnit.slot (u : FUnit) (n : Nat) : Slot := mapGetD u.slots n Slot.off
/-- Input queue `p`. -/
def FUnit.queue (u : FUnit) (p : Nat) : List Tok := mapGetD u.inq p []
/-- Sets input queue `p`; an empty queue is not listed. -/
def FUnit.setQueue (u : FUnit) (p : Nat) (q : List Tok) : FUnit :=
  { u with inq := if q.isEmpty then mapDel u.inq p else mapSet u.inq p q }
/-- Appends to input queue `p`. -/
def FUnit.push (u : FUnit) (p : Nat) (t : Tok) : FUnit := u.setQueue p (u.queue p ++ [t])

/-- Key of site (x, y). -/
def siteKey (x y : Nat) : Nat := 8 * y + x
/-- Site (x, y). -/
def siteAt (c : Core) (x y : Nat) : FUnit := mapGetD c.sites (siteKey x y) FUnit.reset
/-- Sets site (x, y). -/
def setSite (c : Core) (x y : Nat) (u : FUnit) : Core := { c with sites := mapSet c.sites (siteKey x y) u }
/-- A site's store, a node's or an exit port's; other units hold none. -/
def unitAt (c : Core) : UnitId → FUnit
  | .site x y => siteAt c x y
  | .mn x => (nodeAt c x).u
  | .exit i => mapGetD c.bs.exits i FUnit.reset
  | _ => FUnit.reset
/-- Sets such a unit. -/
def setUnit (c : Core) (id : UnitId) (u : FUnit) : Core :=
  match id with
  | .site x y => setSite c x y u
  | .mn x => setNode c x { nodeAt c x with u := u }
  | .exit i => { c with bs := { c.bs with exits := mapSet c.bs.exits i u } }
  | _ => c
/-- The unit exists (R22). -/
def unitOk : UnitId → Bool
  | .site x y => x < 8 && y < 6
  | .mn x => x < 8
  | .me y => y < 6
  | .sp x => x < 8
  | .exit i => i < 2
  | _ => true
/-- UNIT and POS of a record (R455). -/
def unitCode : UnitId → Nat × Nat
  | .site x y => (1, x + 8 * y)
  | .mn x => (2, x)
  | .me y => (3, 7 + 8 * y)
  | .sp _ => (4, 0)
  | .exit _ => (8, 0)
  | .nu => (5, 0)
  | .nd => (6, 0)

/-- The inputs in use of slot `n` of a unit: CTL names them at a site (R201), k0 at a memory node (R282). -/
def inputsOf (isMn : Bool) (sl : Slot) : List Nat :=
  if isMn then 0 :: (if sl.k0.getLsbD 11 then [1] else []) ++ (if sl.k0.getLsbD 15 then [2] else [])
  else [0, 1, 2].filter fun k => sl.inPort k ≠ 7
/-- The unit is a memory node. -/
def isNode : UnitId → Bool
  | .mn _ => true
  | _ => false

/-- Slot and input that slot field `n` selects at a memory node (R283). -/
def nodeRoute (u : FUnit) (n : Nat) : Option (Nat × Nat) :=
  let f := fun (en lo k : Nat) => (u.slots.find? fun e => e.2.en && e.2.k0.getLsbD en && e.2.k0.toNat / 2 ^ lo % 8 == n).map
    fun e => (e.1, k)
  (f 11 8 1 <|> f 15 12 2) <|> (if (u.slot n).en then some (n, 0) else none)

/-- The input of slot `n` that port `p` names at a site. -/
def localInput (u : FUnit) (n p : Nat) : Option Nat :=
  let sl := u.slot n
  if sl.en then [0, 1, 2].find? fun k => sl.inPort k == p else none

-- switch words ----------------------------------------------------------------------------------------------------

/-- Input ports of a switch word (R202). -/
def wordIns : Instr → List Nat
  | .swRoute i _ _ => [i.toNat] | .swFork i _ _ => [i.toNat] | .swMerge i _ j _ => [i.toNat, j.toNat]
  | .swGate i _ b _ => [i.toNat, b.toNat] | .swSteer i _ _ _ _ => [i.toNat] | .swBound i _ _ _ => [i.toNat]
  | .swNull i _ _ _ => [i.toNat] | .swSink i => [i.toNat] | .swCtl i => [i.toNat] | .swOrd i _ _ => [i.toNat]
  | _ => []

/-- Output ports of a word in slot `n`'s list, each with the slot field its tokens leave with. -/
def wordOuts (n : Nat) : Instr → List (Nat × Nat)
  | .swRoute _ o k => [(o.toNat, k.toNat)]
  | .swFork _ k m => ([0, 1, 2, 3, 4, 5].filter fun p => m.getLsbD p).map fun p => (p, k.toNat)
  | .swMerge _ o _ k => [(o.toNat, k.toNat)]
  | .swGate _ o _ k => [(o.toNat, k.toNat)]
  | .swSteer _ t _ f _ => [(t.toNat, n), (f.toNat, n)]
  | .swBound _ o _ k => [(o.toNat, k.toNat)]
  | .swNull _ o _ k => [(o.toNat, k.toNat)]
  | .swSrc o _ k => [(o.toNat, k.toNat)]
  | .swOrd _ o k => [(o.toNat, k.toNat)]
  | _ => []

/-- Source number of a `sw.src` word. -/
def wordSource : Instr → Option Nat
  | .swSrc _ q _ => some q.toNat
  | _ => none

/-- The switch words of a slot. -/
def Slot.words (sl : Slot) : List Instr := sl.sw.filterMap fun w => (decodeSw w).toOption
/-- Every switch word of a unit with its slot. -/
def FUnit.words (u : FUnit) : List (Nat × Instr) :=
  u.slots.flatMap fun e => if e.2.en then e.2.words.map fun w => (e.1, w) else []
/-- The word that handles a token with slot field `n` on port `p` (R202). -/
def FUnit.wordFor (u : FUnit) (n p : Nat) : Option Instr :=
  if (u.slot n).en then (u.slot n).words.find? fun w => (wordIns w).contains p else none

/-- A token of this kind may reach the word (R209, R222); a source and a sink also count control tokens (R209). -/
def kindOk (t : Tok) : Instr → Bool
  | .swFork _ _ _ => true
  | .swSrc _ _ _ => true
  | .swSink _ => true
  | .swCtl _ => t.kind == .control
  | .swOrd _ _ _ => t.kind == .ordering
  | _ => t.kind != .control

-- regions and census ----------------------------------------------------------------------------------------------

/-- The configuration of placement `p`. -/
def cfgOfPlace (c : Core) (p : Nat) : Option Config :=
  (regionOfPlace c p).bind fun r => (mapGet c.regions r).bind fun g =>
    if g.cfg.place == p then some g.cfg else g.succ.map (·.cfg)

/-- Changes the census of the placement that counts a token (R219). -/
def census (c : Core) (p : Nat) (d : Int) : Core :=
  { c with regions := c.regions.map fun e =>
      let g := e.2
      if g.cfg.place == p then (e.1, { g with census := g.census + BitVec.ofInt 24 d })
      else match g.succ with
        | some x => if x.cfg.place == p then (e.1, { g with succ := some { x with census := x.census + BitVec.ofInt 24 d } }) else e
        | none => e }

/-- The words of placement `place` belong to the successor of a chained start whose predecessor has not retired (R453). -/
def successorWaits (c : Core) (place : Nat) : Bool :=
  match c.prev, cfgOfPlace c place with
  | some h, some g => g.launch != h.launch
  | _, _ => false
/-- The cohort that a placement belongs to (R453). -/
def placeCohort (c : Core) (place : Nat) : Option Cohort := if successorWaits c place then c.coh else fabricCohort c

/-- A fabric fault (R222, R252) of a unit of core `n`, charged to its placement's cohort. -/
def fabricFault (s : State) (n : Nat) (id : UnitId) (slot cause : Nat) (fatal : Bool) (base len : Nat) : State :=
  let c := coreAt s n
  let k := unitCode id
  faultAt s n (successorWaits c (unitAt c id).place) { Record.mk' 0x05 k.1 cause fatal with
    pos := k.2, slot := slot, base := base, len := len, flags := placeFlags c (unitAt c id).place }

/-- A route fault: the token is consumed (R222). -/
def routeFault (s : State) (n : Nat) (id : UnitId) (t : Tok) : State :=
  fabricFault (updCore s n fun c => census c t.place (-1)) n id t.slot 0x01 true t.base t.tags.length

-- edges -----------------------------------------------------------------------------------------------------------

/-- Edge-port number of side `p` of site (x, y), clockwise from the north-west corner (R127). -/
def edgePort (g : Config) (x y p : Nat) : Nat :=
  let lx := x - g.x0; let ly := y - g.y0
  match p with
  | 0 => lx
  | 1 => g.w + ly
  | 2 => g.w + g.h + (g.w - 1 - lx)
  | _ => 2 * g.w + g.h + (g.h - 1 - ly)

/-- Site and side at which edge port `m` lies. -/
def edgeSite (g : Config) (m : Nat) : Nat × Nat × Nat :=
  if m < g.w then (g.x0 + m, g.y0, 0)
  else if m < g.w + g.h then (g.x0 + g.w - 1, g.y0 + (m - g.w), 1)
  else if m < 2 * g.w + g.h then (g.x0 + (2 * g.w + g.h - 1 - m), g.y0 + g.h - 1, 2)
  else (g.x0, g.y0 + (2 * g.w + 2 * g.h - 1 - m), 3)

/-- PORT, DIR, B and BSCOPE of an edge-port entry (R165). -/
def epPort (e : W32) : Nat := e.toNat % 32
/-- DIR: 1 out of the macro. -/
def epOut (e : W32) : Bool := e.getLsbD 5
/-- B. -/
def epB (e : W32) : Bool := e.getLsbD 6
/-- BSCOPE. -/
def epScope (e : W32) : Nat := e.toNat / 2 ^ 7 % 8
/-- The entry of edge port `m` in direction `out`. -/
def epEntry (g : Config) (m : Nat) (out : Bool) : Option W32 := g.edges.find? fun e => epPort e == m && epOut e == out

/-- Where an output port of a site leads. -/
inductive Dest where
  | site (x y p : Nat) | mn (x : Nat) | sp (x : Nat) | me (y : Nat) | edge (m : Nat) | fault
  deriving DecidableEq, Repr

/-- The other end of the link at output port `p` of site (x, y) under configuration `g` (R22, R163, R348). -/
def linkDest (g : Config) (x y p : Nat) : Dest :=
  match p with
  | 0 => if g.y0 < y then .site x (y - 1) 2 else if g.anchor.getLsbD 0 then .mn x else .edge (edgePort g x y 0)
  | 1 => if x + 1 < g.x0 + g.w then .site (x + 1) y 3
         else if g.anchor.getLsbD 1 then .me y else if x = 7 then .fault else .edge (edgePort g x y 1)
  | 2 => if y + 1 < g.y0 + g.h then .site x (y + 1) 0
         else if g.anchor.getLsbD 2 then .sp x else .edge (edgePort g x y 2)
  | _ => if g.x0 < x then .site (x - 1) y 1 else .edge (edgePort g x y 3)

/-- Position of the source that edge port `m` feeds. -/
def sourceOf (r : Region) (m : Nat) : Option Nat := findIdx r.sources fun q => q.ep == m

/-- Applies `f` to element `k` of a list. -/
def mapNth {α : Type} (f : α → α) : Nat → List α → List α
  | _, [] => []
  | 0, a :: r => f a :: r
  | n + 1, a :: r => a :: mapNth f n r

/-- Changes region `r`, if it is placed. -/
def updRegion (c : Core) (r : Nat) (f : Region → Region) : Core :=
  match mapGet c.regions r with
  | some g => { c with regions := mapSet c.regions r (f g) }
  | none => c

/-- Changes source `k` of region `r`. -/
def updSource (c : Core) (r k : Nat) (f : Source → Source) : Core :=
  updRegion c r fun g => { g with sources := mapNth f k g.sources }

/-- Source `k` of region `r`. -/
def sourceAt (c : Core) (r k : Nat) : Option Source := (mapGet c.regions r).bind fun g => g.sources[k]?

/-- Rounds whose markers are on their way through the region, for the bound of R214. -/
def openRounds (c : Core) (r : Nat) : List (BitVec 8) :=
  match mapGet c.regions r with
  | none => []
  | some g =>
    let mine := fun (t : Tok) => t.place == g.cfg.place && t.kind == .marker
    let ofU := fun (u : FUnit) =>
      (u.inq.flatMap fun e => (e.2.filter mine).map (·.round)) ++ ((u.out.map (·.2)).filter mine).map (·.round) ++
      (if u.place == g.cfg.place then (u.marks.filter fun m => m.kind == .marker).map (·.round) else [])
    (c.sites.flatMap fun e => ofU e.2) ++ (c.nodes.flatMap fun e => ofU e.2.u) ++
    (c.mx.ports.flatMap fun e => (e.2.filter mine).map (·.round)) ++
    (g.sources.flatMap fun q => (q.q.filter mine).map (·.round))

/-- Source `q` may stand in its round (R214): no source that can still make tokens is 128 rounds behind it, and no marker on its
way. No marker is 128 or more rounds ahead of a source, so its round tells modulo 256. -/
def mayStart (c : Core) (r : Nat) (q : Source) : Bool :=
  (openRounds c r).all (fun o => (q.round - o).toNat != 128) &&
  match mapGet c.regions r with
  | some g => g.sources.all fun o => o.done || decide (q.turns < o.turns + 128)
  | none => true

/-- A source makes a counted token, stamped with its round and its region's placement (R213, R219). -/
def sourceMake (c : Core) (r k : Nat) (t : Tok) : Core :=
  match mapGet c.regions r, sourceAt c r k with
  | some g, some q =>
    census (updSource c r k fun x => { x with q := x.q ++ [{ t with round := q.round, place := g.cfg.place }] }) g.cfg.place 1
  | _, _ => c

/-- A source closes its round (R214): a marker, or in a looped region the record of R218. -/
def sourceMark (c : Core) (r k : Nat) (final : Bool) : Core :=
  match mapGet c.regions r with
  | none => c
  | some g =>
    updSource c r k fun q =>
      if q.done then q
      else if g.looped then { q with marked := true, done := q.done || final }
      else { q with q := q.q ++ [bareTok .marker 0 q.round 0 g.cfg.place], round := q.round + 1, turns := q.turns + 1,
                    done := q.done || final }

/-- The pre-emption marker of a placement (R459). -/
def preemptTok (place : Nat) : Tok := bareTok .preempt 0 0 0 place
/-- Source `j` of region `g` has its pre-emption marker already (R459). -/
def preemptMade (c : Core) (g j : Nat) : Bool :=
  match mapGet c.regions g, sourceAt c g j with
  | some h, some q =>
    let a := edgeSite h.cfg q.ep
    let u := siteAt c a.1 a.2.1
    u.saved || (q.q.any fun t => t.kind == .preempt) || u.marks.any fun m => m.kind == .preempt && m.chan == 16 + j
  | _, _ => true

/-- The wavefront of a splice enters at source `k` of region `r` once, behind its final round marker; in a looped region once the
last round has closed; and not behind the source's pre-emption marker (R221, R459). -/
def sourceWave (r : Nat) (c : Core) (k : Nat) : Core :=
  match mapGet c.regions r, sourceAt c r k with
  | some g, some q =>
    let ended := !g.looped || g.sources.all fun q => q.done && !q.marked
    if g.succ.isSome && q.done && !q.waved && ended && !(c.saving && preemptMade c r k) then
      updSource c r k fun q => { q with q := q.q ++ [bareTok .wavefront 0 q.round 0 g.cfg.place], waved := true }
    else c
  | _, _ => c
/-- The wavefront enters at every source of a region at which it may (R221). -/
def pushWaves (c : Core) (r : Nat) : Core :=
  match mapGet c.regions r with
  | none => c
  | some g => (List.range g.sources.length).foldl (sourceWave r) c

/-- The source can make another token: its queue has space, it is not exhausted, its round may stand open, it does not
wait for a looped region's round to close, and no save has stopped it (R214, R218, R459). -/
def sourceOpen (c : Core) (r k : Nat) (t : Tok) : Bool :=
  match sourceAt c r k with
  | none => false
  | some q => !q.done && hasSpace q.q t && mayStart c r q && !q.marked && !c.saving

-- the matching store ----------------------------------------------------------------------------------------------

/-- Tokens pair only with the same context, round and frame tag (R206). -/
def pairs (a b : Tok) : Bool := a.ctx == b.ctx && a.round == b.round && a.frame == b.frame

/-- What a match does: the unit, the census change, and the tag of a match fault. -/
structure Matched where
  u : FUnit
  delta : Int
  bad : Option Nat
  deriving DecidableEq, Repr

/-- Waiting tokens at input `j` of slot `n` that pair with `t`. -/
def waitingAt (u : FUnit) (n j : Nat) (t : Tok) : List Tok :=
  (u.store.filter fun w => w.slot == n && w.inp == j && pairs w.tok t).map (·.tok)
/-- The oldest contiguous run or ordering token at input `j` that covers `x`. -/
def coverAt (u : FUnit) (n j : Nat) (t : Tok) (x : Nat) : Option Tok :=
  (waitingAt u n j t).find? fun w => w.kind != .packed && w.tags.contains x
/-- Removes the first occurrence of a waiting token. -/
def dropWait (l : List Waiting) (n j : Nat) (t : Tok) : List Waiting :=
  match l with
  | [] => []
  | w :: r => if w.slot == n && w.inp == j && w.tok == t then r else w :: dropWait r n j t

/-- The tags below `x` and above `y` that a token leaves, as pieces of its own kind (R207). -/
def outside (t : Tok) (x y : Nat) : List Tok :=
  let f := fun (l : List Nat) => if l.isEmpty then [] else [t.cut l]
  f (t.tags.filter (· < x)) ++ f (t.tags.filter (· > y))

/-- The greatest y such that every tag from x to y is covered by all the tokens. -/
def reach (ts : List Tok) (x : Nat) : Nat → Nat
  | 0 => x
  | n + 1 => if ts.all fun t => t.tags.contains (x + 1) then reach ts (x + 1) n else x

/-- Fires the slot on the contiguous tags of `match(t, i)` (R207): the fired set, the pieces left, and the unit without
the tokens; none when no tag matches. -/
def matchRun (u : FUnit) (n i : Nat) (ins : List Nat) (t : Tok) : Option (FUnit × Int × List (Nat × Tok)) :=
  let others := ins.filter (· ≠ i)
  let covered := fun x => others.all fun j => (coverAt u n j t x).isSome
  match (sortTags t.tags).find? covered with
  | none => none
  | some x =>
    let us := others.filterMap fun j => (coverAt u n j t x).map fun w => (j, w)
    let y := reach (t :: us.map (·.2)) x 31
    let tags := (List.range (y - x + 1)).map (· + x)
    let all := (i, t) :: us
    let store := us.foldl (fun l e => dropWait l n e.1 e.2) u.store
    let toks := ins.filterMap fun k => (all.find? fun e => e.1 == k).map fun e => e.2.cut tags
    let left := all.flatMap fun e => (outside e.2 x y).map fun p => (e.1, p)
    some ({ u with store := store, ready := u.ready ++ [{ slot := n, toks := toks }] },
          (left.length : Int), left)

/-- The tokens at input `j` that give packed run `p` its tags: a packed run with its list, or runs and ordering tokens
that together cover it (R208). -/
def givers (u : FUnit) (n j : Nat) (p : Tok) : Option (List Tok) :=
  match (waitingAt u n j p).find? fun w => w.kind == .packed && w.tags == p.tags with
  | some w => some [w]
  | none =>
    let ws := (waitingAt u n j p).filter fun w => w.kind != .packed && p.tags.any fun a => w.tags.contains a
    if p.tags.all fun a => ws.any fun w => w.tags.contains a then some ws else none

/-- The slot fields of the exit tokens that give a packed run its threads, by tag, where they differ (R208, R359). -/
def exitSlots (ws : List Tok) (p : Tok) : List (Nat × Nat) :=
  if ws.all fun w => some w.slot == ws.head?.map (·.slot) then []
  else p.tags.filterMap fun a => (ws.find? fun w => w.tags.contains a).map fun w => (a, w.slot)

/-- Fires a packed run at input `i` whole when its partners are there (R208); `p` is not in the store. -/
def matchPacked (u : FUnit) (n i : Nat) (ins : List Nat) (p : Tok) : Option (FUnit × Int) :=
  let others := ins.filter (· ≠ i)
  let gs := others.map fun j => (givers u n j p).map fun g => (j, g)
  if gs.any (·.isNone) then none
  else
    let gs := gs.filterMap id
    let store := gs.foldl (fun l e => e.2.foldl (fun l w =>
        let left := (stretches (sortTags (w.tags.filter fun a => !p.tags.contains a))).map fun tg =>
          ({ slot := n, inp := e.1, tok := w.cut tg } : Waiting)
        (l.flatMap fun x => if x.slot == n && x.inp == e.1 && x.tok == w then left else [x])) l) u.store
    let merged := gs.map fun e =>
      (e.1, { p with slot := match e.2 with | w :: _ => w.slot | [] => p.slot
                     kind := if e.2.all fun w => w.kind == .ordering then .ordering else .packed
                     lanes := p.tags.map fun a => ((e.2.findSome? fun w => w.lane a).getD ⟨0, true⟩) })
    let toks := ins.filterMap fun k => if k = i then some p else (merged.find? fun e => e.1 == k).map (·.2)
    let exits := match gs.find? fun e => e.1 == 0 with | some e => exitSlots e.2 p | none => []
    some ({ u with store := store, ready := u.ready ++ [{ slot := n, toks := toks, exits := exits }] },
          (store.length : Int) - u.store.length + gs.length)

/-- Serves every waiting packed run of slot `n` once (R207, R208). -/
def servePacked (u : FUnit) (n : Nat) (ins : List Nat) : List Waiting → FUnit × Int
  | [] => (u, 0)
  | w :: r =>
    if w.slot == n && w.tok.kind == .packed && u.store.contains w then
      match matchPacked { u with store := dropWait u.store n w.inp w.tok } n w.inp ins w.tok with
      | some (v, d) => let (v, e) := servePacked v n ins r; (v, d + e)
      | none => servePacked u n ins r
    else servePacked u n ins r

/-- A thread that the arrival makes stand twice at one input, or a packed run that overlaps another unequally (R222). -/
def matchClash (u : FUnit) (n i : Nat) (t : Tok) : Option Nat :=
  let twice := (waitingAt u n i t).findSome? fun w => t.tags.find? fun a => w.tags.contains a
  let uneven := if t.kind != .packed then none else
    (u.store.filter fun w => w.slot == n && w.inp ≠ i && pairs w.tok t && w.tok.kind == .packed && w.tok.tags != t.tags).findSome?
      fun w => t.tags.find? fun a => w.tok.tags.contains a
  twice <|> uneven

/-- Serves newly arrived tokens of slot `n` in order; `fuel` bounds the pieces (R207, R208). Matched sets wait for the unit in a
list without a bound (log entry 72), and the pieces of a split token wait in the store whether or not an entry is free (log
entry 89). -/
def matchAll : Nat → FUnit → Nat → List Nat → List (Nat × Tok) → Int → Matched
  | 0, u, n, _, work, d => { u := { u with store := u.store ++ work.map fun e => { slot := n, inp := e.1, tok := e.2 } },
                             delta := d, bad := none }
  | _ + 1, u, _, _, [], d => { u := u, delta := d, bad := none }
  | f + 1, u, n, ins, (i, t) :: rest, d =>
    match matchClash u n i t with
    | some a => { u := { u with store := u.store ++ ((i, t) :: rest).map fun e => { slot := n, inp := e.1, tok := e.2 } },
                  delta := d, bad := some a }
    | none =>
      if ins.length ≤ 1 then
        matchAll f { u with ready := u.ready ++ [{ slot := n, toks := [t] }] } n ins rest d
      else if t.kind == .packed then
        match matchPacked u n i ins t with
        | some (v, e) => matchAll f v n ins rest (d + e)
        | none => matchAll f { u with store := u.store ++ [{ slot := n, inp := i, tok := t }] } n ins rest d
      else
        let u1 := { u with store := u.store ++ [{ slot := n, inp := i, tok := t }] }
        let (u2, e) := servePacked u1 n ins u1.store
        let mine := u2.store.filter fun w => w.slot == n && w.inp == i && pairs w.tok t &&
          w.tok.kind == t.kind && w.tok.tags.all fun a => t.tags.contains a
        if u2.store != u1.store && !(mine.map (·.tok)).contains t then
          let u3 := { u2 with store := mine.foldl (fun l w => dropWait l n i w.tok) u2.store }
          matchAll f u3 n ins (mine.map (fun w => (i, w.tok)) ++ rest) (d + e)
        else
          let u3 := { u2 with store := dropWait u2.store n i t }
          match matchRun u3 n i ins t with
          | some (v, e2, left) => matchAll f v n ins (left ++ rest) (d + e + e2)
          | none => matchAll f u2 n ins rest (d + e)

/-- Matching slots of a unit: two or more inputs and no accumulator (R201, R284). -/
def matchingSlots (isMn : Bool) (u : FUnit) : List Nat :=
  (u.slots.filter fun e => e.2.en && !e.2.acc && (inputsOf isMn e.2).length > 1).map (·.1)

/-- A waiting entry is free to slot `n` (R206, R284): its reserved share, or the shared rest. A token that stands at a slot's
input register has its entry already. -/
def storeFree (isMn : Bool) (u : FUnit) (n : Nat) : Bool :=
  let total := if isMn then 16 else 32
  let res := if isMn then 2 else 4
  let ms := matchingSlots isMn u
  let used := fun k => (u.store.filter fun w => w.slot == k).length + (u.unitq.filter fun w => w.slot == k && w.tok.isData).length
  used n < res || (ms.map fun k => used k - res).sum < total - res * ms.length

/-- What the arrival of one token at input `i` of slot `n` does. -/
def matchIn (isMn : Bool) (u : FUnit) (n i : Nat) (t : Tok) : Matched := matchAll 200 u n (inputsOf isMn (u.slot n)) [(i, t)] 0
/-- The token would fire, or meets a match fault, at once. -/
def firesAtOnce (isMn : Bool) (u : FUnit) (n i : Nat) (t : Tok) : Bool :=
  let m := matchIn isMn u n i t
  m.u.ready.length != u.ready.length || m.bad.isSome
/-- Slot `n` can take the token at input `i` off its link (R206): it would fire, or an entry is free to it. -/
def storeTakes (isMn : Bool) (u : FUnit) (n i : Nat) (t : Tok) : Bool :=
  !t.isData || !(matchingSlots isMn u).contains n || storeFree isMn u n || firesAtOnce isMn u n i t

/-- Consumes every token of thread `a` of the context of `t` at the unit's store, whatever its slot, round and frame (R222);
the tokens consumed. -/
def dropThread (u : FUnit) (a : Nat) (t : Tok) : FUnit × List Tok :=
  let hit := fun (w : Waiting) => w.tok.ctx == t.ctx && w.tok.tags.contains a
  ({ u with store := u.store.filter fun w => !hit w }, (u.store.filter hit).map (·.tok))

/-- The unit word of a control token: lane 0 of beat 0, whose low bits name the slot TSLOT (R250). -/
def ctlWord (t : Tok) : W32 := match t.lanes with | l :: _ => l.v | [] => 0

-- arbitration -----------------------------------------------------------------------------------------------------

/-- The choice of R205 among candidates (index, priority, losses) after the last winner, `n` the number of indexes. -/
def choose (n last : Nat) (cs : List (Nat × Nat × Nat)) : Option Nat :=
  match (List.range n).find? fun i => cs.any fun c => c.1 == i && c.2.2 ≥ 64 with
  | some i => some i
  | none =>
    let top := (cs.map fun c => c.2.1).foldl max 0
    let order := (List.range n).map fun k => (last + 1 + k) % n
    order.find? fun i => cs.any fun c => c.1 == i && c.2.1 == top

/-- Records a choice among ready slots: losses of the others rise, the winner's returns to zero (R205). -/
def noteChoice (u : FUnit) (ready : List Nat) (win : Nat) : FUnit :=
  { u with
    last := win
    slots := u.slots.map fun e =>
      if e.1 == win then (e.1, { e.2 with loss := 0 })
      else if ready.contains e.1 then (e.1, { e.2 with loss := e.2.loss + 1 }) else e }

/-- Placement that counts a fired set. -/
def firePlace (f : Fire) : Nat := match f.toks with | t :: _ => t.place | [] => 0
/-- Round of a fired set. -/
def fireRound (f : Fire) : BitVec 8 := match f.toks with | t :: _ => t.round | [] => 0

/-- A round marker that slot `n`, or port S of its memory node, has still to send holds what belongs to a later round back: it
would leave ahead of the marker (R215). -/
def roundHeld (isMn : Bool) (u : FUnit) (n : Nat) (r : BitVec 8) : Bool :=
  u.marks.any fun m => m.kind == .marker && (m.cons == 8 + n || (isMn && m.cons == 2 && m.chan == 8 + n)) &&
    let d := (r - m.round).toNat
    0 < d && d < 128

/-- A set of slot `n` that may start. -/
def setMayFire (isMn : Bool) (u : FUnit) (n : Nat) (f : Fire) : Bool := f.slot == n && !roundHeld isMn u n (fireRound f)

/-- Takes the first ready set of slot `n` that may start. -/
def takeReady (isMn : Bool) (u : FUnit) (n : Nat) : Option (Fire × FUnit) :=
  (findIdx u.ready (setMayFire isMn u n)).bind fun i => u.ready[i]?.map fun f => (f, { u with ready := dropNth u.ready i })

-- results ---------------------------------------------------------------------------------------------------------

/-- The result of slot `n` has space at its first link (R205): no earlier result of the slot waits for its link, and the
output ports to which the slot's word for local sends are free. At a memory node the first link is that to site (x, 0) or
the loop. The sizes of these queues are the model's (log entry 73). -/
def resultSpace (c : Core) (id : UnitId) (n : Nat) : Bool :=
  let u := unitAt c id
  if isNode id then qBeats (u.queue (if (u.slot n).loops then 5 else 4)) + 3 ≤ 8
  else
    !((u.queue 4).any fun t => t.slot == n && !t.isMark) &&
    match u.wordFor n 4 with
    | some w => (wordOuts n w).all fun o => o.1 ≥ 4 || (mapGet u.out o.1).isNone
    | none => true

/-- Key of buffer `n`'s home: a cohort's cb instructions reach its own buffers (R276), so those of a successor whose
predecessor has not retired stand apart. -/
def cbKey (c : Core) (place n : Nat) : Nat := n % 16 + if successorWaits c place then 16 else 0

/-- The queue of the buffer that a cb slot of placement `place` names has room for its request (R277). -/
def cbRoom (c : Core) (place : Nat) (sl : Slot) : Bool :=
  let b := mapGet c.cbs (cbKey c place sl.k0.toNat)
  let prod := match b with | some b => decide (b.prod.length < 8) | none => true
  let cons := match b with | some b => decide (b.cons.length < 8) | none => true
  match decodeOp sl.word0 with
  | .ok (.cbput _ _) => prod
  | .ok (.cbget _ _) => cons
  | .ok (.cbadv _ _ m) => if m == 0 then cons else prod
  | .ok (.cbwait _ _ m) => if m == 0 then cons else prod
  | _ => true

/-- Tags of a fired set. -/
def fireTags (f : Fire) : List Nat := match f.toks with | t :: _ => t.tags | [] => []
/-- A piece of some of these threads is parked or awaits its replay (R290). -/
def parkedPiece (c : Core) (tags : List Nat) : Bool :=
  c.parked.any fun p => match p.who with | .piece _ f => (fireTags f).any fun a => tags.contains a | _ => false
/-- A lane of one of these threads, of an accepted run that `p` picks, is parked or awaits its replay (R290, R300). -/
def parkedLane (c : Core) (tags : List Nat) (p : Nat → Bool) : Bool :=
  c.parked.any fun q => match q.who with | .piece _ f => p f.run && f.acts.any fun a => tags.contains a | _ => false
/-- Accesses of memory nodes on their way: at the crossbar or in a compare queue (R294). -/
def nodeLanes (c : Core) : List Access := c.nodes.flatMap fun e => e.2.compare ++ e.2.cross
/-- Lanes of scratchpad units on their way, each with its firing and its thread: to a holding unit, or queued at a buffer's home
(R264, R277). -/
def scratchLanes (c : Core) : List (Nat × Nat) :=
  (c.hold.flatMap fun e => e.2.map fun a => (a.flight, a.tag)) ++
  (c.flights.filter fun f => f.left > 0 && c.cbs.any fun b => b.2.prod.contains f.id || b.2.cons.contains f.id).flatMap fun f =>
    f.acting.map fun i => (f.id, nthD (fireTags f.fire) i 0)
/-- Threads of a token with an access that has not performed (R88, R91, R265). -/
def unperformed (c : Core) (tags : List Nat) : Bool :=
  ((nodeLanes c).any fun a => tags.contains a.tag) || ((scratchLanes c).any fun e => tags.contains e.2) ||
  parkedLane c tags fun _ => true

/-- Parked pieces of node `x` (R290). -/
def parkedAt (c : Core) (x : Nat) : Nat := (c.parked.filter fun p => match p.who with | .piece m _ => m == x | _ => false).length

/-- Node `x` may accept a run for a slot that forms addresses: its park buffer of 64 pieces has room (R284), and its accesses
do not wait for a predecessor to retire (R453). -/
def nodeRoom (c : Core) (x : Nat) (sl : Slot) : Bool :=
  match decodeOp sl.word0 with
  | .ok .mord => true
  | .ok (.mfence _ _ _) => true
  | _ => decide (parkedAt c x < 64) && !(successorWaits c (unitAt c (.mn x)).place)

/-- Slot `n` holds `mwaitu`, and its next set has a thread with an access that has not performed (R403). -/
def exitWaits (c : Core) (u : FUnit) (n : Nat) : Bool :=
  match decodeOp (u.slot n).word0 with
  | .ok (.mwaitu _ _ _ _ _ _) => (u.ready.find? (setMayFire true u n)).any fun f => unperformed c (fireTags f)
  | _ => false

/-- Slot `n` of a unit may start its next set: its result has space, and so has what its unit needs (R205, R277, R284). -/
def startable (c : Core) (id : UnitId) (n : Nat) : Bool :=
  let u := unitAt c id
  !u.saved && resultSpace c id n && match id with | .mn x => nodeRoom c x (u.slot n) && !exitWaits c u n | _ => cbRoom c u.place (u.slot n)

/-- The ready slots of a unit (R205). -/
def readySlots (c : Core) (id : UnitId) : List Nat :=
  (List.range 8).filter fun n => (unitAt c id).ready.any (setMayFire (isNode id) (unitAt c id) n) && startable c id n
/-- The choice of a unit among its ready slots (R205). -/
def chooseSlot (u : FUnit) (ready : List Nat) : Option Nat :=
  choose 8 u.last (ready.map fun n => (n, (u.slot n).pri, (u.slot n).loss))
/-- The slot that the unit starts next (R205). -/
def nextSlot (c : Core) (id : UnitId) : Option Nat := chooseSlot (unitAt c id) (readySlots c id)

/-- A unit's slot `n` sends a token (R202, R282): a site's to its switch on port local, a node's by S or LOOP. -/
def emitTok (s : State) (k : Nat) (id : UnitId) (n : Nat) (t : Tok) : State :=
  let c := coreAt s k
  let u := unitAt c id
  if isNode id then
    let sl := u.slot n
    setCore s k (setUnit c id (u.push (if sl.loops then 5 else 4) { t with slot := sl.nxt }))
  else
    let t := { t with slot := n }
    match u.wordFor n 4 with
    | some w => if kindOk t w then setCore s k (setUnit c id (u.push 4 t)) else routeFault s k id t
    | none => routeFault s k id t

/-- Header of a result: the run that holds the fired tags (R199, R207, R208). -/
def resultTok (f : Fire) (lanes : List Lane) : Tok :=
  match f.toks with
  | [] => bareTok .run f.slot 0 0 0
  | t :: _ =>
    let packed := f.toks.any fun x => x.kind == .packed
    let r : Tok := { t with kind := if packed then .packed else runKind t.tags, lanes := lanes, level := 0 }
    if packed || consecutive t.tags then r else { r.cut (sortTags t.tags) with kind := runKind (sortTags t.tags) }

end Sys2Proof.Machine
end

