-- ==== Sys2Proof/Machine/Engine.lean ====
section
/-! DEFINITION. What the engines share in serving a sequencer's commands (R105, R106, R158, R187, R193): verdicts, status,
pennants, records of a command, parking. -/

namespace Sys2Proof.Machine

/-- What an engine answers to the command at the head of its queue: not yet; a status with no effect; acceptance with the
value of rd; a translation fault that parks the command before it is accepted; a fault at an address that ends the cohort. -/
inductive Verdict where
  | wait | refuse (status : Nat) | take (value : Word) | park (va : Word) (cause : Nat) | fault (kind cause : Nat) (addr : Word)
  deriving DecidableEq, Repr

/-- Acceptance with status ACCEPTED. -/
def Verdict.ok : Verdict := .take 0

/-- The engine of a command (R29, R103): 0 loader, 1 stream, 2 matrix, 3 block scheduler, 4 home slices, 5 capacity tier,
6 relay, 7 launch unit. -/
def engineOf : Instr → Nat
  | .cfgFetch _ _ _ _ => 0 | .cfgPlace _ _ _ _ => 0 | .cfgStitch _ _ _ _ => 0 | .cfgStart _ _ _ => 0
  | .cfgSplice _ _ _ _ => 0 | .cfgDrain _ _ _ => 0 | .cfgEvict _ _ => 0 | .cfgPatch _ _ _ => 0 | .cfgInv _ _ _ _ => 0
  | .sxBind _ _ _ _ => 1 | .sxGo _ _ => 1 | .sxBar _ _ _ => 1 | .sxMcast _ _ _ _ => 1 | .sxStop _ _ => 1
  | .sxQuery _ _ => 1 | .sxSparse _ _ _ _ => 1 | .sxRemote _ _ _ _ => 1 | .sxWbload _ _ _ _ => 1 | .sxTile _ _ _ _ => 1
  | .mxZero _ _ _ => 2 | .mxMove _ _ _ => 2 | .mxLdsh _ _ _ _ => 2 | .mxLdwd _ _ _ _ => 2 | .mxTag _ _ => 2
  | .bsQuery _ _ => 3 | .bsSeed _ _ _ => 3 | .bsPolicy _ _ _ => 3 | .bsUniform _ _ => 3 | .bsRound _ _ _ => 3
  | .embPool _ _ _ _ => 5 | .embGather _ _ _ _ => 5 | .embScatadd _ _ _ _ => 5
  | .nbDrain _ _ => 6
  | .ctxYield _ => 7 | .ctxMark _ => 7 | .ctxFault _ _ _ => 7
  | _ => 4

/-- UNIT code of an engine's records (R455). -/
def engineUnit (e : Nat) : Nat :=
  match e with
  | 0 => 9 | 1 => 4 | 2 => 3 | 3 => 8 | 4 => 11 | 5 => 10 | 6 => 6 | _ => 0

/-- Operand `k` (1 to 7) of a command. -/
def Cmd.opnd (m : Cmd) (k : Nat) : Word := nthD m.ops (k - 1) 0
/-- Bits [lo + len − 1 : lo] of operand `k`. -/
def Cmd.fld (m : Cmd) (k lo len : Nat) : Nat := (m.opnd k).toNat / 2 ^ lo % 2 ^ len
/-- Every bit of operand `k` outside mask `mask` is zero. -/
def Cmd.only (m : Cmd) (k mask : Nat) : Bool := m.opnd k &&& ~~~(BitVec.ofNat 64 mask) == 0

/-- Changes command `id` of core `n`. -/
def updCmd (s : State) (n id : Nat) (f : Cmd → Cmd) : State :=
  updCore s n fun c => { c with cmds := mapWhere c.cmds (fun m => m.id == id) f }
/-- Command `id` of a core. -/
def cmdAt (c : Core) (id : Nat) : Option Cmd := c.cmds.find? fun m => m.id == id

/-- The engine writes `v` into the rd of a command (R105, R106). -/
def answerCmd (s : State) (n : Nat) (m : Cmd) (v : Word) : State :=
  updCmd (updCore s n fun c => { c with seq := setX c.seq m.rd v }) n m.id fun m => { m with rdWait := false }

/-- Count of a pennant. -/
def pennant (q : Seq) (p : Nat) : Nat := nthD q.pn p 0
/-- Sets it. -/
def setPennant (q : Seq) (p v : Nat) : Seq := { q with pn := q.pn.set p v }

/-- A command is refused: its status, and no other effect (R106). -/
def refuseCmd (s : State) (n : Nat) (m : Cmd) (status : Nat) : State :=
  updCore (answerCmd s n m (BitVec.ofNat 64 status)) n fun c => { c with cmds := c.cmds.filter fun k => k.id != m.id }

/-- A command is accepted: its value into rd; it counts on its pennant from here on (R158). -/
def takeCmd (s : State) (n : Nat) (m : Cmd) (v : Word) : State :=
  updCmd (updCore (answerCmd s n m v) n fun c =>
      match m.pen with
      | some p => { c with seq := setPennant c.seq p (pennant c.seq p + 1) }
      | none => c) n m.id fun m => { m with phase := .running }

/-- A command's work is done: one without a pennant ends here, one with a pennant waits for COMMAND_COMPLETE. -/
def finishCmd (s : State) (n id : Nat) : State :=
  updCore s n fun c => { c with cmds := (c.cmds.filter fun m => !(m.id == id && m.pen.isNone)).map fun m =>
    if m.id == id then { m with phase := .finished } else m }

/-- A command completes (R158): its pennant's count falls by one, and PF is set when it wrote a record. -/
def completeCmd (s : State) (n id : Nat) : State :=
  updCore s n fun c =>
    match cmdAt c id with
    | none => c
    | some m =>
      let q := match m.pen with
        | some p => { setPennant c.seq p (pennant c.seq p - 1) with pf := if m.record then c.seq.pf ||| BitVec.ofNat 8 (2 ^ p) else c.seq.pf }
        | none => c.seq
      { c with seq := q, cmds := c.cmds.filter fun k => k.id != id }

/-- A fault record of a command, charged to the cohort that issued it; PF follows at completion unless the cohort ended
(R158). -/
def cmdFault (s : State) (n : Nat) (m : Cmd) (r : Record) : State :=
  updCmd (faultAt s n (!m.prev) { r with sp := match m.pen with | some p => if r.kind = 0x0D then r.sp else p | none => r.sp }) n m.id
    fun m => { m with record := true }

/-- A command parks on a translation fault at `va` (R187): one record of kind command translation. -/
def parkCmd (s : State) (n : Nat) (m : Cmd) (va : Word) (cause : Nat) : State :=
  let c := coreAt s n
  match (if m.prev then fabricCohort c else c.coh) with
  | none => s
  | some h =>
    let q := (ctxAt s h.ctx).seq
    let s := updCore s n fun c => { c with parked := c.parked ++
      [{ seq := q, who := .command m.id, va := va, inRing := false, answer := 0 }] }
    putRecord (updCmd s n m.id fun m => { m with phase := .parked }) h.ctx h.lid (some h.launch)
      { Record.mk' 0x0A (engineUnit (engineOf m.op)) cause false with
        park := true, core := n, addr := va, sp := match m.pen with | some p => p | none => 0 }

/-- A translation for a command: the physical address, or the parked command. -/
def cmdTranslate (s : State) (n : Nat) (va : Word) (need : Need) : State × Except Nat Nat :=
  match translateAt s n va need with
  | (s, .ok t) => (s, .ok (t.phys va))
  | (s, .error e) => (s, .error e)

/-- The `len` bytes that a command reads at `va`, at most two pages, each translated (R185): the bytes, the address of the page
that faults with its cause, or none where a place reports an error. -/
def readPages (s : State) (n : Nat) (va : Word) (len : Nat) : State × Except (Word × Nat) (Option (List Byte)) :=
  let k := min len (65536 - va.toNat % 65536)
  let get := fun (s : State) (pa k : Nat) => if placeBad s pa k then none else some (memRead s.mem pa k)
  match cmdTranslate s n va .read with
  | (s, .error e) => (s, .error (va, e))
  | (s, .ok pa) =>
    if k = len then (s, .ok (get s pa len))
    else match cmdTranslate s n (va + BitVec.ofNat 64 k) .read with
      | (s, .error e) => (s, .error (va + BitVec.ofNat 64 k, e))
      | (s, .ok pb) => (s, .ok (match get s pa k, get s pb (len - k) with | some x, some y => some (x ++ y) | _, _ => none))

/-- Reads the record that operand 1 names, `k` words, once at home (R312, R346, R413); an uncorrectable error there is the
engine's memory error, of `kind` and `cause` (R98). -/
def readRecord (s : State) (n : Nat) (m : Cmd) (k kind cause : Nat) : State × Except Verdict (List Word) :=
  match readPages s n (m.opnd 1) (8 * k) with
  | (s, .error e) => (s, .error (.park e.1 e.2))
  | (s, .ok none) => (s, .error (.fault kind cause (m.opnd 1)))
  | (s, .ok (some bs)) => (s, .ok (wordsOf k bs))

/-- Pennant `p` of a core is full, so a command naming it cannot issue (R158). -/
def pennantFull (c : Core) (p : Option Nat) : Bool := match p with | some p => pennant c.seq p ≥ 255 | none => false

/-- Context and cohort that a command works for. -/
def cmdCohort (c : Core) (m : Cmd) : Option Cohort := if m.prev then fabricCohort c else c.coh

end Sys2Proof.Machine
end

