-- ==== Sys2Proof/Machine/Special.lean ====
section
/-! DEFINITION. The special functions of R256 as exact values: fixed-point arithmetic at 640 fraction bits with a sticky
bit, far finer than any rounding of binary32, and the operand cases that R256 lists. -/

namespace Sys2Proof.Machine

/-- Fraction bits of the fixed-point numbers below. -/
def P : Nat := 640
/-- One. -/
def one : Int := 2 ^ P

/-- floor of the square root, bit by bit from bit `n`. -/
def isqrtFrom : Nat → Nat → Nat → Nat
  | 0, _, r => r
  | n + 1, v, r => let t := r + 2 ^ n; isqrtFrom n v (if t * t ≤ v then t else r)
/-- floor of the square root. -/
def isqrt (v : Nat) : Nat := isqrtFrom (Nat.log2 v / 2 + 1) v 0

/-- Σ z·w^k / (2k + 1) for k below the fuel, with the sign of `w`: atanh or arctan by its series. -/
def oddSeries : Nat → Nat → Int → Int → Int
  | 0, _, _, _ => 0
  | n + 1, k, z, w => z / (2 * k + 1) + oddSeries n (k + 1) (z * w / one) w

/-- ln 2 = 2·atanh(1/3). -/
def ln2 : Int := 2 * oddSeries 210 0 (one / 3) (one / 9)
/-- π = 16·arctan(1/5) − 4·arctan(1/239). -/
def piFix : Int :=
  16 * oddSeries 145 0 (one / 5) (-(one / 25)) - 4 * oddSeries 45 0 (one / 239) (-(one / 57121))

/-- Σ t / (k (k + 1) …) with every `step` factors: the tail of a Taylor series with term `t` before index k. -/
def taylor : Nat → Nat → Nat → Int → Int → Int
  | 0, _, _, t, _ => t
  | n + 1, k, step, t, w =>
    let d : Int := if step = 1 then (k : Int) else ((k : Int) * (k + 1))
    t + taylor n (k + step) step (t * w / one / d) w

/-- Squares `n` times. -/
def squares : Nat → Int → Int
  | 0, x => x
  | n + 1, x => squares n (x * x / one)

/-- e^x for |x| ≤ 128. -/
def expFix (x : Int) : Int := squares 9 (taylor 110 1 1 one (x / 512))

/-- The fixed-point value as an exact value with a sticky bit. -/
def ofFix (x : Int) : Val := .fin (decide (x < 0)) (x.natAbs / 2 ^ 16) (16 - (P : Int)) true

/-- ±m·2^e in fixed point; exact for e ≥ −640. -/
def toFix (neg : Bool) (m : Nat) (e : Int) : Int :=
  let a : Int := (m * 2 ^ (e + P).toNat : Nat)
  if neg then -a else a

/-- √(m·2^e), m ≠ 0. -/
def sqrtFin (m : Nat) (e : Int) : Val :=
  let odd : Nat := (e % 2).toNat
  let v := m * 2 ^ (odd + 400)
  let r := isqrt v
  .fin false r ((e - odd - 400) / 2) (r * r != v)

/-- 1/√(m·2^e), m ≠ 0. -/
def rsqrtFin (m : Nat) (e : Int) : Val :=
  let odd : Nat := (e % 2).toNat
  let mm := m * 2 ^ odd
  let t := 300 + Nat.log2 mm
  let r := isqrt (2 ^ (2 * t) / mm)
  .fin false r (-(t : Int) - (e - odd) / 2) (r * r * mm != 2 ^ (2 * t))

/-- 2^(±m·2^e), m ≠ 0. -/
def exp2Fin (neg : Bool) (m : Nat) (e : Int) : Val :=
  if (Nat.log2 m : Int) + e ≥ 10 then (if neg then .fin false 1 (-400) true else .fin false 1 400 true)
  else
    let x := toFix neg m e
    let n := x / one
    let f := x % one
    if f = 0 then .fin false 1 n false
    else
      match ofFix (expFix (f * ln2 / one)) with
      | .fin s k q st => .fin s k (q + n) st
      | v => v

/-- log₂(m·2^e), m ≠ 0. -/
def log2Fin (m : Nat) (e : Int) : Val :=
  let lg := Nat.log2 m
  if m = 2 ^ lg then ofInt (lg + e)
  else
    let y : Int := (m * 2 ^ (P - lg) : Nat)
    let z := (y - one) * one / (y + one)
    ofFix ((lg + e) * one + 2 * oddSeries 210 0 z (z * z / one) * one / ln2)

/-- sin and cos of x by Taylor. -/
def sinFix (x : Int) : Int := taylor 70 2 2 x (-(x * x / one))
/-- cos of x. -/
def cosFix (x : Int) : Int := taylor 70 1 2 one (-(x * x / one))

/-- sin (or cos) of ±m·2^e with an exact reduction of the argument. -/
def trigFin (isCos : Bool) (neg : Bool) (m : Nat) (e : Int) : Val :=
  let x := toFix neg m e
  let half := piFix / 2
  let k := (x / half + (if isCos then 1 else 0)) % 4
  let r := x % half
  ofFix (if k = 0 then sinFix r else if k = 1 then cosFix r else if k = 2 then -(sinFix r) else -(cosFix r))

/-- tanh(±m·2^e), m ≠ 0. -/
def tanhFin (neg : Bool) (m : Nat) (e : Int) : Val :=
  if (Nat.log2 m : Int) + e ≥ 6 then .fin neg (2 ^ 100 - 1) (-100) true
  else
    let x := expFix (2 * toFix false m e)
    match ofFix ((x - one) * one / (x + one)) with
    | .fin _ k q st => .fin neg k q st
    | v => v

/-- The exact value of a special function (opcode 0x30 to 0x37 of R256) with the flags of its operand cases. -/
def specialV (op : Nat) (x : Val) : Val × Flags :=
  match x with
  | .nan sg => (.nan false, if sg then fNV else 0)
  | _ =>
  let neg := isNeg x
  let nv : Val × Flags := (.nan false, fNV)
  match op, x with
  | 0x30, _ => divV (.fin false 1 0 false) x
  | 0x31, .inf n => if n then nv else (.fin false 0 0 false, 0)
  | 0x31, .fin _ m e _ => if m = 0 then (.inf neg, fDZ) else if neg then nv else (rsqrtFin m e, 0)
  | 0x32, .inf n => if n then nv else (.inf false, 0)
  | 0x32, .fin _ m e _ => if m = 0 then (x, 0) else if neg then nv else (sqrtFin m e, 0)
  | 0x33, .inf n => (if n then .fin false 0 0 false else .inf false, 0)
  | 0x33, .fin _ m e _ => if m = 0 then (.fin false 1 0 false, 0) else (exp2Fin neg m e, 0)
  | 0x34, .inf n => if n then nv else (.inf false, 0)
  | 0x34, .fin _ m e _ => if m = 0 then (.inf true, fDZ) else if neg then nv else (log2Fin m e, 0)
  | 0x35, .inf _ => nv
  | 0x35, .fin _ m e _ => if m = 0 then (x, 0) else (trigFin false neg m e, 0)
  | 0x36, .inf _ => nv
  | 0x36, .fin _ m e _ => if m = 0 then (.fin false 1 0 false, 0) else (trigFin true neg m e, 0)
  | _, .inf n => (.fin n 1 0 false, 0)
  | _, .fin _ m e _ => if m = 0 then (x, 0) else (tanhFin neg m e, 0)
  | _, _ => (x, 0)

end Sys2Proof.Machine
end

