-- ==== Sys2Proof/Machine/Operands.lean ====
section
/-! DEFINITION. Fields of vector-element stage words (R107, R225 to R229), values in their formats (R108, R247), the
identities of R204, and the effect of every stage operation on one lane (R237 to R245, R249, R255 to R258). -/

namespace Sys2Proof.Machine

namespace Stg
/-- Opcode [28:22]. -/
def op (w : W32) : Nat := w.toNat / 2 ^ 22 % 128
/-- dst. -/
def dst (w : W32) : Nat := (OpF.dst w).toNat
/-- Source select at position 0 (A), 1 (B), 2 (C). -/
def src (w : W32) (p : Nat) : Nat := (if p = 0 then OpF.srcA w else if p = 1 then OpF.srcB w else OpF.srcC w).toNat
/-- Type code. -/
def ty (w : W32) : Nat := (OpF.ty w).toNat
/-- Rounding mode. -/
def rnd (w : W32) : Nat := (OpF.rnd w).toNat
/-- Saturate bit. -/
def sat (w : W32) : Bool := OpF.sat w == 1
/-- mod. -/
def mod (w : W32) : Nat := (OpF.mod w).toNat
/-- Format variant [10:7] (R111). -/
def fmt (w : W32) : Nat := w.toNat / 2 ^ 7 % 16
/-- The stage's result is the lane's value in the result token. -/
def outs (w : W32) : Bool := dst w == 1 || dst w == 4
end Stg

/-- Format of a floating-point type code of the arithmetic classes: .f32, .f16, .bf16 (R108). -/
def typeFmt (t : Nat) : FFmt := if t = 4 then ffmt 1 else if t = 5 then ffmt 2 else f32
/-- .s32 or .n32. -/
def isInt (t : Nat) : Bool := t ≤ 1
/-- `ival` of R229. -/
def ival (t : Nat) (v : W32) : Int := if t = 0 then v.toInt else v.toNat
/-- `fval` of R229. -/
def fval (t : Nat) (v : W32) : Val := decodeF (typeFmt t) v.toNat
/-- A rounded value in type `t`. -/
def roundT (t mode : Nat) (sat : Bool) (r : Nat) (x : Val) : W32 × Flags :=
  let y := roundTo (typeFmt t) mode sat r x
  (BitVec.ofNat 32 y.1, y.2)
/-- An integer result of type `t`: clamped or wrapped (R237). -/
def fitT (t : Nat) (sat : Bool) (x : Int) : W32 :=
  BitVec.ofInt 32 (if sat then clamp x (intLo 32 (t == 0)) (intHi 32 (t == 0)) else x)

/-- Source positions that an opcode reads (R236, R246). -/
def reads (op : Nat) : List Nat :=
  if op ≤ 0x03 || op == 0x0A || op == 0x0B || (0x10 ≤ op && op ≤ 0x12) || (0x14 ≤ op && op ≤ 0x18) || op == 0x1C ||
     op == 0x1D || op == 0x20 || (0x22 ≤ op && op ≤ 0x24) || op == 0x38 || op == 0x62 then [0, 1]
  else if (0x04 ≤ op && op ≤ 0x07) || op == 0x21 then [0, 1, 2]
  else if op == 0x64 then [] else [0]

/-- The stage reads its rnd field (R236, R246). -/
def readsRnd (w : W32) : Bool :=
  let op := Stg.op w
  let fl := Stg.ty w ≥ 3
  (op ≤ 0x02 && fl) || (0x04 ≤ op && op ≤ 0x07) || (0x30 ≤ op && op ≤ 0x38) ||
  (0x40 ≤ op && op ≤ 0x4F && !(op % 16 ≥ 8 && Stg.fmt w ≥ 8)) || op == 0x50 || op == 0x51 ||
  ((op == 0x60 || op == 0x61) && Stg.ty w == 3 && Stg.mod w == 0)

/-- The stage reads its sat field. -/
def readsSat (w : W32) : Bool :=
  let op := Stg.op w
  op ≤ 0x02 || (0x04 ≤ op && op ≤ 0x07) || ((op == 0x08 || op == 0x09) && Stg.ty w ≤ 1) || (0x30 ≤ op && op ≤ 0x38) ||
  (0x40 ≤ op && op ≤ 0x4F) || op == 0x51 || ((op == 0x60 || op == 0x61) && Stg.ty w ≤ 1 && Stg.mod w == 0)

/-- ±0, 1.0, ±∞ of a type. -/
def zeroOf (t : Nat) (neg : Bool) : W32 := BitVec.ofNat 32 ((typeFmt t).encZero neg)
/-- 1.0. -/
def oneOf (t : Nat) : W32 := BitVec.ofNat 32 ((roundTo (typeFmt t) 0 false 0 (ofInt 1)).1)
/-- An infinity. -/
def infOf (t : Nat) (neg : Bool) : W32 := BitVec.ofNat 32 ((typeFmt t).encInf neg)

/-- The identity at position `p` of a stage (R204). -/
def identityAt (w : W32) (p : Nat) : Option W32 :=
  let t := Stg.ty w
  let int := isInt t
  let rdn := Stg.rnd w == 2
  let fold := Stg.op w == 0x60 || Stg.op w == 0x61
  let op := if fold then (if Stg.mod w = 0 then 0x00 else if Stg.mod w = 1 then 0x0A else 0x0B) else Stg.op w
  match op with
  | 0x00 => some (if int then 0 else zeroOf t (!rdn))
  | 0x01 => some (if int then 0 else zeroOf t (if p = 0 then !rdn else rdn))
  | 0x02 => some (if int then 1 else oneOf t)
  | 0x04 => some (if p ≤ 1 then oneOf t else zeroOf t (!rdn))
  | 0x06 => some (if p ≤ 1 then oneOf t else zeroOf t (!rdn))
  | 0x05 => some (if p ≤ 1 then oneOf t else zeroOf t rdn)
  | 0x07 => some (if p ≤ 1 then oneOf t else zeroOf t rdn)
  | 0x0A => some (if t = 0 then 0x7FFF_FFFF else if t = 1 then 0xFFFF_FFFF else infOf t false)
  | 0x0B => some (if t = 0 then 0x8000_0000 else if t = 1 then 0 else infOf t true)
  | 0x10 => some 0xFFFF_FFFF
  | 0x11 => some 0
  | 0x12 => some 0
  | _ => none

/-- Positions at which a stage reads token input `j`. -/
def readsInput (w : W32) (j : Nat) : List Nat := (reads (Stg.op w)).filter fun p => Stg.src w p == j
/-- The identity of input `j`: that of the first stage that reads it (R204); none when that stage has none or reads it at
positions that differ. -/
def inputIdentity (ws : List W32) (j : Nat) : Option W32 :=
  match ws.find? fun w => !(readsInput w j).isEmpty with
  | none => none
  | some w =>
    match (readsInput w j).map fun p => identityAt w p with
    | some v :: r => if r.all fun x => x == some v then some v else none
    | _ => none

/-- Operation of an atomic of class 001 (0x08 up) or 010 (0x10 up) in the order of R104; none for other opcodes. -/
def atomicOf (w : W32) : Option Nat :=
  let op := Stg.op w
  if bits w 29 3 == 1 && 0x08 ≤ op && op ≤ 0x0F then some (op - 0x08)
  else if bits w 29 3 == 2 && 0x10 ≤ op && op ≤ 0x17 then some (op - 0x10) else none

/-- The identity of an atomic's operand (R204, R269, R296): that of the matching vector operation. -/
def atomicIdentity (w : W32) : Option W32 :=
  let t := Stg.ty w
  (atomicOf w).bind fun k => match k with
    | 0 => some (if t = 7 then 0x8000_0000 else 0)
    | 1 => some (if t = 5 then 0x7FFF_FFFF else if t = 6 then 0xFFFF_FFFF else 0x7F80_0000)
    | 2 => some (if t = 5 then 0x8000_0000 else if t = 6 then 0 else 0xFF80_0000)
    | 3 => some 0xFFFF_FFFF
    | 4 => some 0
    | 5 => some 0
    | _ => none

/-- The identity that a null operand on input `j` of a slot is replaced by. -/
def slotIdentity (sl : Slot) (j : Nat) : Option W32 :=
  if bits sl.word0 29 3 == 0 then inputIdentity sl.stages j
  else if Stg.src sl.word0 0 == j || Stg.src sl.word0 1 == j then atomicIdentity sl.word0 else none

/-- Width in bits of an integer format of R50. -/
def intBits (f : Nat) : Nat := if f = 8 || f = 0xB then 8 else if f = 9 || f = 0xC then 16 else 32
/-- The integer format is signed. -/
def intSigned (f : Nat) : Bool := 8 ≤ f && f ≤ 0xA
/-- An integer in its lane (R247). -/
def laneInt (f : Nat) (x : Int) : W32 :=
  if intSigned f then (BitVec.ofInt (intBits f) x).signExtend 32 else (BitVec.ofInt (intBits f) x).setWidth 32
/-- The integer that a lane encodes in format `f`. -/
def readInt (f : Nat) (a : W32) : Int :=
  if intSigned f then (BitVec.ofNat (intBits f) a.toNat).toInt else (BitVec.ofNat (intBits f) a.toNat).toNat

/-- `vcvt` (R249). -/
def vcvtV (dcode scode mode : Nat) (sat : Bool) (r : Nat) (a : W32) : W32 × Flags :=
  let sInt := 8 ≤ scode && scode ≤ 0xD
  let x := if sInt then ofInt (readInt scode a) else if scode = 0xE then ofScale (a.toNat % 256) else decodeF (ffmt scode) a.toNat
  let nv := if !sInt && scode != 0xE then nvOf [x] else 0
  if dcode < 8 then
    let y := roundTo (ffmt dcode) mode sat r x
    (BitVec.ofNat 32 y.1, nv ||| y.2)
  else if sInt then
    let n := readInt scode a
    (laneInt dcode (if sat then clamp n (intLo (intBits dcode) (intSigned dcode)) (intHi (intBits dcode) (intSigned dcode)) else n), 0)
  else
    let y := cvtInt (intBits dcode) (intSigned dcode) mode sat r x
    (laneInt dcode y.1, nv ||| y.2)

/-- `vmxe` (R255). -/
def vmxeV (wide elem mode : Nat) (sat : Bool) (r : Nat) (a : W32) : W32 × Flags :=
  let s := a.toNat / 256 % 256
  let e := decodeF (ffmt elem) a.toNat
  let x : Val := if s = 255 || isNan e then .nan false
    else match e with
      | .fin n m q st => .fin n m (q + s - 127) st
      | v => v
  let y := roundTo (ffmt wide) mode sat r x
  (BitVec.ofNat 32 y.1, nvOf [e] ||| y.2)

/-- Carry-less product (R258). -/
def clmul (a : W32) (b : Nat) : Nat → Nat → Word
  | 0, _ => 0
  | n + 1, i => (if a.getLsbD i then BitVec.ofNat 64 (b * 2 ^ i) else 0) ^^^ clmul a b n (i + 1)

/-- Bits set among the lowest `n` of a lane. -/
def pop32 (a : W32) : Nat → Nat
  | 0 => 0
  | n + 1 => pop32 a n + (a.getLsbD n).toNat

/-- Effect of a lane operation of a stage (R237 to R245, R249, R255 to R258): result and flags; `r` is the LFSR value. -/
def laneOp (w : W32) (r : Nat) (a b c : W32) : W32 × Flags :=
  let t := Stg.ty w
  let m := Stg.rnd w
  let sat := Stg.sat w
  let n := b.toNat % 32
  let fl := fun (e : Val × Flags) => let y := roundT t m sat r e.1; (y.1, e.2 ||| y.2)
  let bit := fun (x : Bool) => ((if x then 1 else 0 : W32), (0 : Flags))
  let p := fun (x : W32) => x.getLsbD 0
  match Stg.op w with
  | 0x00 => if isInt t then (fitT t sat (ival t a + ival t b), 0) else fl (addV (m == 2) (fval t a) (fval t b))
  | 0x01 => if isInt t then (fitT t sat (ival t a - ival t b), 0) else fl (addV (m == 2) (fval t a) (vneg (fval t b)))
  | 0x02 => if isInt t then (fitT t sat (ival t a * ival t b), 0) else fl (mulV (fval t a) (fval t b))
  | 0x03 => (BitVec.ofInt 32 (ival t a * ival t b / 2 ^ 32), 0)
  | 0x04 => fl (fmaV (m == 2) (fval t a) (fval t b) (fval t c))
  | 0x05 => fl (fmaV (m == 2) (fval t a) (fval t b) (vneg (fval t c)))
  | 0x06 => fl (fmaV (m == 2) (fval t a) (fval t b) (fval t c) true)
  | 0x07 => fl (fmaV (m == 2) (fval t a) (fval t b) (vneg (fval t c)) true)
  | 0x08 =>
    if isInt t then (fitT t sat (-(ival t a)), 0)
    else
      let F := typeFmt t
      if isNan (fval t a) then (BitVec.ofNat 32 F.canon, nvOf [fval t a])
      else (BitVec.ofNat 32 ((a.toNat % 2 ^ F.width + 2 ^ (F.width - 1)) % 2 ^ F.width), 0)
  | 0x09 =>
    if isInt t then (fitT t sat (ival t a).natAbs, 0)
    else
      let F := typeFmt t
      if isNan (fval t a) then (BitVec.ofNat 32 F.canon, nvOf [fval t a]) else (BitVec.ofNat 32 (a.toNat % 2 ^ (F.width - 1)), 0)
  | 0x0A =>
    if isInt t then (if ival t a ≤ ival t b then a else b, 0)
    else let y := fminmax (typeFmt t) false a.toNat b.toNat; (BitVec.ofNat 32 y.1, y.2)
  | 0x0B =>
    if isInt t then (if ival t a ≤ ival t b then b else a, 0)
    else let y := fminmax (typeFmt t) true a.toNat b.toNat; (BitVec.ofNat 32 y.1, y.2)
  | 0x10 => (a &&& b, 0)
  | 0x11 => (a ||| b, 0)
  | 0x12 => (a ^^^ b, 0)
  | 0x13 => (~~~a, 0)
  | 0x14 => (a &&& ~~~b, 0)
  | 0x15 => (a <<< n, 0)
  | 0x16 => (a >>> n, 0)
  | 0x17 => (a.sshiftRight n, 0)
  | 0x18 => (a.rotateLeft n, 0)
  | 0x19 => (BitVec.ofNat 32 (pop32 a 32), 0)
  | 0x1A => (BitVec.ofNat 32 (if a = 0 then 32 else 31 - Nat.log2 a.toNat), 0)
  | 0x1B => (a.reverse, 0)
  | 0x1C => ((clmul b a.toNat 32 0).setWidth 32, 0)
  | 0x1D => (((clmul b a.toNat 32 0) >>> 32).setWidth 32, 0)
  | 0x20 =>
    let k := Stg.mod w
    if isInt t then
      let x := ival t a; let y := ival t b
      bit (match k with | 0 => x == y | 1 => x != y | 2 => x < y | 3 => x ≤ y | 4 => x > y | _ => x ≥ y)
    else let y := fcmp k (fval t a) (fval t b); ((if y.1 then 1 else 0), y.2)
  | 0x21 => (if p a then b else c, 0)
  | 0x22 => bit (p a && p b)
  | 0x23 => bit (p a || p b)
  | 0x24 => bit (p a != p b)
  | 0x25 => bit (!(p a))
  | 0x26 => (a, 0)
  | 0x38 => let e := divV (fval 3 a) (fval 3 b); let y := roundT 3 m sat r e.1; (y.1, e.2 ||| y.2)
  | 0x51 => vmxeV (Stg.fmt w) (Stg.mod w + 3) m sat r a
  | op =>
    if 0x30 ≤ op && op ≤ 0x37 then let e := specialV op (fval 3 a); let y := roundT 3 m sat r e.1; (y.1, e.2 ||| y.2)
    else vcvtV (op % 16) (Stg.fmt w) m sat r a

/-- Index fields of a slot's constants (R227). -/
def lvIndex (sl : Slot) (p : Nat) : Nat := sl.k0.toNat / 2 ^ (8 * p) % 256
/-- LVD. -/
def lvDst (sl : Slot) : Nat := sl.k0.toNat / 2 ^ 24
/-- PFS. -/
def pfSrc (sl : Slot) : Nat := sl.k1.toNat / 2 ^ 16 % 128
/-- PFD. -/
def pfDst (sl : Slot) : Nat := sl.k1.toNat / 2 ^ 24 % 128

/-- Live value `i` of a thread (R232). -/
def lvGet (c : Core) (tag i : Nat) : W32 := BitVec.ofNat 32 (memNat c.lv (4 * (256 * tag + i)) 4)
/-- Writes a live value. -/
def lvSet (c : Core) (tag i : Nat) (v : W32) : Core := { c with lv := memWrite c.lv (4 * (256 * tag + i)) (leBytes 4 v.toNat) }
/-- Predicate entry `i` of a thread. -/
def pfGet (c : Core) (tag i : Nat) : Bool := memGet c.pfile (128 * tag + i) != 0
/-- Writes a predicate entry. -/
def pfSet (c : Core) (tag i : Nat) (v : Bool) : Core := { c with pfile := memPut c.pfile (128 * tag + i) (if v then 1 else 0) }

end Sys2Proof.Machine
end

