-- ==== Sys2Proof/Machine/VectorElement.lean ====
section
/-! DEFINITION. The vector element: a slot's firing through its stages (R203, R224 to R230, R251), run operations (R254,
R259 to R263), accumulating slots (R71, R216, R231). -/

namespace Sys2Proof.Machine

/-- One lane of a firing: tag, position, token inputs by number, whether it still acts, prev, result. -/
structure Work where
  tag : Nat
  pos : Nat
  ins : List (Nat × Lane)
  act : Bool
  prev : W32
  res : Lane
  deriving DecidableEq, Repr

/-- A slot's firing as it passes the stages: the core (live values, predicates), LFSR, flags, lanes. -/
structure Run where
  core : Core
  lfsr : Half
  fl : Flags
  lanes : List Work

/-- A fired set with its tags in ascending order when it is of ordering tokens alone (R199). -/
def normFire (f : Fire) : Fire :=
  if f.toks.all fun t => t.kind == .ordering then { f with toks := f.toks.map fun t => t.cut (sortTags t.tags) } else f

/-- The lanes of a firing under the slot's null policy (R203, R204): `ins` the inputs in use. -/
def startLanes (sl : Slot) (ins : List Nat) (ident : Nat → W32) (f : Fire) : List Work :=
  let tags := match f.toks with | t :: _ => t.tags | [] => []
  (List.range tags.length).map fun i =>
    let tag := nthD tags i 0
    let vs := (ins.zip f.toks).map fun e => (e.1, nthD e.2.lanes i ⟨0, true⟩)
    let isNull := vs.any fun v => v.2.null
    let in0 := match vs with | v :: _ => v.2.v | [] => 0
    let vs' := vs.map fun v => if v.2.null then (v.1, (⟨ident v.1, false⟩ : Lane)) else v
    if isNull && sl.nul ≠ 2 then
      { tag := tag, pos := i, ins := vs, act := false, prev := 0, res := ⟨if sl.nul = 1 then in0 else 0, true⟩ }
    else { tag := tag, pos := i, ins := vs', act := true, prev := 0, res := ⟨0, false⟩ }

/-- Source at position `p` of stage `w` in a lane (R225). -/
def source (c : Core) (sl : Slot) (w : W32) (l : Work) (p : Nat) : W32 :=
  match Stg.src w p with
  | 3 => l.prev
  | 4 => sl.k0
  | 5 => sl.k1
  | 6 => lvGet c l.tag (lvIndex sl p)
  | 7 => if pfGet c l.tag (pfSrc sl) then 1 else 0
  | j => ((l.ins.find? fun e => e.1 == j).map fun e => e.2.v).getD 0

/-- Writes a stage's result for one lane (R226, R230). -/
def deliver (c : Core) (sl : Slot) (w : W32) (l : Work) (v : W32) : Core × Work :=
  let c := if Stg.dst w = 2 || Stg.dst w = 4 then lvSet c l.tag (lvDst sl) v else c
  let c := if Stg.dst w = 3 then pfSet c l.tag (pfDst sl) (v.getLsbD 0) else c
  (c, { l with prev := v, res := if Stg.outs w then ⟨v, false⟩ else l.res })

/-- The LFSR value for a rounding and the LFSR after it: it steps under SR only (R55). -/
def takeR (w : W32) (lfsr : Half) : Nat × Half :=
  if readsRnd w && Stg.rnd w == 5 then (lfsr.toNat, lfsrStep lfsr) else (0, lfsr)

/-- A lane operation over the lanes in order (R230). -/
def laneStage (sl : Slot) (w : W32) : List Work → Run → Run
  | [], x => x
  | l :: r, x =>
    if !l.act then laneStage sl w r { x with lanes := x.lanes ++ [l] }
    else
      let (rv, lf) := takeR w x.lfsr
      let s := source x.core sl w l
      let (v, f) := laneOp w rv (s 0) (s 1) (s 2)
      let (c, l') := deliver x.core sl w l v
      laneStage sl w r { core := c, lfsr := lf, fl := x.fl ||| f, lanes := x.lanes ++ [l'] }

/-- One combination of `vscan` and `vred` (R260). -/
def combine (w : W32) (r : Nat) (acc x : W32) : W32 × Flags :=
  let t := Stg.ty w
  match Stg.mod w with
  | 0 => if isInt t then (fitT t (Stg.sat w) (ival t acc + ival t x), 0)
         else let e := addV (Stg.rnd w == 2) (fval t acc) (fval t x)
              let y := roundT t (Stg.rnd w) (Stg.sat w) r e.1; (y.1, e.2 ||| y.2)
  | k =>
    if isInt t then (if (ival t acc ≤ ival t x) == (k == 1) then acc else x, 0)
    else let y := fminmax (typeFmt t) (k == 2) acc.toNat x.toNat; (BitVec.ofNat 32 y.1, y.2)

/-- The fold of R260 over the acting lanes in ascending tag order: value by tag, LFSR, flags, last value. -/
def fold (w : W32) : List (Nat × W32) → W32 → Half → Flags → List (Nat × W32) → List (Nat × W32) × Half × Flags × W32
  | [], acc, lf, fl, out => (out, lf, fl, acc)
  | (tag, x) :: r, acc, lf, fl, out =>
    let (rv, lf) := takeR w lf
    let (v, f) := combine w rv acc x
    fold w r v lf (fl ||| f) (out ++ [(tag, v)])

/-- Insertion by tag. -/
def insertBy (a : Nat × W32) : List (Nat × W32) → List (Nat × W32)
  | [] => [a]
  | b :: r => if a.1 ≤ b.1 then a :: b :: r else b :: insertBy a r

/-- floor(log2) of a finite non-zero magnitude. -/
def magLog : Val → Option Int
  | .fin _ m e _ => if m = 0 then none else some (Nat.log2 m + e)
  | _ => none

/-- The scale of a block of values (R52) for element format `f`. -/
def mxScale (f : Nat) (vs : List Val) : Nat :=
  let emax : Int := match f with | 3 => 8 | 4 => 15 | 5 => 4 | _ => 2
  if vs.any fun v => match v with | .fin _ _ _ _ => false | _ => true then 255
  else
    match vs.filterMap magLog with
    | [] => 127
    | a :: r => (clamp (r.foldl max a - emax + 127) 0 254).toNat

/-- One element of a block (R52, R254). -/
def mxElem (f mode s r : Nat) (v : Val) : Nat × Flags :=
  match v with
  | .fin n m e st =>
    if s = 255 then (0, 0)
    else
      let y := roundTo (ffmt f) mode true r (.fin n m (e + 127 - s) st)
      (y.1, if y.2 &&& fOF ≠ 0 then fNX else y.2)
  | _ => (0, 0)

/-- The elements of a block over the acting lanes in lane order. -/
def mxLanes (w : W32) (f s : Nat) : List (Nat × Val) → Half → Flags → List (Nat × W32) → List (Nat × W32) × Half × Flags
  | [], lf, fl, out => (out, lf, fl)
  | (tag, v) :: r, lf, fl, out =>
    let (rv, lf) := takeR w lf
    let (e, g) := mxElem f (Stg.rnd w) s rv v
    mxLanes w f s r lf (fl ||| g) (out ++ [(tag, BitVec.ofNat 32 (e + 256 * s))])

/-- Writes a run operation's results; a lane without one becomes null and stops (R259). -/
def deliverAll (sl : Slot) (w : W32) (out : List (Nat × W32)) : List Work → Core → List Work → Core × List Work
  | [], c, done => (c, done)
  | l :: r, c, done =>
    if !l.act then deliverAll sl w out r c (done ++ [l])
    else
      match out.find? fun e => e.1 == l.tag with
      | some e => let (c, l') := deliver c sl w l e.2; deliverAll sl w out r c (done ++ [l'])
      | none => deliverAll sl w out r c (done ++ [{ l with act := false, res := ⟨0, true⟩ }])

/-- A run operation's stage (R254, R259 to R263). -/
def runStage (sl : Slot) (w : W32) (x : Run) : Run :=
  let act := x.lanes.filter (·.act)
  let av := fun (l : Work) => source x.core sl w l 0
  let fin := fun (out : List (Nat × W32)) (lf : Half) (fl : Flags) =>
    let (c, ls) := deliverAll sl w out x.lanes x.core []
    ({ core := c, lfsr := lf, fl := x.fl ||| fl, lanes := ls } : Run)
  match Stg.op w with
  | 0x50 =>
    let t := Stg.fmt w
    let f := Stg.mod w + 3
    let vs := act.map fun l => (l.tag, decodeF (ffmt t) (av l).toNat)
    let s := mxScale f (vs.map (·.2))
    let (out, lf, fl) := mxLanes w f s vs x.lfsr (nvOf (vs.map (·.2))) []
    fin out lf fl
  | 0x62 =>
    let out := act.filterMap fun l =>
      let p := (source x.core sl w l 1).toNat % 32
      (act.find? fun k => k.pos == p).map fun k => (l.tag, av k)
    fin out x.lfsr 0
  | 0x63 =>
    let vs := (act.map fun l => (l.tag, av l)).foldr insertBy []
    fin (act.filterMap fun l => vs.head?.map fun e => (l.tag, e.2)) x.lfsr 0
  | 0x64 => fin (act.map fun l => (l.tag, BitVec.ofNat 32 (l.tag + 4096 * l.pos))) x.lfsr 0
  | op =>
    match (act.map fun l => (l.tag, av l)).foldr insertBy [] with
    | [] => fin [] x.lfsr 0
    | a :: r =>
      let (out, lf, fl, last) := fold w r a.2 x.lfsr 0 [a]
      fin (if op == 0x60 then out else act.map fun l => (l.tag, last)) lf fl

/-- The opcode acts across the lanes of a run. -/
def isRunOp (op : Nat) : Bool := op == 0x50 || op ≥ 0x60

/-- The stages in order (R230). -/
def stages (sl : Slot) : List W32 → Run → Run
  | [], x => x
  | w :: r, x =>
    stages sl r (if isRunOp (Stg.op w) then runStage sl w x else laneStage sl w x.lanes { x with lanes := [] })

/-- A slot's firing on a core (R230): lanes of the result, the core with live values, predicates and LFSR written. -/
def fireSlot (c : Core) (x y n : Nat) (f : Fire) : Core × Flags × List Lane :=
  let u := siteAt c x y
  let sl := u.slot n
  let ls := startLanes sl (inputsOf false sl) (fun j => (inputIdentity sl.stages j).getD 0) f
  let r := stages sl sl.stages { core := c, lfsr := sl.lfsr, fl := 0, lanes := ls }
  let u := siteAt r.core x y
  (setSite r.core x y { u with slots := mapSet u.slots n { sl with lfsr := r.lfsr } }, r.fl, r.lanes.map (·.res))

/-- VE_SLOT_FIRE at site (x, y): the slot that R205 chooses fires on its first matched set (R224, R230). The flags are
raised before the tokens are counted as consumed (R67). -/
def execVeSlotFire (x y : Nat) (s : State) : Host.Outcome State Fault Refusal :=
  if !(x < 8 && y < 6 && (x + y) % 2 == 0) then .fault .noSuchUnit
  else .next (
    let c := cur s
    let u := siteAt c x y
    match nextSlot c (.site x y) with
    | none => s
    | some n =>
      let sl := u.slot n
      match takeReady false u n with
      | none => s
      | some (f, u1) =>
        let f := normFire f
        let c := setSite c x y (noteChoice u1 (readySlots c (.site x y)) n)
        let (c, fl, lanes) := fireSlot c x y n f
        let makes := sl.stages.any Stg.outs
        let place := match f.toks with | t :: _ => t.place | [] => 0
        let c := census (raisePlace c u.place fl) place ((if makes then 1 else 0) - f.toks.length)
        if makes then emitTok (setCur s c) s.core (.site x y) n (resultTok f lanes) else setCur s c)

-- accumulating slots ----------------------------------------------------------------------------------------------

/-- The accumulator of slot `n` for a round, empty when no run has been taken. -/
def accOf (u : FUnit) (n : Nat) (t : Tok) : Acc :=
  (u.accs.find? fun a => a.slot == n && a.round == t.round).getD
    { slot := n, round := t.round, frame := 0, ctx := t.ctx, place := t.place, vals := [], count := 0 }
/-- Sets an accumulator. -/
def setAcc (u : FUnit) (a : Acc) : FUnit :=
  { u with accs := (u.accs.filter fun b => !(b.slot == a.slot && b.round == a.round)) ++ [a] }
/-- Removes an accumulator. -/
def dropAcc (u : FUnit) (n : Nat) (r : BitVec 8) : FUnit :=
  { u with accs := u.accs.filter fun b => !(b.slot == n && b.round == r) }

/-- The values of a taken token that the null policy admits (R203, R216). -/
def admitted (sl : Slot) (t : Tok) : List W32 :=
  t.lanes.filterMap fun l => if !l.null then some l.v else if sl.nul = 2 then identityAt sl.word0 0 else none

/-- The released value of an accumulator (R71, R231): value, flags, the LFSR after. -/
def accValue (sl : Slot) (vs : List W32) : W32 × Flags × Half :=
  let w := sl.word0
  let t := Stg.ty w
  match Stg.op w with
  | 0x00 =>
    if isInt t then (fitT t (Stg.sat w) ((vs.map (ival t)).sum), 0, sl.lfsr)
    else
      let (r, lf) := takeR w sl.lfsr
      let e := match vs.map (fval t) with
        | [] => (ofInt 0, (0 : Flags))
        | v :: q => if (v :: q).any isNan then (.nan false, 0)
                    else q.foldl (fun a x => let e := addV (Stg.rnd w == 2) a.1 x; (e.1, a.2 ||| e.2)) (v, 0)
      let y := roundT t (Stg.rnd w) (Stg.sat w) r e.1
      (y.1, e.2 ||| y.2, lf)
  | op =>
    match vs with
    | [] => (0, 0, sl.lfsr)
    | v :: q => (q.foldl (fun a x => (laneOp w 0 a x 0).1) (if op == 0x0A || op == 0x0B then (laneOp w 0 v v 0).1 else v), 0, sl.lfsr)

/-- Flags that admitting values raises: those of minimum and maximum, and a signalling NaN of a sum (R61, R63, R67). -/
def admitFlags (w : W32) (vs : List W32) : Flags :=
  if isInt (Stg.ty w) then 0 else nvOf (vs.map (fval (Stg.ty w)))

/-- A control token at the side input holds back the tokens of its port for its slot (R251). -/
def heldByControl (u : FUnit) (q : Waiting) : Bool :=
  u.side.any fun e => (ctlWord e.2).toNat % 8 == q.slot && (u.slot q.slot).inPort q.inp == e.1

/-- ACC_TAKE: accumulating slot takes the token that waits at index `idx` of site (x, y) (R216, R231), unless a control token
that arrived ahead of it has still to be applied (R251). -/
def execAccTake (x y idx : Nat) (s : State) : Host.Outcome State Fault Refusal :=
  if !(x < 8 && y < 6) then .fault .noSuchUnit
  else .next (
    let c := cur s
    let u := siteAt c x y
    match u.unitq[idx]? with
    | none => s
    | some q =>
      let sl := u.slot q.slot
      let first := findIdx u.unitq fun e => e.slot == q.slot && e.inp == q.inp
      if !sl.acc || !q.tok.isData || first != some idx || u.saved || heldByControl u q then s
      else
        let a := accOf u q.slot q.tok
        let vs := admitted sl q.tok
        let u := setAcc { u with unitq := dropNth u.unitq idx } { a with vals := a.vals ++ vs, res := none }
        let c := raisePlace (setSite c x y u) u.place (admitFlags sl.word0 vs)
        setCur s (census c q.tok.place (-1)))

/-- Releases the accumulator of slot `n` for round `r` (R216): a one-lane run through the local queue. A sum that was rounded at the
region's phase end leaves as it is, and raises nothing again (R67). -/
def releaseAcc (s : State) (k x y n : Nat) (r : BitVec 8) (ctx place : Nat) : State :=
  let c := coreAt s k
  let u := siteAt c x y
  let sl := u.slot n
  let vs := match u.accs.find? fun a => a.slot == n && a.round == r with | some a => a.vals | none => []
  let settled := (u.accs.find? fun a => a.slot == n && a.round == r).bind (·.res)
  let (v, fl, lf) := match settled with | some v => (v, 0, sl.lfsr) | none => accValue sl vs
  let lane : Lane := if vs.isEmpty then ⟨0, true⟩ else ⟨v, false⟩
  let u := dropAcc { u with slots := mapSet u.slots n { sl with lfsr := if vs.isEmpty then sl.lfsr else lf } } n r
  let c := raisePlace (setSite c x y u) u.place (if vs.isEmpty then 0 else fl)
  let t : Tok := { bareTok .run n r ctx place with tags := [0], lanes := [lane] }
  emitTok (setCore s k (census c place 1)) k (.site x y) n t

end Sys2Proof.Machine
end

