-- ==== Sys2Proof/Machine/Tokens.lean ====
section
/-! DEFINITION. Switch words (R209 to R213), links (R196, R197, R222), the arrival of tokens at slots (R202, R206, R283),
round markers and stateful nodes (R215 to R218, R274), stop tokens (R217), control tokens (R250 to R252). -/

namespace Sys2Proof.Machine

/-- Every link port and the local queue can be read: no wavefront or pre-emption marker stands on channel `ch` (R44, R460). -/
def chanOpen (u : FUnit) (ch : Nat) : Bool :=
  !u.saved && !(u.marks.any fun m => m.chan == ch && (m.kind == .wavefront || m.kind == .preempt))

/-- The region and source that a `sw.src` word of the unit's placement takes from. -/
def srcOf (c : Core) (u : FUnit) (k : Nat) : Option (Nat × Source) :=
  (regionOfPlace c u.place).bind fun r => (sourceAt c r k).bind fun q =>
    match mapGet c.regions r with
    | some g => if g.cfg.place == u.place then some (r, q) else none
    | none => none

/-- The side of the site at which source `k` of its placement lies: the port on which its tokens arrive (R202, R213). -/
def sourceSide (c : Core) (u : FUnit) (k : Nat) : Nat :=
  match srcOf c u k with
  | some (r, q) => (match mapGet c.regions r with | some g => (edgeSite g.cfg q.ep).2.2 | none => 4)
  | none => 4

/-- The first token of input queue `p` that a word of slot `n` may meet: the head of a link; at port local each slot's
results stand in an order of their own (R202, R205). -/
def FUnit.headFor (u : FUnit) (p n : Nat) : Option Tok :=
  if p = 4 then (u.queue 4).find? fun t => t.slot == n else (u.queue p).head?
/-- Input queue `p` without that token. -/
def FUnit.dropSlot (u : FUnit) (p n : Nat) : FUnit :=
  if p = 4 then match findIdx (u.queue 4) fun t => t.slot == n with
    | some i => u.setQueue 4 (dropNth (u.queue 4) i)
    | none => u
  else u.setQueue p ((u.queue p).drop 1)

/-- The token that word `w` of slot `n` would move, with its channel: port 0 to 3, local 4, source 16 + k. The tokens of a
source whose number no `sw.src` word names stay in the source, and nothing faults (log entry 71). -/
def headOf (c : Core) (u : FUnit) (n : Nat) (w : Instr) (i : Nat) : Option (Nat × Tok) :=
  match wordSource w with
  | some k =>
    match srcOf c u k with
    | some (_, q) => if chanOpen u (16 + k) then q.q.head?.bind fun t => if t.isMark then none else some (16 + k, t) else none
    | none => none
  | none =>
    if !chanOpen u i then none
    else (u.headFor i n).bind fun t => if t.isMark || t.slot ≠ n then none else some (i, t)

/-- Contender index of a channel: 0 to 4 the ports, 5 + k source k. R205 takes input ports as contenders and gives a source no
number among them: that source k stands behind them at 5 + k is the model's choice (log entry 100). -/
def contender (ch : Nat) : Nat := if ch < 16 then ch else ch - 11
/-- The index under which the copies of the first token of slot `n` on a channel are noted: each slot's results stand in an
order of their own at port local. -/
def sentKey (ch n : Nat) : Nat := if ch = 4 then 16 + n else contender ch

/-- Null lanes of a run under `sw.null` (R203, R209). -/
def nullLanes (pol : Nat) (ident : W32) (t : Tok) : Tok :=
  { t with lanes := t.lanes.map fun l =>
      if !l.null then l else if pol = 0 then ⟨0, true⟩ else if pol = 1 then l else ⟨ident, false⟩ }

/-- The identity that `sw.null` from port `i` to port `o`, next slot `n`, takes at site (x, y): that of the receiving
unit's first stage that reads the receiving input (R209). -/
def receiverIdentity (c : Core) (x y i o n : Nat) : Option W32 :=
  let u := siteAt c x y
  if o = 4 then (localInput u n i).bind fun k => slotIdentity (u.slot n) k
  else
    (cfgOfPlace c u.place).bind fun g =>
      match linkDest g x y o with
      | .site a b p => (localInput (siteAt c a b) n p).bind fun k => slotIdentity ((siteAt c a b).slot n) k
      | .mn a => (nodeRoute (unitAt c (.mn a)) n).bind fun r => slotIdentity ((unitAt c (.mn a)).slot r.1) r.2
      | _ => none

/-- The lanes of a token that go to the true port (R210): non-null with the tested bit set. -/
def steerTrue (b : Nat) (t : Tok) : List Nat :=
  (t.tags.zip t.lanes).filterMap fun e => if !e.2.null && e.2.v.getLsbD b then some e.1 else none

/-- One part of a divided run (R210). -/
def steerPart (t : Tok) (tags : List Nat) : Tok :=
  if tags.length = t.tags.length then t
  else { t.cut (sortTags tags) with kind := runKind (sortTags tags) }

/-- What a word makes of a token (R209 to R213): copies with their ports, and whether a uniformity record is due. -/
def wordActs (n : Nat) (w : Instr) (ident : W32) (i : Nat) (t : Tok) : List (Nat × Tok) × Bool :=
  match w with
  | .swGate _ o b k => ([(o.toNat, { t with slot := k.toNat, frame := if i = b.toNat then t.frame + 1 else t.frame })], false)
  | .swSteer _ tp uu fp l =>
    if !t.isRun then ([(tp.toNat, t), (fp.toNat, t)], false)
    else
      let yes := steerTrue l.toNat t
      let no := t.tags.filter fun a => !yes.contains a
      let liveNo := (t.tags.zip t.lanes).any fun e => !e.2.null && !e.2.v.getLsbD l.toNat
      let bad := uu == 1 && !yes.isEmpty && liveNo
      if no.isEmpty then ([(tp.toNat, t)], bad)
      else if yes.isEmpty then ([(fp.toNat, t)], bad)
      else ([(tp.toNat, steerPart t yes), (fp.toNat, steerPart t no)], bad)
  | .swNull _ o p k => ([(o.toNat, { (if t.isRun then nullLanes p.toNat ident t else t) with slot := k.toNat })], false)
  | .swSink _ => ([], false)
  | .swCtl _ => ([(5, t)], false)
  | w => ((wordOuts n w).map fun o => (o.1, { t with slot := o.2 }), false)

/-- The place a token goes to is free: an output port's register, the slot's input register with an entry of the matching
store, the side input; a token that finds no input faults there and needs none (R197, R202, R206, R222). A control token goes
to the side input behind the tokens of its port that its slot has still to take (R251). -/
def portFree (u : FUnit) (i : Nat) (o : Nat × Tok) : Bool :=
  match o.1 with
  | 4 => match localInput u o.2.slot i with
         | some k => !(u.unitq.any fun q => q.slot == o.2.slot && q.inp == k) && storeTakes false u o.2.slot k o.2
         | none => true
  | 5 =>
    let n := (ctlWord o.2).toNat % 8
    match localInput u n i with
    | some k => o.2.kind != .control || !(u.unitq.any fun q => q.slot == n && q.inp == k)
    | none => true
  | p => (mapGet u.out p).isNone

/-- A round marker of channel `ch` waits to leave by output port `p` for the markers of the port's other inputs: no later
token of the channel may leave by that port (R215). -/
def markerWaits (u : FUnit) (n ch p : Nat) : Bool :=
  let chan := if ch = 4 then 8 + n else ch
  let cons := if p = 4 then none else some p
  match cons with
  | some k => u.marks.any fun m => m.kind == .marker && m.chan == chan && m.cons == k
  | none => false

/-- The inputs that contend for output port `p`, each with priority (a gate's back input wins, R211) and losses (R205): those
whose first token has still to go there and can. The contenders are input ports, so no slot's PRI counts (log entry 90). -/
def contenders (c : Core) (u : FUnit) (p : Nat) : List (Nat × Nat × Nat) :=
  let losses := mapGetD u.arb p []
  u.words.flatMap fun e =>
    let ins := match wordSource e.2 with | some _ => [0] | none => wordIns e.2
    ins.filterMap fun i =>
      (headOf c u e.1 e.2 i).bind fun h =>
        let outs := (wordActs e.1 e.2 0 i h.2).1
        let side := if h.1 < 16 then h.1 else sourceSide c u (h.1 - 16)
        if (outs.any fun o => o.1 == p && portFree u side o) && !(u.sent.contains (sentKey h.1 e.1, p)) && !markerWaits u e.1 h.1 p then
          let back := match e.2 with | .swGate _ _ b _ => i == b.toNat | _ => false
          some (contender h.1, if back then 1 else 0, nthD losses (1 + contender h.1) 0)
        else none

/-- Output port `p` chooses contender `ci` (R205). -/
def mayMove (c : Core) (u : FUnit) (ci p : Nat) : Bool :=
  choose 13 (nthD (mapGetD u.arb p [12]) 0 12) (contenders c u p) == some ci

/-- The loss counts of output port `p` after a token of contender `ci` left by it. -/
def noteSent (c : Core) (u : FUnit) (ci p : Nat) : List Nat :=
  let old := mapGetD u.arb p []
  let cs := contenders c u p
  ci :: (List.range 13).map fun i =>
    if i = ci then 0 else if cs.any (fun k => k.1 == i) then nthD old (1 + i) 0 + 1 else nthD old (1 + i) 0

/-- Puts one copy where it goes; a copy that a port cannot take is a route fault (R202, R222). A control copy that a fork sends
to local stands at the slot's input, and nothing takes it (log entry 75). -/
def placeCopy (s : State) (k x y i : Nat) (o : Nat × Tok) : State :=
  let c := coreAt s k
  let u := siteAt c x y
  match o.1 with
  | 4 =>
    match localInput u o.2.slot i with
    | some j => setCore s k (setSite c x y { u with unitq := u.unitq ++ [{ slot := o.2.slot, inp := j, tok := o.2 }] })
    | none => routeFault s k (.site x y) o.2
  | 5 =>
    if o.2.kind == .control then setCore s k (setSite c x y { u with side := u.side ++ [(i, o.2)] })
    else routeFault s k (.site x y) o.2
  | p => setCore s k (setSite c x y { u with out := mapSet u.out p o.2 })

/-- Where a token stands on a channel: site, input port, slot field. -/
abbrev Stand := Nat × Nat × Nat × Nat

/-- Where a token that leaves site (x, y) by port `o.1` with slot field `o.2` stands next: at a neighbouring site, or back from
a tile port (R348). -/
def leaveTo (c : Core) (g : Config) (x y : Nat) (o : Nat × Nat) : List Stand :=
  if o.1 ≥ 4 then [] else match linkDest g x y o.1 with
    | .site a b q => [(a, b, q, o.2)]
    | .me b => if ((siteAt c 7 b).wordFor o.2 1).isSome then [(7, b, 1, o.2)] else []
    | _ => []

/-- The edge port at which it leaves the region. -/
def leaveEdge (g : Config) (x y : Nat) (o : Nat × Nat) : Option Nat :=
  if o.1 ≥ 4 then none else match linkDest g x y o.1 with
    | .edge m => some m
    | .sp a => some (edgePort g a y o.1)
    | _ => none

/-- The word that takes a token from where it stands, with the slot it is listed in. -/
def standWord (c : Core) (v : Stand) : Option Instr := (siteAt c v.1 v.2.1).wordFor v.2.2.2 v.2.2.1

/-- Every stand that a channel reaches from those in `work` without passing a word that `stop` picks: `fuel` bounds the
stands, of which a core has 1,536 (48 sites, 4 ports, 8 slot fields). -/
def flow (c : Core) (g : Config) (stop : Instr → Bool) : Nat → List Stand → List Stand → List Stand
  | 0, _, seen => seen
  | _ + 1, [], seen => seen
  | f + 1, v :: work, seen =>
    let next := match standWord c v with
      | some w => if stop w then [] else (wordOuts v.2.2.2 w).flatMap (leaveTo c g v.1 v.2.1)
      | none => []
    let new := next.eraseDups.filter fun p => !seen.contains p
    flow c g stop f (work ++ new) (seen ++ new)

/-- The stands of a channel that leaves site (x, y) by `o`. -/
def flowFrom (c : Core) (g : Config) (stop : Instr → Bool) (x y : Nat) (o : Nat × Nat) : List Stand :=
  let vs := leaveTo c g x y o
  flow c g stop 2000 vs vs

/-- The outputs of the words at some stands that `stop` does not pick, each with its site. -/
def standOuts (c : Core) (stop : Instr → Bool) (vs : List Stand) : List (Nat × Nat × Nat × Nat) :=
  vs.flatMap fun v => match standWord c v with
    | some w => if stop w then [] else (wordOuts v.2.2.2 w).map fun o => (v.1, v.2.1, o)
    | none => []

/-- The `sw.bound` word is outward: its channel reaches an entry with B = 1 and DIR 1 (R212). -/
def boundOut (c : Core) (g : Config) (x y : Nat) (o : Nat × Nat) : Bool :=
  ((x, y, o) :: standOuts c (fun _ => false) (flowFrom c g (fun _ => false) x y o)).any fun z =>
    ((leaveEdge g z.1 z.2.1 z.2.2).bind fun m => epEntry g m true).any epB

/-- The `sw.bound` word at input `i` of slot `n` is inward: a source whose entry has B = 1 reaches it (R212). -/
def boundIn (c : Core) (g : Config) (x y i n : Nat) : Bool :=
  let srcs := g.edges.filter fun e => !epOut e
  c.sites.any fun e => e.2.place == g.place && e.2.words.any fun v =>
    match wordSource v.2 with
    | some k => (srcs[k]?).any epB && ((wordOuts v.1 v.2).any fun o =>
        (flowFrom c g (fun _ => false) (e.1 % 8) (e.1 / 8) o).contains (x, y, i, n))
    | none => false

/-- The slot is an owner node: a `scamo` with dst rel or out+rel (R274). -/
def isOwner (unit : UnitId) (sl : Slot) : Bool :=
  let op := Stg.op sl.word0
  !isNode unit && bits sl.word0 29 3 == 1 && 0x08 ≤ op && op ≤ 0x0F && Stg.dst sl.word0 ≥ 3
/-- The slot is a stateful node (R216, R274). -/
def stateful (unit : UnitId) (sl : Slot) : Bool := sl.en && ((sl.acc && !isNode unit) || isOwner unit sl)

/-- Some word of the unit sends tokens that arrive on port `p` to slot `n` (R202). -/
def feedsPort (u : FUnit) (g : Config) (n p : Nat) : Bool :=
  u.words.any fun e => ((wordOuts e.1 e.2).any fun o => o.1 == 4 && o.2 == n) && match wordSource e.2 with
    | some k => ((g.edges.filter fun e => !epOut e)[k]?).any fun e => (edgeSite g (epPort e)).2.2 == p
    | none => (wordIns e.2).contains p

/-- A slot of site (x, y) with what the loader fixes at placement from the words of the whole macro, held by core `p`: the
identities of its `sw.null` words (R209), the directions of its `sw.bound` words (R212), and whether a stateful node has an
input in use that no word feeds (R216). -/
def fixSlot (p : Core) (g : Config) (x y n : Nat) (sl : Slot) : Slot :=
  { sl with
    unfed := stateful (.site x y) sl && (inputsOf false sl).any fun k => !(feedsPort (siteAt p x y) g n (sl.inPort k))
    idents := sl.words.filterMap fun w => match w with
      | .swNull i o pol k => if pol == 2 then (receiverIdentity p x y i.toNat o.toNat k.toNat).map fun v => (i.toNat, v) else none
      | _ => none
    bounds := sl.words.filterMap fun w => match w with
      | .swBound i o _ k =>
        if boundOut p g x y (o.toNat, k.toNat) then some (i.toNat, 1)
        else if boundIn p g x y i.toNat n then some (i.toNat, 2) else none
      | _ => none }

/-- One switch word of the slot at the locus moves the token at its input `i` (R209): each output port that chooses it takes
its copy, and once every copy has left the token is gone; the census changes with the first. `hold` keeps it waiting, `pre`
acts before it passes. -/
def moveToken (s : State) (w : Instr) (i : Nat) (ident : W32) (hold : Core → Tok → Bool) (pre : State → Tok → State) : State :=
  let k := s.core
  let x := s.locus.x; let y := s.locus.y; let n := s.locus.slot
  let c := cur s
  let u := siteAt c x y
  match headOf c u n w i with
  | none => s
  | some (ch, t) =>
    if !kindOk t w then
      routeFault (setCur s (setSite c x y (u.dropSlot i n))) k (.site x y) t
    else
      let (outs, bad) := wordActs n w ident i t
      let inPort := if ch < 16 then ch else sourceSide c u (ch - 16)
      let ci := contender ch
      let key := sentKey ch n
      let todo := outs.filter fun o => !(u.sent.contains (key, o.1))
      let now := todo.filter fun o => portFree u inPort o && mayMove c u ci o.1
      if hold c t || (now.isEmpty && !todo.isEmpty) then s
      else
        let first := !(u.sent.any fun e => e.1 == key)
        let last := now.length == todo.length
        let arb := now.foldl (fun m o => mapSet m o.1 (noteSent c u ci o.1)) u.arb
        let s := pre s t
        let c := cur s
        let sent := if last then u.sent.filter fun e => e.1 != key else u.sent ++ now.map fun o => (key, o.1)
        let u := { siteAt c x y with arb := arb, sent := sent }
        let c :=
          if !last then setSite c x y u
          else if ch < 16 then setSite c x y (u.dropSlot i n)
          else match srcOf c u (ch - 16) with
            | some (r, _) => setSite (updSource c r (ch - 16) fun q => { q with q := q.q.drop 1 }) x y u
            | none => setSite c x y u
        let c := if first then census c t.place ((outs.length : Int) - 1) else c
        let s := now.foldl (fun s o => placeCopy s k x y inPort o) (setCur s c)
        if bad && first then fabricFault s k (.site x y) n 0x03 false t.base t.tags.length else s

/-- No condition and no act before a token passes. -/
def plain (s : State) (w : Instr) (i : Nat) : State := moveToken s w i 0 (fun _ _ => false) (fun s _ => s)

/-- `sw.route` (R209). -/
def execSwRoute (i o n : BitVec 3) (s : State) : Host.Outcome State Fault Refusal := .next (plain s (.swRoute i o n) i.toNat)
/-- `sw.fork` (R209). -/
def execSwFork (i n : BitVec 3) (m : BitVec 6) (s : State) : Host.Outcome State Fault Refusal :=
  .next (plain s (.swFork i n m) i.toNat)

/-- Of two inputs the one whose token may move: the second first when it wins (R209, R211). -/
def twoInputs (s : State) (w : Instr) (i j : Nat) : State :=
  let a := plain s w j
  if a = s then plain s w i else a

/-- `sw.merge` (R209). -/
def execSwMerge (i o j n : BitVec 3) (s : State) : Host.Outcome State Fault Refusal :=
  .next (twoInputs s (.swMerge i o j n) i.toNat j.toNat)
/-- `sw.gate` (R211). -/
def execSwGate (i o b n : BitVec 3) (s : State) : Host.Outcome State Fault Refusal :=
  .next (twoInputs s (.swGate i o b n) i.toNat b.toNat)
/-- `sw.steer` (R210). -/
def execSwSteer (i t : BitVec 3) (u : BitVec 1) (f : BitVec 3) (l : BitVec 2) (s : State) :
    Host.Outcome State Fault Refusal := .next (plain s (.swSteer i t u f l) i.toNat)

/-- `sw.bound` (R212): outward a release, inward an acquire, for each run or ordering token. -/
def execSwBound (i o sc n : BitVec 3) (s : State) : Host.Outcome State Fault Refusal :=
  .next (
    let w : Instr := .swBound i o sc n
    let dir := mapGetD ((siteAt (cur s) s.locus.x s.locus.y).slot s.locus.slot).bounds i.toNat 0
    let out := dir = 1
    let inw := dir = 2
    moveToken s w i.toNat 0 (fun c t => t.isData && (out || inw) && unperformed c t.tags)
      (fun s t =>
        if !t.isData || sc.toNat ≤ 1 then s
        else if out then releaseBanks s s.core else if inw then acquireBanks s s.core else s))

/-- `sw.null` (R203, R209), under identity with the identity that its slot was given at placement. -/
def execSwNull (i o : BitVec 3) (p : BitVec 2) (n : BitVec 3) (s : State) : Host.Outcome State Fault Refusal :=
  let sl := (siteAt (cur s) s.locus.x s.locus.y).slot s.locus.slot
  .next (moveToken s (.swNull i o p n) i.toNat (mapGetD sl.idents i.toNat 0) (fun _ _ => false) (fun s _ => s))
/-- `sw.sink` (R209). -/
def execSwSink (i : BitVec 3) (s : State) : Host.Outcome State Fault Refusal := .next (plain s (.swSink i) i.toNat)
/-- `sw.src` (R213): passes the tokens of its source. -/
def execSwSrc (o q n : BitVec 3) (s : State) : Host.Outcome State Fault Refusal := .next (plain s (.swSrc o q n) 0)

/-- Tokens of port `p` for slot `n` that have not fired: at its input register, in the store, matched (R251). -/
def pendingFrom (u : FUnit) (n p : Nat) : Bool :=
  match localInput u n p with
  | none => false
  | some k => (u.store.any fun w => w.slot == n && w.inp == k) || u.ready.any fun f => f.slot == n

/-- `sw.ctl` (R209, R251): a control token goes to the side input behind the tokens of its port. -/
def execSwCtl (i : BitVec 3) (s : State) : Host.Outcome State Fault Refusal := .next (plain s (.swCtl i) i.toNat)
/-- `sw.ord` (R209). -/
def execSwOrd (i o n : BitVec 3) (s : State) : Host.Outcome State Fault Refusal := .next (plain s (.swOrd i o n) i.toNat)

-- links -----------------------------------------------------------------------------------------------------------

/-- A token arrives at input port `p` of a site (R197, R202): one that finds no word there is a route fault, unless a
wavefront ahead of it will bring the site other words. -/
def arriveSite (s : State) (k x y p : Nat) (t : Tok) : State :=
  let c := coreAt s k
  let u := siteAt c x y
  let waits := (u.marks.any fun m => m.kind == .wavefront && m.chan == p) || (u.queue p).any fun q => q.kind == .wavefront && q.place == u.place
  match u.wordFor t.slot p with
  | some _ => setCore s k (setSite c x y (u.push p t))
  | none => if t.isMark || waits then setCore s k (setSite c x y (u.push p t)) else routeFault s k (.site x y) t

/-- A token arrives at a memory node from its site (R283). -/
def arriveNode (s : State) (k x : Nat) (t : Tok) : State :=
  let c := coreAt s k
  let u := unitAt c (.mn x)
  let waits := (u.queue 0).any (fun q => q.kind == .wavefront && q.place == u.place) || u.marks.any fun m => m.kind == .wavefront && m.chan == 0
  if t.isMark || waits || ((nodeRoute u t.slot).isSome && t.kind != .control) then setCore s k (setUnit c (.mn x) (u.push 0 t))
  else routeFault s k (.mn x) t

/-- The stream port. -/
def portAt (c : Core) (x : Nat) : Port := mapGetD c.ports x Port.reset
/-- Sets a stream port. -/
def setPort (c : Core) (x : Nat) (p : Port) : Core := { c with ports := mapSet c.ports x p }

/-- Sends token `t` out of edge port `m` of region `r` (R177, R219): none when it cannot leave yet. -/
def sendEdge (s : State) (k r m : Nat) (t : Tok) : Option State :=
  let c := coreAt s k
  let fits := fun q => hasSpace q t || c.saving
  match (mapGet c.regions r).bind fun g => mapGet g.stitches m with
  | none => none
  | some tg =>
    let gone := fun (c : Core) => if t.isMark then c else census c t.place (-1)
    match tg with
    | .exit i =>
      let u := unitAt c (.exit i)
      if t.kind == .wavefront then some s
      else if fits (u.queue 0) then some (setCore s k (setUnit c (.exit i) (u.push 0 t))) else none
    | .nd =>
      if fits c.relay.ndq then some (setCore s k { c with relay := { c.relay with ndq := c.relay.ndq ++ [t] } }) else none
    | .region g ep =>
      match (mapGet c.regions g).bind fun x => sourceOf x ep with
      | none => none
      | some j =>
        if t.kind == .wavefront then some s
        else if t.kind == .preempt then
          some (if preemptMade c g j then s else setCore s k (updSource c g j fun q => { q with q := q.q ++ [t] }))
        else
          match sourceAt c g j with
          | none => none
          | some q =>
            if t.kind == .marker && q.done then some s
            else if q.done || q.marked || !(mayStart c g q) || (c.saving && preemptMade c g j) then none
            else if t.kind == .marker then some (setCore s k (sourceMark c g j false))
            else if fits q.q then some (setCore s k (sourceMake (gone c) g j t)) else none
    | _ => none

/-- Sends the head of an output of a site across its link. In a save a full input records what it cannot accept (R460). Where a
column-7 site without anchor E sends east, a token is a route fault (R348); that a marker or a wavefront, which no census counts,
goes there without a fault is the model's choice (log entry 101). -/
def sendSite (s : State) (k x y p : Nat) : State :=
  let c := coreAt s k
  let fits := fun q t => hasSpace q t || c.saving
  let u := siteAt c x y
  match mapGet u.out p, (mapGet u.out p).bind fun t => cfgOfPlace c t.place with
  | some t, some g =>
    let c' := setSite c x y { u with out := mapDel u.out p }
    let s' := setCore s k c'
    match linkDest g x y p with
    | .site a b q => if fits ((siteAt c a b).queue q) t then arriveSite s' k a b q t else s
    | .mn a => if fits ((unitAt c (.mn a)).queue 0) t then arriveNode s' k a t else s
    | .sp a =>
      let pt := portAt c a
      if fits pt.q t then
        setCore s k (setPort c' a { pt with q := pt.q ++ [t] })
      else s
    | .me b =>
      let q := mapGetD c.mx.ports b []
      if fits q t then setCore s k { c' with mx := { c.mx with ports := mapSet c.mx.ports b (q ++ [t]) } } else s
    | .edge m =>
      match regionOfPlace c t.place with
      | none => s
      | some r => (sendEdge s' k r m t).getD s
    | .fault => if t.isMark then s' else routeFault s' k (.site x y) t
  | _, _ => s

/-- The neighbour of core `k` down its chain and whether it may receive: the core of the next chain position (R426). -/
def chainCore (s : State) (k : Nat) (d : Int) : Option Nat :=
  match fabricCohort (coreAt s k) with
  | none => none
  | some h =>
    (s.launches.find? fun l => l.id == h.launch).bind fun l =>
      let i := (findIdx l.cores fun n => n == k).getD 0
      let j := (i : Int) + d
      let p := (h.pos : Int) + d
      if p < 0 ∨ p ≥ h.chain ∨ j < 0 then none else l.cores[j.toNat]?

/-- The core's neighbour downstream runs no cohort of the launch any more: its chain position has started and is gone. -/
def linkGone (s : State) (l : Nat) (m : Nat) : Bool :=
  !(s.launches.any fun x => x.id == l && x.waiting.any fun i => x.cores[i]? == some m)

/-- LINK_TOKEN_SEND: the token at output `port` of a unit crosses its link (R196, R197, R426). -/
def execLinkTokenSend (unit : UnitId) (port : Nat) (s : State) : Host.Outcome State Fault Refusal :=
  if !unitOk unit then .fault .noSuchUnit
  else .next (
    match unit with
    | .site x y => if port < 4 then sendSite s s.core x y port else s
    | .mn x =>
      let c := cur s
      let u := unitAt c unit
      match (u.queue 4).head? with
      | some t =>
        if hasSpace ((siteAt c x 0).queue 0) t || c.saving then
          arriveSite (setCur s (setUnit c unit (u.setQueue 4 ((u.queue 4).drop 1)))) s.core x 0 0 t
        else s
      | none => s
    | .nd =>
      let c := cur s
      match c.relay.linkOut.head?, chainCore s s.core 1 with
      | some t, some m =>
        let same := match fabricCohort c, fabricCohort (coreAt s m) with | some a, some b => a.launch == b.launch | _, _ => false
        let gone := match fabricCohort c with
          | some a => !([(coreAt s m).coh, (coreAt s m).prev].any fun h => match h with | some h => h.launch == a.launch | none => false) &&
              linkGone s a.launch m
          | none => false
        if same && ((coreAt s m).saving || qBeats ((coreAt s m).relay.nuBuf.map (·.tok)) + t.tok.beats ≤ 32) then
          updCore (setCur s { c with relay := { c.relay with linkOut := c.relay.linkOut.drop 1 } }) m fun d =>
            { d with relay := { d.relay with nuBuf := d.relay.nuBuf ++ [t], nuMarked := d.relay.nuMarked || t.tok.kind == .preempt } }
        else if gone then setCur s { c with relay := { c.relay with linkOut := c.relay.linkOut.drop 1 } }
        else s
      | _, _ => s
    | _ => s)

-- arrival at a slot -----------------------------------------------------------------------------------------------

/-- The token at the head of a unit's slot inputs: a site's input register `idx`, a node's link (0) or loop (1) queue. -/
def slotHead (c : Core) (unit : UnitId) (idx : Nat) : Option Waiting :=
  let u := unitAt c unit
  match unit with
  | .mn _ =>
    let ch := if idx = 0 then 0 else 5
    if !(u.marks.any fun m => m.chan == ch && (m.kind == .wavefront || m.kind == .preempt)) && !u.saved then
      (u.queue ch).head?.bind fun t =>
        if t.isMark then none else (nodeRoute u t.slot).map fun r => { slot := r.1, inp := r.2, tok := t }
    else none
  | .site _ _ =>
    u.unitq[idx]?.bind fun q =>
      if findIdx u.unitq (fun e => e.slot == q.slot && e.inp == q.inp) == some idx then some q else none
  | _ => none

/-- The unit without that token. -/
def dropHead (u : FUnit) (unit : UnitId) (idx : Nat) : FUnit :=
  if isNode unit then let ch := if idx = 0 then 0 else 5; u.setQueue ch ((u.queue ch).drop 1)
  else { u with unitq := dropNth u.unitq idx }

/-- TOKEN_MATCH: a token is taken at a slot's input and matched (R206 to R208, R283); a match fault consumes the thread's
tokens at the store and ends the cohort (R222). Its record's base is the thread's tag and its length 1 (log entry 65). -/
def execTokenMatch (unit : UnitId) (idx : Nat) (s : State) : Host.Outcome State Fault Refusal :=
  if !unitOk unit then .fault .noSuchUnit
  else .next (
    let c := cur s
    let u := unitAt c unit
    match slotHead c unit idx with
    | none => s
    | some q =>
      let sl := u.slot q.slot
      if !q.tok.isData || (sl.acc && !isNode unit) || u.saved || heldByControl u q then s
      else
        let u' := dropHead u unit idx
        if isNode unit && !(storeTakes true u' q.slot q.inp q.tok) then s
        else
          let m := matchIn (isNode unit) u' q.slot q.inp q.tok
          let c := census (setUnit c unit m.u) q.tok.place m.delta
          match m.bad with
          | none => setCur s c
          | some a =>
            let (u', gone) := dropThread m.u a q.tok
            let c := gone.foldl (fun c t => census c t.place (-1)) (setUnit c unit u')
            fabricFault (setCur s c) s.core unit q.slot 0x02 true a 1)

-- markers ---------------------------------------------------------------------------------------------------------

/-- The channel of an input in use that no word feeds: no marker ever comes on it (R216). -/
def dryChan : Nat := 99

/-- Channels of a site that feed consumer `cons` (a port 0 to 3, or 8 + n for slot n) by its words (R202, R215); a stateful
slot waits for every input in use (R216). -/
def siteChans (u : FUnit) (cons : Nat) : List Nat :=
  (u.words.flatMap fun e =>
    let outs := wordOuts e.1 e.2
    let hit := outs.any fun o => if cons < 8 then o.1 == cons else o.1 == 4 && o.2 + 8 == cons
    if !hit then []
    else
      match wordSource e.2 with
      | some k => [16 + k]
      | none => (wordIns e.2).map fun i => if i = 4 then 8 + e.1 else i) ++
  (if 8 ≤ cons && (u.slot (cons - 8)).unfed then [dryChan] else [])

/-- The slot whose loop tokens feed input `k` of slot `n` of a node (R282, R283). -/
def loopFeeder (u : FUnit) (n k : Nat) : Option Nat :=
  (u.slots.find? fun e => e.2.en && e.2.loops && nodeRoute u e.2.nxt == some (n, k)).map (·.1)

/-- Channels that feed a consumer of a memory node: the link 0, loop slots 8 + m; consumer 2 is port S. -/
def nodeChans (u : FUnit) (cons : Nat) : List Nat :=
  if cons = 2 then (u.slots.filter fun e => e.2.en && !e.2.loops).map fun e => 8 + e.1
  else (inputsOf true (u.slot (cons - 8))).map fun k =>
    match loopFeeder u (cons - 8) k with | some m => 8 + m | none => 0

/-- Channels of a consumer, each once. -/
def chansOf (isMn : Bool) (u : FUnit) (cons : Nat) : List Nat := (if isMn then nodeChans u cons else siteChans u cons).eraseDups
/-- Consumers of a unit. -/
def consumersOf (isMn : Bool) (u : FUnit) : List Nat :=
  (if isMn then [2] else [0, 1, 2, 3]) ++ ((u.slots.filter fun e => e.2.en).map fun e => 8 + e.1)

/-- A mark arrives on a channel: recorded for every consumer of it (R215); wavefronts and pre-emption markers are recorded
once. -/
def recordMark (isMn : Bool) (u : FUnit) (ch : Nat) (t : Tok) : FUnit :=
  if t.kind == .marker then
    { u with marks := u.marks ++ (((consumersOf isMn u).filter fun k => (chansOf isMn u k).contains ch).map fun k =>
        ({ kind := .marker, chan := ch, cons := k, round := t.round } : Mark)) }
  else { u with marks := u.marks ++ [{ kind := t.kind, chan := ch, cons := 0, round := t.round }] }

/-- The first marker recorded for a consumer on a channel. -/
def firstMark (u : FUnit) (ch cons : Nat) : Option (BitVec 8) :=
  (u.marks.find? fun m => m.kind == .marker && m.chan == ch && m.cons == cons).map (·.round)
/-- The round whose marker has arrived on every channel of a consumer. -/
def roundDue (isMn : Bool) (u : FUnit) (cons : Nat) : Option (BitVec 8) :=
  match chansOf isMn u cons with
  | [] => none
  | ch :: r => (firstMark u ch cons).bind fun v => if r.all fun d => firstMark u d cons == some v then some v else none
/-- Removes the first marker of each channel of a consumer. -/
def takeMarks (isMn : Bool) (u : FUnit) (cons : Nat) : FUnit :=
  { u with marks := (chansOf isMn u cons).foldl (fun ms ch =>
      match findIdx ms fun m => m.kind == .marker && m.chan == ch && m.cons == cons with
      | some i => dropNth ms i
      | none => ms) u.marks }

/-- A parked piece of slot `n` of a memory node whose set is one of `p`: it is still counted (R290). -/
def parkedOf (c : Core) (unit : UnitId) (n : Nat) (p : Fire → Bool) : Bool :=
  c.parked.any fun q => match q.who with | .piece x f => unit == .mn x && f.slot == n && p f | _ => false

/-- Slot `n` holds no token of round `r` that it has still to fire or to finish (R215, R216, R274). -/
def roundDone (c : Core) (unit : UnitId) (n : Nat) (r : BitVec 8) : Bool :=
  let u := unitAt c unit
  !(u.unitq.any fun q => q.slot == n && q.tok.round == r) && !(u.store.any fun q => q.slot == n && q.tok.round == r) &&
  !(u.ready.any fun f => f.slot == n && f.toks.any fun t => t.round == r) &&
  !(c.flights.any fun f => f.unit == unit && f.slot == n && f.fire.toks.any fun t => t.round == r) &&
  !(parkedOf c unit n fun f => f.toks.any fun t => t.round == r)

/-- Releases an owner node's count of a round (R275): a one-lane run that holds it. -/
def releaseOwner (s : State) (k : Nat) (unit : UnitId) (n : Nat) (r : BitVec 8) (ctx place : Nat) : State :=
  let c := coreAt s k
  let u := unitAt c unit
  let a := u.accs.find? fun a => a.slot == n && a.round == r
  let cnt := match a with | some a => a.count | none => 0
  let t : Tok := { bareTok .run n r ctx place with tags := [0], lanes := [⟨BitVec.ofNat 32 cnt, false⟩] }
  emitTok (setCore s k (census (setUnit c unit (dropAcc u n r)) place 1)) k unit n t

/-- Releases the stateful node in slot `n` for a round. -/
def releaseState (s : State) (k : Nat) (unit : UnitId) (n : Nat) (r : BitVec 8) : State :=
  let c := coreAt s k
  let u := unitAt c unit
  let ctx := match fabricCohort c with | some h => h.ctx | none => 0
  match unit with
  | .site x y =>
    if isOwner unit (u.slot n) then releaseOwner s k unit n r ctx u.place
    else if stateful unit (u.slot n) then releaseAcc s k x y n r ctx u.place else s
  | _ => s

/-- The slot's own channel is used: by a word that takes from local at a site, by port S or a loop at a node. -/
def sendsOn (unit : UnitId) (u : FUnit) (n : Nat) : Bool :=
  isNode unit || (u.slot n).words.any fun w => (wordIns w).contains 4

/-- Forwards a due marker of one consumer (R215, R216, R274); a unit that has saved forwards none (R460). -/
def forwardOne (s : State) (k : Nat) (unit : UnitId) (cons : Nat) : State :=
  let c := coreAt s k
  let u := unitAt c unit
  let mn := isNode unit
  match (if u.saved then none else roundDue mn u cons) with
  | none => s
  | some r =>
    let ctx := match fabricCohort c with | some h => h.ctx | none => 0
    let mk := fun n => bareTok .marker n r ctx u.place
    if cons < 8 then
      if mn then setCore s k (setUnit c unit ((takeMarks mn u cons).push 4 (mk 0)))
      else if (mapGet u.out cons).isNone then
        setCore s k (setUnit c unit { takeMarks mn u cons with out := mapSet u.out cons (mk 0) })
      else s
    else
      let n := cons - 8
      if !(roundDone c unit n r) || !(resultSpace c unit n) then s
      else
        let s := releaseState (setCore s k (setUnit c unit (takeMarks mn u cons))) k unit n r
        let c := coreAt s k
        let u := unitAt c unit
        if mn then
          (if (u.slot n).loops then setCore s k (setUnit c unit (u.push 5 (mk n)))
           else setCore s k (setUnit c unit (recordMark mn u (8 + n) (mk n))))
        else if sendsOn unit u n then setCore s k (setUnit c unit (u.push 4 (mk n))) else s

/-- The first mark at port local that no earlier token of its slot stands before. -/
def localMark (q : List Tok) : Option Nat :=
  (List.range q.length).find? fun i =>
    match q[i]? with
    | some t => t.isMark && !((q.take i).any fun z => z.slot == t.slot)
    | none => false

/-- Pops the marker at the head of a channel, if one is there: 0 to 3 links, 4 a site's local queue, 5 a node's loop,
16 + j source j. Behind a wavefront or a pre-emption marker, and at a saved unit, none is taken (R44, R460). -/
def popMark (s : State) (k : Nat) (unit : UnitId) (ch : Nat) : State :=
  let c := coreAt s k
  let u := unitAt c unit
  let mn := isNode unit
  let blocked := !(chanOpen u ch)
  let stale := fun (t : Tok) => t.kind == .wavefront && t.place != u.place
  if blocked || (mn && ch != 0 && ch != 5) then s
  else if ch ≥ 16 then
    match srcOf c u (ch - 16) with
    | some (r, q) =>
      match q.q.head? with
      | some t =>
        if t.isMark && u.words.any (fun w => wordSource w.2 == some (ch - 16)) then
          setCore s k (setUnit (updSource c r (ch - 16) fun x => { x with q := x.q.drop 1 }) unit (recordMark mn u ch t))
        else s
      | none => s
    | none => s
  else
    let i := if !mn && ch = 4 then localMark (u.queue 4) else some 0
    match i.bind fun i => (u.queue ch)[i]? with
    | some t =>
      if !t.isMark then s
      else if stale t then setCore s k (setUnit c unit (u.setQueue ch (dropNth (u.queue ch) (i.getD 0))))
      else
        let u' := u.setQueue ch (dropNth (u.queue ch) (i.getD 0))
        if mn && t.kind == .preempt then setCore s k (setUnit c unit ({ u' with saved := true }.push 4 t))
        else
          let lane := if !mn && ch = 4 then 8 + t.slot else if mn && ch = 5 then 8 + t.slot else ch
          setCore s k (setUnit c unit (recordMark mn u' lane t))
    | none => s

/-- ROUND_MARKER_ARRIVAL: a marker is taken at a channel of a site or memory node, and every consumer whose markers are
complete forwards, stateful nodes after their release (R215, R216, R274). -/
def execRoundMarkerArrival (unit : UnitId) (chan : Nat) (s : State) : Host.Outcome State Fault Refusal :=
  if !unitOk unit then .fault .noSuchUnit
  else .next (
    match unit with
    | .site _ _ => (consumersOf false (unitAt (cur s) unit)).foldl (fun s k => forwardOne s s.core unit k) (popMark s s.core unit chan)
    | .mn _ =>
      let s := (consumersOf true (unitAt (cur s) unit)).foldl (fun s k => forwardOne s s.core unit k) (popMark s s.core unit chan)
      forwardOne s s.core unit 2
    | _ => s)

-- stop tokens -----------------------------------------------------------------------------------------------------

/-- STOP_TOKEN: a stop token is handled at a slot once the runs ahead of it on its input are consumed (R217) and the slot's markers
of earlier rounds have left (R215). A control token
that waits for the slot does not hold it, so it may release under the fields before the patch (log entry 91). -/
def execStopToken (unit : UnitId) (idx : Nat) (s : State) : Host.Outcome State Fault Refusal :=
  if !unitOk unit then .fault .noSuchUnit
  else .next (
    let k := s.core
    let c := cur s
    let u := unitAt c unit
    match slotHead c unit idx with
    | none => s
    | some q =>
      let n := q.slot
      let sl := u.slot n
      let busy := (u.store.any fun w => w.slot == n && w.inp == q.inp) || (u.ready.any fun f => f.slot == n) ||
        (c.flights.any fun f => f.unit == unit && f.slot == n) || parkedOf c unit n fun _ => true
      if q.tok.kind != .stop || busy || u.saved || roundHeld (isNode unit) u n q.tok.round || !(resultSpace c unit n) then s
      else
        let s := setCur s (setUnit c unit (dropHead u unit idx))
        let absorb := fun s => updCore s k fun c => census c q.tok.place (-1)
        if q.inp ≠ 0 then absorb s
        else
          let due := stateful unit sl && sl.acc && sl.slev ≠ 0 && sl.slev ≤ q.tok.level
          let s := if due then releaseState s k unit n q.tok.round else s
          match sl.sact with
          | 0 => emitTok s k unit n q.tok
          | 1 => absorb s
          | _ => if q.tok.level ≤ 1 then absorb s else emitTok s k unit n { q.tok with level := q.tok.level - 1 })

-- looped regions --------------------------------------------------------------------------------------------------

/-- The slots to which a channel delivers at stands `vs` and at what leaves by `outs`: (x, y, n) slot n of a site, (x, 8, n)
slot n of memory node x. -/
def slotsAt (c : Core) (g : Config) (outs : List (Nat × Nat × Nat × Nat)) : List (Nat × Nat × Nat) :=
  outs.filterMap fun z =>
    if z.2.2.1 = 4 then some (z.1, z.2.1, z.2.2.2)
    else if z.2.2.1 ≥ 5 then none
    else match linkDest g z.1 z.2.1 z.2.2.1 with
      | .mn a => (nodeRoute (unitAt c (.mn a)) z.2.2.2).map fun r => (a, 8, r.1)
      | _ => none

/-- The slots that the results of slot (x, y, n) reach with no slot between (R202, R282, R283). -/
def slotNext (c : Core) (g : Config) (a : Nat × Nat × Nat) : List (Nat × Nat × Nat) :=
  let all := fun (_ : Instr) => false
  if a.2.1 = 8 then
    let u := unitAt c (.mn a.1)
    let sl := u.slot a.2.2
    if sl.loops then ((nodeRoute u sl.nxt).map fun r => [(a.1, 8, r.1)]).getD []
    else
      let vs : List Stand := [(a.1, g.y0, 0, sl.nxt)]
      slotsAt c g (standOuts c all (flow c g all 2000 vs vs))
  else match (siteAt c a.1 a.2.1).wordFor a.2.2 4 with
    | some w =>
      let outs := (wordOuts a.2.2 w).map fun o => (a.1, a.2.1, o)
      let vs := outs.flatMap fun o => leaveTo c g o.1 o.2.1 o.2.2
      slotsAt c g (outs ++ standOuts c all (flow c g all 2000 vs vs))
    | none => []

/-- The slots that stand after those in `work` on some path of the region's links (R218); a core has 448. -/
def reachSlots (c : Core) (g : Config) : Nat → List (Nat × Nat × Nat) → List (Nat × Nat × Nat) → List (Nat × Nat × Nat)
  | 0, _, seen => seen
  | _ + 1, [], seen => seen
  | f + 1, a :: work, seen =>
    let new := (slotNext c g a).eraseDups.filter fun p => !seen.contains p
    reachSlots c g f (work ++ new) (seen ++ new)

/-- The stateful nodes of a placement. -/
def statefulNodes (c : Core) (p : Nat) : List (Nat × Nat × Nat) :=
  c.sites.flatMap fun e =>
    if e.2.place ≠ p then []
    else (e.2.slots.filter fun q => stateful (.site (e.1 % 8) (e.1 / 8)) q.2).map fun q => (e.1 % 8, e.1 / 8, q.1)

/-- Stateful nodes that a path leads to from node `a`. -/
def statefulAfter (c : Core) (g : Config) (a : Nat × Nat × Nat) : List (Nat × Nat × Nat) :=
  (reachSlots c g 500 [a] []).filter fun b => (statefulNodes c g.place).contains b

/-- Depth of every stateful node, longest first found: `k` rounds of relaxation (R218). -/
def depths (c : Core) (g : Config) : List ((Nat × Nat × Nat) × Nat) :=
  let ns := statefulNodes c g.place
  let succ := ns.map fun a => (a, statefulAfter c g a)
  let relax := fun (d : List ((Nat × Nat × Nat) × Nat)) => d.map fun e =>
    (e.1, ((d.filter fun q => q.1 != e.1 && succ.any fun z => z.1 == q.1 && z.2.contains e.1).map fun q => q.2 + 1).foldl max 0)
  (List.range ns.length).foldl (fun d _ => relax d) (ns.map fun a => (a, 0))

/-- LOOP_ROUND_SIGNAL of a looped region (R218): with a census of zero and every source at its mark, the nodes of the next
depth release; after the deepest the round closes, a marker leaves every output edge port and the sources reopen. In a save
nothing is made at a site that has saved (R460). -/
def execLoopRoundSignal (region : Nat) (s : State) : Host.Outcome State Fault Refusal :=
  .next (
    let c := cur s
    match mapGet c.regions region with
    | none => s
    | some g =>
      if !g.looped || g.census ≠ 0 || g.succ.isSome && g.phase == .splicing && g.sources.all (fun q => q.done && !q.marked) then s
      else if !(g.sources.all fun q => q.marked || q.done) || !(g.sources.any fun q => q.marked) then s
      else
        let ds := depths c g.cfg
        let deepest := (ds.map (·.2)).foldl max 0
        let round := match g.sources.find? (·.marked) with | some q => q.round | none => 0
        if !ds.isEmpty && g.depth ≤ deepest then
          let now := (ds.filter fun e => e.2 == g.depth).map (·.1)
          if now.any fun a => (siteAt c a.1 a.2.1).saved || !(resultSpace c (.site a.1 a.2.1) a.2.2) then s
          else
            let s := now.foldl (fun s a => releaseState s s.core (.site a.1 a.2.1) a.2.2 round) s
            updCur s fun c => updRegion c region fun g => { g with depth := g.depth + 1, signalling := true }
        else
          let outs := g.cfg.edges.filter epOut
          let mk := bareTok .marker 0 round 0 g.cfg.place
          let sites := outs.map fun e => edgeSite g.cfg (epPort e)
          if sites.any fun p => (siteAt c p.1 p.2.1).saved || (mapGet (siteAt c p.1 p.2.1).out p.2.2).isSome then s
          else
            let c := sites.foldl (fun c p =>
              let u := siteAt c p.1 p.2.1
              setSite c p.1 p.2.1 { u with out := mapSet u.out p.2.2 mk }) c
            let c := updRegion c region fun g =>
              { g with depth := 0, signalling := false,
                       sources := g.sources.map fun q =>
                         if q.marked then { q with marked := false, round := q.round + 1, turns := q.turns + 1 } else q }
            setCur s (pushWaves c region))

-- control tokens --------------------------------------------------------------------------------------------------

/-- The stage word with the fields of a control token that its instruction reads, in an accumulating slot or not (R236,
R251). -/
def patchStage (acc : Bool) (v : W32) (w : W32) : W32 :=
  let rnd := v.toNat / 2 ^ 9 % 8
  let w := if v.getLsbD 13 && (readsRnd w || (acc && Stg.ty w ≥ 3)) then (w &&& ~~~0x70#32) ||| BitVec.ofNat 32 (rnd * 16) else w
  if v.getLsbD 14 && (readsSat w || acc) then (w &&& ~~~8#32) ||| (if v.getLsbD 12 then 8#32 else 0) else w

/-- A control token that R252 refuses. -/
def ctlBad (u : FUnit) (v : W32) : Bool :=
  (v.toNat / 2 ^ 9 % 8 ≥ 6 && v.getLsbD 13) || v.toNat / 2 ^ 15 ≠ 0 || !(u.slot (v.toNat % 8)).en

/-- CONTROL_TOKEN_APPLY: the unit of site (x, y) takes the first control token of its side input (R251, R252). At a
scratchpad unit no stage word reads rnd or sat, so nothing changes there. The record of a refused one names the token's own
slot field (log entry 76). -/
def execControlTokenApply (x y idx : Nat) (s : State) : Host.Outcome State Fault Refusal :=
  if !(x < 8 && y < 6) then .fault .noSuchUnit
  else .next (
    let c := cur s
    let u := siteAt c x y
    match u.side[idx]? with
    | none => s
    | some (p, t) =>
      let v := ctlWord t
      let n := v.toNat % 8
      let first := findIdx u.side fun e => e.1 == p
      let badLanes := (t.lanes.drop 1).any fun l => l.v ≠ 0
      if first != some idx || u.saved || (pendingFrom u n p && !ctlBad u v) then s
      else
        let u' := { u with side := dropNth u.side idx }
        if ctlBad u v || badLanes then
          fabricFault (setCur s (census (setSite c x y u') t.place (-1))) s.core (.site x y) t.slot 0x04 false 0 0
        else
          let sl := u.slot n
          let st := (List.range sl.stages.length).map fun k =>
            let w := nthD sl.stages k 0
            if v.getLsbD (3 + k) && k < sl.nst && (x + y) % 2 == 0 then patchStage sl.acc v w else w
          setCur s (census (setSite c x y { u' with slots := mapSet u.slots n { sl with stages := st } }) t.place (-1)))

end Sys2Proof.Machine
end

