-- ==== Sys2Proof/Machine/Matrix.lean ====
section
/-! DEFINITION. The matrix engine (section 13): records, firing rules, `mx.mma` and `mx.mmas`, the completion of a firing with
the sums of R68 and R69, sequencer commands, tile ports. -/

namespace Sys2Proof.Machine

/-- Bits [lo + len − 1 : lo] of word `k` of a record. -/
def rfld (r : List Word) (k lo len : Nat) : Nat := (nthD r k 0).toNat / 2 ^ lo % 2 ^ len
/-- Every bit of word `k` outside the mask is zero. -/
def ronly (r : List Word) (k mask : Nat) : Bool := nthD r k 0 &&& ~~~(BitVec.ofNat 64 mask) == 0

-- formats ---------------------------------------------------------------------------------------------------------

/-- Bits of an element of an operand format (R50). -/
def elemBits (f : Nat) : Nat :=
  match f with
  | 1 => 16 | 2 => 16 | 3 => 8 | 4 => 8 | 5 => 6 | 6 => 6 | 7 => 4 | _ => 8
/-- An operand format of the matrix engine (R334, R336). -/
def operandFmt (f : Nat) : Bool := (1 ≤ f && f ≤ 8) || f == 0xB
/-- An MX element format. -/
def isMx (f : Nat) : Bool := 3 ≤ f && f ≤ 7
/-- An integer format. -/
def isInt8 (f : Nat) : Bool := f == 8 || f == 0xB
/-- The pair is in R340; that of two FP6 or FP4 formats only where MX4 is accepted (R474). -/
def pairOk (mx4 : Bool) (a b : Nat) : Bool :=
  ((a == 1 || a == 2) && (b == 1 || b == 2)) || (isMx a && isMx b && (mx4 || a ≤ 4 || b ≤ 4)) || (isInt8 a && isInt8 b)
/-- Elements that a tile holds (R330). -/
def tileElems (f : Nat) : Nat :=
  match elemBits f with
  | 16 => 8192 | 6 => 21840 | 4 => 32768 | _ => 16384

/-- First byte and bit of element `e` of an array at `base` (R49, R330). -/
def elemPlace (base f e : Nat) : Nat × Nat := (base + elemBits f * e / 8, elemBits f * e % 8)
/-- Bytes that element `e` touches. -/
def elemSpan (base f e : Nat) : Nat × Nat :=
  (base + elemBits f * e / 8, (elemBits f * e % 8 + elemBits f + 7) / 8)
/-- The bits of element `e` of an array at `base` of a store. -/
def elemAt (m : Mem) (base f e : Nat) : Nat :=
  memNat m (elemPlace base f e).1 2 / 2 ^ (elemPlace base f e).2 % 2 ^ elemBits f

-- shape records and weight descriptors ----------------------------------------------------------------------------

/-- M, N and K of a shape record (R334). -/
def shM (r : List Word) : Nat := rfld r 0 0 8
/-- N. -/
def shN (r : List Word) : Nat := rfld r 0 8 8
/-- K. -/
def shK (r : List Word) : Nat := rfld r 0 16 13
/-- AFMT. -/
def shFmt (r : List Word) : Nat := rfld r 0 32 4
/-- Element index of A(i, κ). -/
def shElem (r : List Word) (i k : Nat) : Nat := rfld r 1 0 16 + i * rfld r 1 16 16 + k * rfld r 1 32 16
/-- Tile byte of the scale of A row `i`, block `b`. -/
def shScale (r : List Word) (i b : Nat) : Nat := rfld r 2 0 14 + i * rfld r 2 16 14 + b
/-- Group word of C(i, j). -/
def shC (r : List Word) (i j : Nat) : Nat := rfld r 3 0 14 + i * rfld r 3 16 14 + j * rfld r 3 32 14

/-- Blocks of 32 that cover `n`. -/
def blocks (n : Nat) : Nat := (n + 31) / 32

/-- The record passes R335. -/
def shapeOk (r : List Word) : Bool :=
  let m := shM r; let n := shN r; let k := shK r; let f := shFmt r
  ronly r 0 0xF1FFFFFFF && ronly r 1 0xFFFFFFFFFFFF && ronly r 2 0x3FFF3FFF && ronly r 3 0x3FFF3FFF3FFF &&
  (ronly r 4 0 && ronly r 5 0 && ronly r 6 0 && ronly r 7 0) && (isMx f || ronly r 2 0) && operandFmt f &&
  1 ≤ m && m ≤ 128 && 1 ≤ n && n ≤ 128 && 1 ≤ k && k ≤ 4096 &&
  shElem r (m - 1) (k - 1) < tileElems f && (!isMx f || shScale r (m - 1) (blocks k - 1) ≤ 16383) &&
  shC r (m - 1) (n - 1) ≤ 16383 &&
  (List.range m).all fun i => (List.range n).all fun j =>
    (i == 0 && j == 0) || i * rfld r 3 16 14 ≠ j * rfld r 3 32 14

/-- OFF of a weight descriptor (R336). -/
def wdOff (r : List Word) : Nat := rfld r 0 0 20
/-- BFMT. -/
def wdFmt (r : List Word) : Nat := rfld r 0 24 4
/-- SPARSE. -/
def wdSparse (r : List Word) : Bool := rfld r 0 28 1 == 1
/-- KD. -/
def wdK (r : List Word) : Nat := rfld r 0 32 13
/-- ND. -/
def wdN (r : List Word) : Nat := rfld r 0 48 8
/-- Bytes of the area. -/
def wdLen (r : List Word) : Nat := 64 * rfld r 1 0 15
/-- Element index of B(κ, j) of a dense operand, or of value `t` of group κ / 4 of a sparse one (R337). -/
def wdElem (r : List Word) (k j t : Nat) : Nat :=
  if wdSparse r then j * (wdK r / 2) + 2 * (k / 4) + t else rfld r 2 0 21 + k * rfld r 2 21 21 + j * rfld r 2 42 21
/-- Area byte of the scale of column `j`, block `b`. -/
def wdScale (r : List Word) (j b : Nat) : Nat := rfld r 3 0 20 + j * rfld r 3 20 20 + b
/-- Area byte of the index nibble of group κ / 4 of column `j`. -/
def wdNibble (r : List Word) (k j : Nat) : Nat := rfld r 4 0 20 + (j * (wdK r / 4) + k / 4) / 2

/-- The record passes R338. -/
def weightOk (r : List Word) : Bool :=
  let k := wdK r; let n := wdN r; let f := wdFmt r; let sp := wdSparse r; let len := wdLen r
  ronly r 0 0x00FF1FFF1F0FFFFF && ronly r 1 0x7FFF && ronly r 2 0x7FFFFFFFFFFFFFFF && ronly r 3 0xFFFFFFFFFF &&
  ronly r 4 0xFFFFF && (ronly r 5 0 && ronly r 6 0 && ronly r 7 0) && operandFmt f && wdOff r % 64 = 0 &&
  1 ≤ k && k ≤ 4096 && 1 ≤ n && n ≤ 128 && 64 ≤ len && len ≤ 1048576 && wdOff r + len ≤ 1048576 &&
  (!sp || k % 4 = 0) && (if sp then ronly r 2 0 else ronly r 4 0) && (isMx f || ronly r 3 0) &&
  (let e := elemSpan 0 f (wdElem r (k - 1) (n - 1) 1); e.1 + e.2 ≤ len) &&
  (!isMx f || wdScale r (n - 1) (blocks k - 1) < len) && (!sp || wdNibble r (k - 1) (n - 1) < len)

/-- A resident descriptor covers byte `b` of the weight buffer (R324, R338). -/
def weightCovered (m : Matrix) (b : Nat) : Bool := m.wds.any fun e => wdOff e.2 ≤ b && b < wdOff e.2 + wdLen e.2

-- the op list -----------------------------------------------------------------------------------------------------

/-- The fields of an op word: A tile, group, shape, descriptor, NA, NB, AD, CH, KA, sparse. -/
structure MxOp where
  a : Nat
  g : Nat
  sh : Nat
  wd : Nat
  na : Bool
  nb : Bool
  ad : Bool
  ch : Bool
  ka : Bool
  sparse : Bool
  deriving DecidableEq, Repr

/-- The fields of `mx.mma` and `mx.mmas` (R114). -/
def mxFields : Instr → Option MxOp
  | .mxMma a g h w n b z c k => some ⟨a.toNat, g.toNat, h.toNat, w.toNat, n == 1, b == 1, z == 1, c == 1, k == 1, false⟩
  | .mxMmas a g h w n b z c k => some ⟨a.toNat, g.toNat, h.toNat, w.toNat, n == 1, b == 1, z == 1, c == 1, k == 1, true⟩
  | _ => none

/-- The operation at position `i` of the list. -/
def mxAt (m : Matrix) (i : Nat) : Option MxOp := (m.oplist[i]?).bind fun w => match decodeOp w with | .ok o => mxFields o | _ => none
/-- Firings of word `i` that have completed. -/
def fireCount (m : Matrix) (i : Nat) : Nat := nthD m.fired i 0
/-- Two words conflict (R341). -/
def conflict (p q : MxOp) : Bool := p.a == q.a || p.g == q.g || p.a / 4 == q.g || q.a / 4 == p.g
/-- R341: the next firing of word `i` is in its turn. -/
def inTurn (m : Matrix) (i : Nat) : Bool :=
  match mxAt m i with
  | none => false
  | some p =>
    let f := fireCount m i
    (List.range m.oplist.length).all fun j =>
      j == i || (match mxAt m j with
        | some q => !conflict p q || (if j < i then f < fireCount m j else f ≤ fireCount m j)
        | none => true)
/-- Group `g` is as the firing needs it (R342). -/
def groupReady (m : Matrix) (g : Nat) (ad : Bool) : Bool :=
  m.opened.contains g || (List.range 4).all fun k => tagOf m (4 * g + k) == if ad then .empty else .full
/-- R342. -/
def tilesReady (m : Matrix) (p : MxOp) : Bool :=
  tagOf m p.a == .full && (mapGet m.shapes p.sh).isSome && (mapGet m.wds p.wd).isSome && groupReady m p.g p.ad
/-- The word may begin its next firing. -/
def mayFire (m : Matrix) (i : Nat) : Bool := inTurn m i && (mxAt m i).any (tilesReady m)
/-- The firing that the MAC array takes: the lowest firing number, then the lowest position (R341); with none ready the
word whose turn it is. -/
def nextFiring (m : Matrix) : Option Nat :=
  let ps := List.range m.oplist.length
  let best := fun (l : List Nat) => l.foldl (fun (b : Option Nat) i =>
    match b with
    | some k => if fireCount m i < fireCount m k then some i else some k
    | none => some i) none
  match best (ps.filter (mayFire m)) with
  | some i => some i
  | none => best (ps.filter (inTurn m))

/-- Sets the tags of several tiles. -/
def setTags (m : Matrix) (ts : List Nat) (g : Tag) : Matrix := ts.foldl (fun m t => setTag m t g) m
/-- Tiles of group `g` (R331). -/
def groupOf (g : Nat) : List Nat := [4 * g, 4 * g + 1, 4 * g + 2, 4 * g + 3]

/-- A matrix fault (R352): it ends the cohort. -/
def matrixFault (s : State) (n unit pos cause : Nat) : State :=
  faultAt s n false { Record.mk' 0x0E unit cause true with
    pos := pos
    flags := placeFlags (coreAt s n) (if unit = 1 then (siteAt (coreAt s n) 7 (pos / 8)).place else (coreAt s n).mx.place) }

/-- During a chained start the successor's list and commands wait (R333, R453). -/
def listWaits (c : Core) : Bool :=
  match c.prev, cfgOfPlace c c.mx.place with
  | some h, some g => g.launch != h.launch
  | _, _ => false

/-- A firing of the word at the locus begins (R341 to R343): its tiles become Busy, or it faults. -/
def mxFire (i : Instr) (s : State) : State :=
  let c := cur s
  let k := s.locus.slot
  match mxFields i, mxAt c.mx k with
  | some p, some q =>
    if p != q || c.mx.running.isSome || c.saving || !(mayFire c.mx k) || listWaits c then s
    else
      let sh := mapGetD c.mx.shapes p.sh []
      let wd := mapGetD c.mx.wds p.wd []
      if !(pairOk (accepted s 4) (shFmt sh) (wdFmt wd)) || wdSparse wd != p.sparse then matrixFault s s.core 3 k 0x01
      else if shK sh > wdK wd || shN sh > wdN wd then matrixFault s s.core 3 k 0x02
      else
        let ts := p.a :: groupOf p.g
        let f : Firing := { pos := k, old := ts.map fun t => (t, tagOf c.mx t), shape := sh, wd := wd, region := c.mx.place }
        setCur s { c with mx := { setTags c.mx ts .busy with running := some f } }
  | _, _ => s

/-- `mx.mma` (R343). -/
def execMxMma (a : BitVec 6) (g h w : BitVec 4) (n b z c k : BitVec 1) (s : State) : Host.Outcome State Fault Refusal :=
  .next (mxFire (.mxMma a g h w n b z c k) s)
/-- `mx.mmas` (R343). -/
def execMxMmas (a : BitVec 6) (g h w : BitVec 4) (n b z c k : BitVec 1) (s : State) : Host.Outcome State Fault Refusal :=
  .next (mxFire (.mxMmas a g h w n b z c k) s)

-- the sums --------------------------------------------------------------------------------------------------------

/-- The firing's reads: A(i, κ) from tile `a` of the tile store. -/
def elemA (m : Matrix) (sh : List Word) (a i k : Nat) : Nat := elemAt m.tile (16384 * a) (shFmt sh) (shElem sh i k)
/-- Value of group κ / 4 that stands at row κ of a sparse column (R337). -/
def sparseValue (m : Matrix) (wd : List Word) (k j : Nat) : Option Nat :=
  let p := j * (wdK wd / 4) + k / 4
  let nib := (memGet m.weight (wdOff wd + wdNibble wd k j)).toNat / (if p % 2 = 0 then 1 else 16) % 16
  if k % 4 = nib / 4 then some 1 else if k % 4 = nib % 4 then some 0 else none
/-- B(κ, j), when it is an element (R337). -/
def elemB (m : Matrix) (wd : List Word) (k j : Nat) : Option Nat :=
  let at' := fun t => elemAt m.weight (wdOff wd) (wdFmt wd) (wdElem wd k j t)
  if wdSparse wd then (sparseValue m wd k j).map at' else some (at' 0)
/-- E8M0 scales of A row `i` and B column `j` at κ. -/
def scales (m : Matrix) (sh wd : List Word) (a i j k : Nat) : Nat × Nat :=
  ((memGet m.tile (16384 * a + shScale sh i (k / 32))).toNat, (memGet m.weight (wdOff wd + wdScale wd j (k / 32))).toNat)

/-- A value times 2^e. -/
def scaleBy (v : Val) (e : Int) : Val := match v with | .fin n m x st => .fin n m (x + e) st | v => v
/-- Negation when `n`. -/
def negIf (n : Bool) (v : Val) : Val := if n then vneg v else v

/-- The product at κ of a floating pair (R68, R343). -/
def productF (m : Matrix) (p : MxOp) (sh wd : List Word) (i j k : Nat) : Option (Val × Flags) :=
  (elemB m wd k j).map fun b =>
    let x := negIf p.na (decodeF (ffmt (shFmt sh)) (elemA m sh p.a i k))
    let y := negIf p.nb (decodeF (ffmt (wdFmt wd)) b)
    if isMx (shFmt sh) then
      let (sa, sb) := scales m sh wd p.a i j k
      if sa = 255 || sb = 255 then (.nan false, 0)
      else let r := mulV x y; (scaleBy r.1 ((sa : Int) + sb - 254), r.2)
    else mulV x y

/-- The exact sum of a chunk's products (R68): NaN if one is NaN, +0 if there is none. -/
def chunkSum (ps : List (Val × Flags)) : Val × Flags :=
  let fl := ps.foldl (fun f p => f ||| p.2) 0
  if ps.any fun p => isNan p.1 then (.nan false, fl)
  else match ps with
    | [] => (.fin false 0 0 false, 0)
    | p :: r => r.foldl (fun acc q => let t := addV false acc.1 q.1; (t.1, acc.2 ||| t.2)) (p.1, fl)

/-- One step of R68: c := round(c + S_g). -/
def chunkStep (m : Matrix) (p : MxOp) (sh wd : List Word) (i j : Nat) (acc : Nat × Flags) (g : Nat) : Nat × Flags :=
  let ks := (List.range 16).map (· + 16 * g) |>.filter (· < shK sh)
  let s := chunkSum (ks.filterMap (productF m p sh wd i j))
  let t := addV false (decodeF f32 acc.1) s.1
  let r := roundTo f32 0 false 0 t.1
  (r.1, acc.2 ||| s.2 ||| t.2 ||| r.2)

/-- The FP32 sum of C(i, j) from `c0` (R68). -/
def sumF (m : Matrix) (p : MxOp) (sh wd : List Word) (i j c0 : Nat) : Nat × Flags :=
  (List.range ((shK sh + 15) / 16)).foldl (chunkStep m p sh wd i j) (c0, 0)

/-- The value of an 8-bit integer element. -/
def int8 (f v : Nat) : Int := if f == 8 then (BitVec.ofNat 8 v).toInt else (v % 256 : Nat)

/-- The .s32 sum of C(i, j) from `c0`, modulo 2³² (R69). -/
def sumI (m : Matrix) (p : MxOp) (sh wd : List Word) (i j c0 : Nat) : Nat :=
  let terms := (List.range (shK sh)).map fun k =>
    match elemB m wd k j with
    | none => 0
    | some b =>
      let x := int8 (shFmt sh) (elemA m sh p.a i k); let y := int8 (wdFmt wd) b
      (if p.na then -x else x) * (if p.nb then -y else y)
  (BitVec.ofInt 32 ((c0 : Int) + terms.foldl (· + ·) 0)).toNat

/-- C(i, j) after the firing, with the flags of its roundings. -/
def sumOf (m : Matrix) (p : MxOp) (sh wd : List Word) (i j : Nat) : Nat × Flags :=
  let c0 := if p.ad then 0 else memNat m.tile (4 * (16384 * p.g + shC sh i j)) 4
  if isInt8 (shFmt sh) then (sumI m p sh wd i j c0, 0) else sumF m p sh wd i j c0

/-- The positions of a shape. -/
def shapePos (sh : List Word) : List (Nat × Nat) := (List.range (shM sh)).flatMap fun i => (List.range (shN sh)).map fun j => (i, j)

/-- The firing meets an uncorrectable error (R352): in a byte of A, of B, of a scale or an index, or in a group word read. -/
def firingBad (c : Core) (p : MxOp) (sh wd : List Word) : Bool :=
  let span := fun bad (e : Nat × Nat) => isBad bad e.1 e.2
  let ks := List.range (shK sh)
  !(c.badTile.isEmpty && c.badWeight.isEmpty) &&
  ((List.range (shM sh)).any (fun i => ks.any fun k =>
      span c.badTile (elemSpan (16384 * p.a) (shFmt sh) (shElem sh i k)) ||
      (isMx (shFmt sh) && isBad c.badTile (16384 * p.a + shScale sh i (k / 32)) 1)) ||
   (List.range (shN sh)).any (fun j => ks.any fun k =>
      (if wdSparse wd then isBad c.badWeight (wdOff wd + wdNibble wd k j) 1 ||
         (sparseValue c.mx wd k j).any (fun t => span c.badWeight (elemSpan (wdOff wd) (wdFmt wd) (wdElem wd k j t)))
       else span c.badWeight (elemSpan (wdOff wd) (wdFmt wd) (wdElem wd k j 0))) ||
      (isMx (wdFmt wd) && isBad c.badWeight (wdOff wd + wdScale wd j (k / 32)) 1)) ||
   (!p.ad && (shapePos sh).any fun e => isBad c.badTile (4 * (16384 * p.g + shC sh e.1 e.2)) 4))

/-- One more firing of word `i`. -/
def countFiring (m : Matrix) (i : Nat) : Matrix :=
  { m with fired := (List.range m.oplist.length).map fun k => fireCount m k + if k = i then 1 else 0 }

/-- The tile store after a firing, with its flags. -/
def fireStore (m : Matrix) (p : MxOp) (sh wd : List Word) : Mem × Flags :=
  (shapePos sh).foldl (fun acc e =>
    let r := sumOf m p sh wd e.1 e.2
    (memWrite acc.1 (4 * (16384 * p.g + shC sh e.1 e.2)) (leBytes 4 r.1), acc.2 ||| r.2)) (m.tile, 0)

/-- Tags and OPEN at a firing's completion (R332). -/
def afterFiring (m : Matrix) (p : MxOp) : Matrix :=
  let m := setTag m p.a (if p.ka then .full else .empty)
  if p.ch then { m with opened := if m.opened.contains p.g then m.opened else p.g :: m.opened }
  else { setTags m (groupOf p.g) .full with opened := m.opened.filter (· != p.g) }

/-- MX_FIRE_COMPLETE: the running firing writes its group words, raises its flags, then changes the tags (R332, R343); an
uncorrectable error writes nothing and restores the tags (R352). -/
def execMxFireComplete (s : State) : Host.Outcome State Fault Refusal :=
  .next (
    let c := cur s
    match c.mx.running with
    | none => s
    | some f =>
      match mxAt c.mx f.pos with
      | none => s
      | some p =>
        if firingBad c p f.shape f.wd then
          let m := f.old.foldl (fun m e => setTag m e.1 e.2) { c.mx with running := none }
          matrixFault (setCur s { c with mx := m }) s.core 3 f.pos 0x04
        else
          let r := fireStore c.mx p f.shape f.wd
          let c := raisePlace { c with mx := { c.mx with tile := r.1 } } f.region r.2
          setCur s { c with mx := countFiring (afterFiring { c.mx with running := none } p) f.pos })

-- commands --------------------------------------------------------------------------------------------------------

/-- TS to TS + count − 1. -/
def tileRange (ts n : Nat) : List Nat := (List.range n).map (· + ts)
/-- First tile, count and destination of a command's operand 1 (R345). -/
def mxTiles (m : Cmd) : Nat × Nat × Nat := (m.fld 1 0 6, m.fld 1 8 6 + 1, m.fld 1 16 6)

/-- The operands break R345. -/
def mxOperandBad (m : Cmd) : Bool :=
  let (ts, n, td) := mxTiles m
  match m.op with
  | .mxMove _ _ _ => !m.only 1 0x3F3F3F || ts + n > 64 || td + n > 64 || (ts < td + n && td < ts + n)
  | .mxLdsh _ _ _ _ => !canonical (m.opnd 1) || (m.opnd 1).toNat % 64 ≠ 0 || !m.only 2 0xF
  | .mxLdwd _ _ _ _ =>
    !m.only 2 0x10F || (if m.fld 2 8 1 = 1 then m.opnd 1 ≠ 0 else !canonical (m.opnd 1) || (m.opnd 1).toNat % 64 ≠ 0)
  | _ => !m.only 1 0x13F3F || ts + n > 64

/-- The running firing names shape record `k`, or descriptor `k`. -/
def firingNames (m : Matrix) (wd : Bool) (k : Nat) : Bool :=
  match m.running with
  | some f => (mxAt m f.pos).any fun p => (if wd then p.wd else p.sh) == k
  | none => false

/-- The engine's answer (R333, R345, R346). A record stands in the command's operands behind the two that it names. -/
def judgeMatrix (s : State) (n : Nat) (m : Cmd) : State × Verdict :=
  let c := coreAt s n
  let (ts, k, td) := mxTiles m
  let busy := fun l => l.any fun t => tagOf c.mx t == .busy
  if c.prev.isSome && !m.prev then (s, .wait)
  else if mxOperandBad m then (s, .refuse 0x02)
  else match m.op with
    | .mxMove _ _ _ =>
      if busy (tileRange ts k ++ tileRange td k) then (s, .refuse 0x10)
      else if (tileRange ts k).any (fun t => tagOf c.mx t != .full) || (tileRange td k).any (fun t => tagOf c.mx t != .empty) then
        (s, .refuse 0x11)
      else (s, .ok)
    | .mxLdsh _ _ _ _ =>
      if firingNames c.mx false (m.fld 2 0 4) then (s, .wait)
      else match readRecord s n m 8 0x0E 0x04 with
        | (s, .error v) => (s, v)
        | (s, .ok r) => if shapeOk r then
            (updCore s n fun c => { c with mx := { c.mx with shapes := mapSet c.mx.shapes (m.fld 2 0 4) r } }, .ok)
          else (s, .refuse 0x01)
    | .mxLdwd _ _ _ _ =>
      if firingNames c.mx true (m.fld 2 0 4) then (s, .wait)
      else if m.fld 2 8 1 = 1 then
        (updCore s n fun c => { c with mx := { c.mx with wds := mapDel c.mx.wds (m.fld 2 0 4) } }, .ok)
      else match readRecord s n m 8 0x0E 0x04 with
        | (s, .error v) => (s, v)
        | (s, .ok r) => if weightOk r then
            (updCore s n fun c => { c with mx := { c.mx with wds := mapSet c.mx.wds (m.fld 2 0 4) r } }, .ok)
          else (s, .refuse 0x01)
    | _ => if busy (tileRange ts k) then (s, .refuse 0x10) else (s, .ok)

/-- The command's event at the tile store (R347). -/
def mxEvent (x : Matrix) (m : Cmd) : Matrix :=
  let (ts, k, td) := mxTiles m
  let tag := if m.fld 1 16 1 = 1 then Tag.full else .empty
  match m.op with
  | .mxZero _ _ _ => { setTags x (tileRange ts k) tag with tile := memZero x.tile (16384 * ts) (16384 * k) }
  | .mxMove _ _ _ => { setTags x (tileRange td k) .full with tile := memMove x.tile (16384 * ts) (16384 * td) (16384 * k) }
  | .mxTag _ _ => setTags x (tileRange ts k) tag
  | _ => x

/-- The work of an accepted matrix command. -/
def runMatrix (s : State) (n : Nat) (m : Cmd) : State :=
  finishCmd (updCore s n fun c => { c with mx := mxEvent c.mx m }) n m.id

-- tile ports ------------------------------------------------------------------------------------------------------

/-- Store word address and RL of a request (R349). -/
def reqWord (v : W32) : Nat := v.toNat % 2 ^ 18
/-- Tiles that a run's non-null lanes name. -/
def reqTiles (t : Tok) : List Nat := t.lanes.filterMap fun l => if l.null then none else some (reqWord l.v / 4096)

/-- TILE_PORT_READ: tile port `y` handles the token at its head (R348 to R350, R352). -/
def execTilePortRead (y : Nat) (s : State) : Host.Outcome State Fault Refusal :=
  if y ≥ 6 then .fault .noSuchUnit
  else .next (
    let c := cur s
    match mapGetD c.mx.ports y [] with
    | [] => s
    | t :: rest =>
      let u := siteAt c 7 y
      let taken := { c with mx := { c.mx with ports := if rest.isEmpty then mapDel c.mx.ports y else mapSet c.mx.ports y rest } }
      let bad := fun cause => matrixFault (setCur s (census taken t.place (-1))) s.core 1 (7 + 8 * y) cause
      if u.saved then s
      else if t.kind == .control then bad 0x03
      else if !t.isRun then (if hasSpace (u.queue 1) t then arriveSite (setCur s taken) s.core 7 y 1 t else s)
      else if t.lanes.any fun l => l.v.toNat / 2 ^ 18 % 2 ^ 13 ≠ 0 then bad 0x03
      else if (reqTiles t).any (fun k => tagOf c.mx k != .full) || !(hasSpace (u.queue 1) t) then s
      else if t.lanes.any fun l => !l.null && isBad c.badTile (4 * reqWord l.v) 4 then bad 0x04
      else
        let r := { t with lanes := t.lanes.map fun l =>
          if l.null then ⟨0, true⟩ else ⟨BitVec.ofNat 32 (memNat c.mx.tile (4 * reqWord l.v) 4), false⟩ }
        let freed := (t.lanes.filter fun l => !l.null && l.v.getLsbD 31).map fun l => reqWord l.v / 4096
        arriveSite (setCur s { taken with mx := setTags taken.mx freed .empty }) s.core 7 y 1 r)

end Sys2Proof.Machine
end

