-- ==== Sys2Proof/Machine/Scratchpad.lean ====
section
/-! DEFINITION. Scratchpad units (R264 to R281): windows, loads, stores, atomics, circular buffers, tile fill, and the
flights of accesses that scratchpad units and memory nodes share. -/

namespace Sys2Proof.Machine

/-- Size in bytes of an access type (R108). -/
def accSize (t : Nat) : Nat := if t ≤ 1 then 1 else if t ≤ 3 then 2 else 4
/-- A loaded value in its lane (R271, R297). -/
def accExt (t v : Nat) : W32 :=
  if t = 1 then (BitVec.ofNat 8 v).signExtend 32 else if t = 3 then (BitVec.ofNat 16 v).signExtend 32 else BitVec.ofNat 32 v

/-- The new value of an atomic on a word of `n` bits (R272, R387): `fl` binary32, `sg` signed; operation as in R104. -/
def atomNew (op : Nat) (fl sg : Bool) (n old b c : Nat) : Nat × Flags :=
  let iv := fun (v : Nat) => if sg then (BitVec.ofNat n v).toInt else ((v % 2 ^ n : Nat) : Int)
  match op with
  | 0 => if fl then let e := addV false (decodeF f32 old) (decodeF f32 b)
                    let y := roundTo f32 0 false 0 e.1; (y.1, e.2 ||| y.2)
         else ((old + b) % 2 ^ n, 0)
  | 1 => if fl then fminmax f32 false old b else (if iv old ≤ iv b then old else b, 0)
  | 2 => if fl then fminmax f32 true old b else (if iv old ≤ iv b then b else old, 0)
  | 3 => (old &&& b, 0)
  | 4 => (old ||| b, 0)
  | 5 => (old ^^^ b, 0)
  | 6 => (b, 0)
  | _ => (if old = c then b else old, 0)

/-- Window record `n` of a cohort (R267). -/
def windowOf (h : Option Cohort) (n : Nat) : Word := match h with | some h => nthD h.windows n 0 | none => 0
/-- EXT. -/
def winExt (w : Word) : Nat := w.toNat / 2 ^ 24 % 2 ^ 21
/-- 8·BASE. -/
def winBase (w : Word) : Nat := w.toNat / 2 ^ 3 % 2 ^ 18 * 8

/-- `resolve` of R270 for an agent of cohort `h` on core `k`: the cause of a fault, or rank and offset. -/
def resolveWin (s : State) (k : Nat) (h : Option Cohort) (v : W32) (n size : Nat) (rd wr : Bool) : Except Nat (Nat × Nat) :=
  let w := windowOf h n
  let o := v.toNat % 2 ^ 21
  let r := v.toNat / 2 ^ 22 % 4
  let a := winBase w + o
  let runs := match h with | some h => runsLaunch (coreAt s (peer k r)) h.launch | none => false
  if v.getLsbD 21 || v.toNat / 2 ^ 24 ≠ 0 then .error 1
  else if winExt w = 0 || o + size > winExt w || !(w.getLsbD (48 + r)) then .error 1
  else if (rd && !(w.getLsbD 52)) || (wr && !(w.getLsbD 53)) then .error 1
  else if a + size > 1179648 || !runs then .error 1
  else if a % size ≠ 0 then .error 2
  else .ok (r, a)

/-- A fault of a scratchpad unit (R280): it ends the cohort that the unit's words belong to. -/
def scratchFault (s : State) (k x y slot cause base len : Nat) (addr : Word) : State :=
  let u := siteAt (coreAt s k) x y
  faultAt s k (successorWaits (coreAt s k) u.place) { Record.mk' 0x06 1 cause true with
    pos := x + 8 * y, slot := slot, flags := placeFlags (coreAt s k) u.place, base := base, len := len, addr := addr }

-- flights ---------------------------------------------------------------------------------------------------------

/-- The operand of a firing at source select `p` in a lane: in0 to in2, k0, k1 (R269, R285). -/
def unitSrc (sl : Slot) (l : Work) (sel : Nat) : W32 :=
  if sel = 4 then sl.k0 else if sel = 5 then sl.k1 else ((l.ins.find? fun e => e.1 == sel).map fun e => e.2.v).getD 0

/-- Base and length of a fired set for a record. -/
def fireSpan (f : Fire) : Nat × Nat := match f.toks with | t :: _ => (t.base, t.tags.length) | [] => (0, 0)

/-- Ordering token of a firing (R199, R269, R285): every present lane, null where the policy excluded it. -/
def ordTok (f : Fire) (acting : List Nat) : Tok :=
  match f.toks with
  | [] => bareTok .ordering f.slot 0 0 0
  | t :: _ => { t with kind := .ordering, level := 0, lanes := (List.range t.tags.length).map fun i => ⟨0, !acting.contains i⟩ }

/-- A flight leaves the unit: its tokens are consumed, its result goes out by `dst` (1 and 4 out, 2 ord) unless it was
cancelled, and the flight ends. An ordering token that went out at entry (`ordSent`) does not go again. -/
def endFlight (s : State) (k : Nat) (f : Flight) (dst : Nat) (ordSent : Bool) : State :=
  let s := updCore s k fun c => { c with flights := c.flights.filter fun g => g.id != f.id }
  let tok := if f.cancelled then none
    else if dst = 1 || dst = 4 then some (resultTok f.fire f.res)
    else if dst = 2 && !ordSent then some (ordTok f.fire f.acting) else none
  let made : Int := (if tok.isSome then 1 else 0)
  let s := updCore s k fun c => census c (firePlace f.fire) (made - f.fire.cnt)
  match tok with
  | some t => emitTok s k f.unit f.slot t
  | none => s

/-- Takes the set that the slot at the locus fires, one of the unit's `ready` slots, and notes the choice (R205). -/
def takeReadySlot (s : State) (id : UnitId) (ready : List Nat) : Option (Fire × Slot × Core) :=
  let c := cur s
  let u := unitAt c id
  let n := s.locus.slot
  if !(ready.contains n) then none
  else (takeReady (isNode id) u n).map fun r => (normFire r.1, u.slot n, setUnit c id (noteChoice r.2 ready n))
/-- Takes the ready set that the scratchpad unit at the locus fires, with the slot chosen by R205. -/
def takeFire (s : State) (id : UnitId) : Option (Fire × Slot × Core) := takeReadySlot s id (readySlots (cur s) id)

/-- Lanes of a firing of a unit's slot. -/
def unitLanes (id : UnitId) (sl : Slot) (f : Fire) : List Work :=
  startLanes sl (inputsOf (isNode id) sl) (fun j => (slotIdentity sl j).getD 0) f

/-- A new flight of the unit at the locus. -/
def newFlight (s : State) (id : UnitId) (op : Instr) (f : Fire) (ls : List Work) (n : Nat) : Flight :=
  { id := s.nextId, unit := id, slot := s.locus.slot, op := op, fire := f,
    acting := (ls.filter (·.act)).map (·.pos), res := ls.map fun l => if l.act then ⟨0, false⟩ else l.res, left := n,
    cancelled := false }

/-- Adds a flight. -/
def addFlight (s : State) (f : Flight) : State :=
  { updCur s fun c => { c with flights := c.flights ++ [f] } with nextId := s.nextId + 1 }

/-- A firing that is consumed without effect behind a fault of its unit: each of its tokens is (R219; R270 counts a run as
one; log entry 64). -/
def consumeFire (s : State) (f : Fire) : State := updCur s fun c => census c (firePlace f) (-(f.cnt : Int))

/-- dst of an SU or memory-node instruction. -/
def dstOf : Instr → Nat
  | .scld d _ _ _ => d.toNat | .scst d _ _ _ _ => d.toNat | .scamoAdd d _ _ _ _ => d.toNat
  | .scamoMin d _ _ _ _ => d.toNat | .scamoMax d _ _ _ _ => d.toNat | .scamoAnd d _ _ _ => d.toNat
  | .scamoOr d _ _ _ => d.toNat | .scamoXor d _ _ _ => d.toNat | .scamoSwap d _ _ _ => d.toNat
  | .scamoCas d _ _ _ _ => d.toNat | .cbput d _ => d.toNat | .cbget d _ => d.toNat | .cbadv d _ _ => d.toNat
  | .cbwait d _ _ => d.toNat | .mtfill d _ _ _ => d.toNat | .mttag d => d.toNat
  | .mld d _ _ _ => d.toNat | .mst d _ _ _ _ => d.toNat | .mldNc d _ _ _ => d.toNat | .mstNc d _ _ _ _ => d.toNat
  | .mgath d _ _ _ => d.toNat | .mscat d _ _ _ _ => d.toNat | .mfence d _ _ => d.toNat | .mord => 2
  | .mflush d _ _ => d.toNat | .minv d _ _ => d.toNat | .mamoAdd d _ _ _ _ => d.toNat | .mamoMin d _ _ _ _ => d.toNat
  | .mamoMax d _ _ _ _ => d.toNat | .mamoAnd d _ _ _ => d.toNat | .mamoOr d _ _ _ => d.toNat
  | .mamoXor d _ _ _ => d.toNat | .mamoSwap d _ _ _ => d.toNat | .mamoCas d _ _ _ _ => d.toNat
  | _ => 0

/-- Key of the holding unit of a resolved scratchpad address: 24·rank + unit (R264). -/
def holdKey (a : Nat × Nat) : Nat := 24 * a.1 + a.2 / 49152

/-- A scratchpad access firing (R270, R271, R272): every acting lane resolved, then sent to its holding unit. -/
def scratchFire (op : Instr) (win size : Nat) (rd wr : Bool) (a : Nat) (b c : Option Nat) (s : State) : State :=
  let x := s.locus.x; let y := s.locus.y
  let id := UnitId.site x y
  match takeFire s id with
  | none => s
  | some (f, sl, core) =>
    let s := setCur s core
    let ls := unitLanes id sl f
    let act := ls.filter (·.act)
    let h := placeCohort core (siteAt core x y).place
    let res := act.map fun l => (l, resolveWin s s.core h (unitSrc sl l a) win size rd wr)
    let bad := res.filterMap fun e => match e.2 with | .error z => some (e.1.tag, z, unitSrc sl e.1 a) | .ok _ => none
    match bad with
    | b0 :: br =>
      let low := br.foldl (fun m e => if e.1 < m.1 then e else m) b0
      let sp := fireSpan f
      scratchFault (consumeFire s f) s.core x y s.locus.slot low.2.1 sp.1 sp.2 (low.2.2.setWidth 64)
    | [] =>
      let fl := newFlight s id op f ls act.length
      let accs := res.filterMap fun e => match e.2 with
        | .ok p => some (holdKey p, ({ flight := fl.id, lane := e.1.pos, tag := e.1.tag, addr := 2 ^ 22 * p.1 + p.2, size := size,
                                       data := match b with | some q => unitSrc sl e.1 q | none => 0
                                       cmp := match c with | some q => unitSrc sl e.1 q | none => 0 } : Access))
        | .error _ => none
      let s := addFlight s fl
      let s := updCur s fun c => { c with hold := accs.foldl (fun m e => mapSet m e.1 (mapGetD m e.1 [] ++ [e.2])) c.hold }
      if accs.isEmpty then endFlight s s.core fl (dstOf op) false else s

/-- What an access of the instruction does at its byte: 0 load, 1 store, 2 + k atomic k. -/
def accessKind : Instr → Nat
  | .scld _ _ _ _ => 0 | .scst _ _ _ _ _ => 1
  | .scamoAdd _ _ _ _ _ => 2 | .scamoMin _ _ _ _ _ => 3 | .scamoMax _ _ _ _ _ => 4 | .scamoAnd _ _ _ _ => 5
  | .scamoOr _ _ _ _ => 6 | .scamoXor _ _ _ _ => 7 | .scamoSwap _ _ _ _ => 8 | .scamoCas _ _ _ _ _ => 9
  | .mld _ _ _ _ => 0 | .mldNc _ _ _ _ => 0 | .mgath _ _ _ _ => 0
  | .mst _ _ _ _ _ => 1 | .mstNc _ _ _ _ _ => 1 | .mscat _ _ _ _ _ => 1
  | .mamoAdd _ _ _ _ _ => 2 | .mamoMin _ _ _ _ _ => 3 | .mamoMax _ _ _ _ _ => 4 | .mamoAnd _ _ _ _ => 5
  | .mamoOr _ _ _ _ => 6 | .mamoXor _ _ _ _ => 7 | .mamoSwap _ _ _ _ => 8 | .mamoCas _ _ _ _ _ => 9
  | _ => 0

/-- The access type of an instruction (R108); .b32 where it has none. -/
def accessType : Instr → Nat
  | .scld _ _ t _ => t.toNat | .scst _ _ _ t _ => t.toNat | .scamoAdd _ _ _ t _ => t.toNat
  | .scamoMin _ _ _ t _ => t.toNat | .scamoMax _ _ _ t _ => t.toNat | .mtfill _ _ _ t => t.toNat
  | .mld _ _ t _ => t.toNat | .mst _ _ _ t _ => t.toNat | .mldNc _ _ t _ => t.toNat | .mstNc _ _ _ t _ => t.toNat
  | .mgath _ _ t _ => t.toNat | .mscat _ _ _ t _ => t.toNat | .mamoAdd _ _ _ t _ => t.toNat
  | .mamoMin _ _ _ t _ => t.toNat | .mamoMax _ _ _ t _ => t.toNat
  | _ => 4

/-- The lane of flight `id` has performed with result `v`; an owner node counts it (R274). -/
def laneDone (c : Core) (id lane : Nat) (v : W32) (ok : Bool) : Core :=
  match c.flights.find? fun f => f.id == id with
  | none => c
  | some f =>
    let c := { c with
      flights := mapWhere c.flights (fun g => g.id == id)
        (fun g => { g with left := g.left - 1, cancelled := g.cancelled || !ok, res := g.res.set lane ⟨v, false⟩ }) }
    let u := unitAt c f.unit
    if ok && isOwner f.unit (u.slot f.slot) then
      let r := fireRound f.fire
      let a := (u.accs.find? fun a => a.slot == f.slot && a.round == r).getD
        { slot := f.slot, round := r, frame := 0, ctx := 0, place := firePlace f.fire, vals := [], count := 0 }
      setUnit c f.unit (setAcc u { a with count := (a.count + 1) % 2 ^ 32 })
    else c

/-- Ends flight `id` of core `k` when every lane has performed. -/
def settleFlight (s : State) (k id : Nat) (ordSent : Bool) : State :=
  match (coreAt s k).flights.find? fun f => f.id == id with
  | some f => if f.left = 0 then endFlight s k f (dstOf f.op) ordSent else s
  | none => s

/-- Two accesses overlap. -/
def overlap (a b : Access) : Bool := decide (a.addr < b.addr + b.size ∧ b.addr < a.addr + a.size)

/-- SU_HOLDING_ACCESS: request `idx` of those on their way to holding unit `unit` (24·rank + unit number) performs there, a
store or an atomic only behind the lanes of its run with lower tags that overlap it (R90, R264, R265, R271, R272). -/
def execSuHoldingAccess (unit idx : Nat) (s : State) : Host.Outcome State Fault Refusal :=
  if unit ≥ 96 then .fault .noSuchUnit
  else .next (
    let k := s.core
    let c := cur s
    let q := mapGetD c.hold unit []
    match q[idx]? with
    | none => s
    | some a =>
      match c.flights.find? fun f => f.id == a.flight with
      | none => s
      | some f =>
        if accessKind f.op ≠ 0 && q.any fun b => b.flight == a.flight && decide (b.tag < a.tag) && overlap a b then s
        else
          let rest := dropNth q idx
          let c := { c with hold := if rest.isEmpty then mapDel c.hold unit else mapSet c.hold unit rest }
          let s := setCur s c
          let m := peer k (a.addr / 2 ^ 22)
          let off := a.addr % 2 ^ 22
          let d := coreAt s m
          if isBad d.badScratch off a.size then
            let sp := fireSpan f.fire
            let s := updCur s fun c => laneDone c a.flight a.lane 0 false
            match f.unit with
            | .site x y => settleFlight (scratchFault s k x y f.slot 0x05 sp.1 sp.2 (BitVec.ofNat 64 a.addr)) k a.flight false
            | _ => s
          else
            let old := memNat d.scratch off a.size
            let kind := accessKind f.op
            let t := accessType f.op
            let put := fun v => updCore s m fun d => { d with scratch := memWrite d.scratch off (leBytes a.size v) }
            let done := fun (s : State) (v : W32) => settleFlight (updCur s fun c => laneDone c a.flight a.lane v true) k a.flight false
            if kind = 0 then done s (accExt t old)
            else if kind = 1 then done (put a.data.toNat) 0
            else
              let n := atomNew (kind - 2) (t == 7) (t == 5) 32 old a.data.toNat a.cmp.toNat
              done (updCur (put n.1) fun c => raisePlace c (unitAt c f.unit).place n.2) (BitVec.ofNat 32 old))

/-- `scld` (R271). -/
def execScld (d a t w : BitVec 3) (s : State) : Host.Outcome State Fault Refusal :=
  .next (scratchFire (.scld d a t w) w.toNat (accSize t.toNat) true false a.toNat none none s)
/-- `scst` (R271). -/
def execScst (d a b t w : BitVec 3) (s : State) : Host.Outcome State Fault Refusal :=
  .next (scratchFire (.scst d a b t w) w.toNat (accSize t.toNat) false true a.toNat (some b.toNat) none s)
/-- `scamo.add` (R272). -/
def execScamoAdd (d a b t w : BitVec 3) (s : State) : Host.Outcome State Fault Refusal :=
  .next (scratchFire (.scamoAdd d a b t w) w.toNat 4 true true a.toNat (some b.toNat) none s)
/-- `scamo.min` (R272). -/
def execScamoMin (d a b t w : BitVec 3) (s : State) : Host.Outcome State Fault Refusal :=
  .next (scratchFire (.scamoMin d a b t w) w.toNat 4 true true a.toNat (some b.toNat) none s)
/-- `scamo.max` (R272). -/
def execScamoMax (d a b t w : BitVec 3) (s : State) : Host.Outcome State Fault Refusal :=
  .next (scratchFire (.scamoMax d a b t w) w.toNat 4 true true a.toNat (some b.toNat) none s)
/-- `scamo.and` (R272). -/
def execScamoAnd (d a b w : BitVec 3) (s : State) : Host.Outcome State Fault Refusal :=
  .next (scratchFire (.scamoAnd d a b w) w.toNat 4 true true a.toNat (some b.toNat) none s)
/-- `scamo.or` (R272). -/
def execScamoOr (d a b w : BitVec 3) (s : State) : Host.Outcome State Fault Refusal :=
  .next (scratchFire (.scamoOr d a b w) w.toNat 4 true true a.toNat (some b.toNat) none s)
/-- `scamo.xor` (R272). -/
def execScamoXor (d a b w : BitVec 3) (s : State) : Host.Outcome State Fault Refusal :=
  .next (scratchFire (.scamoXor d a b w) w.toNat 4 true true a.toNat (some b.toNat) none s)
/-- `scamo.swap` (R272). -/
def execScamoSwap (d a b w : BitVec 3) (s : State) : Host.Outcome State Fault Refusal :=
  .next (scratchFire (.scamoSwap d a b w) w.toNat 4 true true a.toNat (some b.toNat) none s)
/-- `scamo.cas` (R272). -/
def execScamoCas (d a b c w : BitVec 3) (s : State) : Host.Outcome State Fault Refusal :=
  .next (scratchFire (.scamoCas d a b c w) w.toNat 4 true true a.toNat (some b.toNat) (some c.toNat) s)

-- circular buffers ------------------------------------------------------------------------------------------------

/-- A buffer at cohort start (R276). -/
def Cb.reset : Cb := { rp := 0, vp := 0, cp := 0, prod := [], cons := [] }
/-- The buffer home under key `n`. -/
def cbAt (c : Core) (n : Nat) : Cb := mapGetD c.cbs n Cb.reset
/-- Buffer record `n` of a cohort (R268). -/
def bufOf (h : Option Cohort) (n : Nat) : Word := match h with | some h => nthD h.bufs n 0 | none => 0
/-- NSLOT. -/
def bufSlots (w : Word) : Nat := w.toNat / 2 ^ 24 % 2 ^ 17
/-- 4·BASE4. -/
def bufBase (w : Word) : Nat := w.toNat / 4 % 2 ^ 19 * 4
/-- Byte of buffer slot `i`. -/
def bufByte (w : Word) (i : Nat) : Nat := bufBase w + 4 * (i % bufSlots w)
/-- `filled` of R276. -/
def cbFilled (b : Cb) : Nat := (b.cp - b.rp).toNat
/-- `free` of R276, modulo 2^32. -/
def cbFree (b : Cb) (n : Nat) : Nat := (BitVec.ofNat 32 n - (b.vp - b.rp)).toNat

/-- A cb instruction's firing (R277): its request joins the producer or consumer queue of its buffer's home; without an
acting lane it passes. -/
def cbFire (op : Instr) (consumer : Bool) (s : State) : State :=
  let id := UnitId.site s.locus.x s.locus.y
  match takeFire s id with
  | none => s
  | some (f, sl, core) =>
    let n := cbKey core (unitAt core id).place sl.k0.toNat
    let b := cbAt core n
    let ls := unitLanes id sl f
    let none' := !(ls.any (·.act))
    if !none' && (if consumer then b.cons else b.prod).length ≥ 8 then s
    else
      let fl := newFlight s id op f ls (if none' then 0 else 1)
      let s := addFlight (setCur s core) fl
      if none' then endFlight s s.core fl (dstOf op) false
      else
        let b' := if consumer then { b with cons := b.cons ++ [fl.id] } else { b with prod := b.prod ++ [fl.id] }
        updCur s fun c => { c with cbs := mapSet c.cbs n b' }

/-- `cbput` (R277, R278). -/
def execCbput (d a : BitVec 3) (s : State) : Host.Outcome State Fault Refusal := .next (cbFire (.cbput d a) false s)
/-- `cbget` (R277, R278). -/
def execCbget (d a : BitVec 3) (s : State) : Host.Outcome State Fault Refusal := .next (cbFire (.cbget d a) true s)
/-- `cbadv.rd`, `cbadv.wr` (R277). -/
def execCbadv (d a : BitVec 3) (m : BitVec 1) (s : State) : Host.Outcome State Fault Refusal :=
  .next (cbFire (.cbadv d a m) (m == 0) s)
/-- `cbwait.fill`, `cbwait.free` (R277). -/
def execCbwait (d a : BitVec 3) (m : BitVec 1) (s : State) : Host.Outcome State Fault Refusal :=
  .next (cbFire (.cbwait d a m) (m == 0) s)

/-- What a request at the head of a queue does (R277, R278): wait, a fault with its cause, or the buffer's new pointers,
the words it writes and the lanes it returns. -/
inductive CbAct where
  | wait | bad (cause : Nat) | act (b : Cb) (writes : List (Nat × W32)) (res : List (Nat × W32))
  deriving DecidableEq, Repr

/-- The request of R277 with acting lanes `ls` of slot `sl`. A message's slot numbers VP + i and RP + A are not cut to 32 bits before they
are taken modulo NSLOT (R276; log entry 109). -/
def cbServe (c : Core) (b : Cb) (w : Word) (sl : Slot) (op : Instr) (ls : List Work) : CbAct :=
  let ns := bufSlots w
  let val := fun (a : BitVec 3) (l : Work) => unitSrc sl l a.toNat
  let low := match ls with | l :: r => r.foldl (fun m e => if e.tag < m.tag then e else m) l
                           | [] => { tag := 0, pos := 0, ins := [], act := false, prev := 0, res := ⟨0, true⟩ }
  let sorted := (ls.map fun l => (l.tag, l.pos)).foldr (fun a r =>
    (r.takeWhile fun e => e.1 < a.1) ++ a :: (r.dropWhile fun e => e.1 < a.1)) []
  let zeros := ls.map fun l => (l.pos, (0 : W32))
  match op with
  | .cbput _ a =>
    let n := ls.length
    if n > sl.k1.toNat % 64 then .bad 3
    else if cbFree b ns < n then .wait
    else
      let writes := (List.range n).map fun i =>
        (bufByte w (b.vp.toNat + i), match sorted[i]? with
          | some e => ((ls.find? fun l => l.pos == e.2).map (val a)).getD 0
          | none => 0)
      if writes.any fun e => isBad c.badScratch e.1 4 then .bad 5
      else .act { b with vp := b.vp + BitVec.ofNat 32 n, cp := b.cp + BitVec.ofNat 32 n } writes zeros
  | .cbadv _ a m =>
    let k := (val a low).toNat
    if m == 1 then
      (if k > ns then .bad 3 else if cbFree b ns < k then .wait
       else .act { b with vp := b.vp + BitVec.ofNat 32 k, cp := b.cp + BitVec.ofNat 32 k } [] zeros)
    else if k > cbFilled b then .bad 3 else .act { b with rp := b.rp + BitVec.ofNat 32 k } [] zeros
  | .cbwait _ a m =>
    let k := (val a low).toNat
    let have' := if m == 1 then cbFree b ns else cbFilled b
    if k > ns then .bad 3 else if have' < k then .wait
    else .act b [] (ls.map fun l => (l.pos, BitVec.ofNat 32 have'))
  | .cbget _ a =>
    if ls.any fun l => (val a l).toNat ≥ ns then .bad 3
    else if ls.any fun l => cbFilled b ≤ (val a l).toNat then .wait
    else if ls.any fun l => isBad c.badScratch (bufByte w (b.rp.toNat + (val a l).toNat)) 4 then .bad 5
    else .act b [] (ls.map fun l => (l.pos, BitVec.ofNat 32 (memNat c.scratch (bufByte w (b.rp.toNat + (val a l).toNat)) 4)))
  | _ => .act b [] []

/-- The buffer home under key `cb` acts on the head request of a queue (R277, R278); none while there is none or it waits. A
record of cause 0x03 or 0x05 names no address (log entry 93). -/
def serveCb (cb : Nat) (consumer : Bool) (s : State) : Option State :=
  let k := s.core
  let c := cur s
  let b := cbAt c cb
  match (if consumer then b.cons else b.prod).head?.bind fun id => c.flights.find? fun f => f.id == id with
  | none => none
  | some f =>
    match f.unit with
    | .site x y =>
      let u := siteAt c x y
      let sl := u.slot f.slot
      let ls := (unitLanes f.unit sl f.fire).filter (·.act)
      let pop := fun (b : Cb) => if consumer then { b with cons := b.cons.drop 1 } else { b with prod := b.prod.drop 1 }
      match cbServe c b (bufOf (placeCohort c u.place) (cb % 16)) sl f.op ls with
      | .wait => none
      | .bad cause =>
        let sp := fireSpan f.fire
        let s := setCur s { c with
          cbs := mapSet c.cbs cb (pop b)
          flights := mapWhere c.flights (fun g => g.id == f.id) (fun g => { g with left := 0, cancelled := true }) }
        some (settleFlight (scratchFault s k x y f.slot cause sp.1 sp.2 0) k f.id false)
      | .act b' writes res =>
        let c := { c with
          cbs := mapSet c.cbs cb (pop b')
          scratch := writes.foldl (fun m e => memWrite m e.1 (leBytes 4 e.2.toNat)) c.scratch
          flights := mapWhere c.flights (fun g => g.id == f.id)
            (fun g => { g with left := 0, res := res.foldl (fun r e => r.set e.1 ⟨e.2, false⟩) g.res }) }
        some (settleFlight (setCur s c) k f.id false)
    | _ => none

/-- CB_REQUEST_SERVE: the home of buffer `cb` acts on the head request of its producer or consumer queue (R277, R278); under a
chained start, on the successor's while the predecessor's has none that can go on (R276). The record of a fault names the address
that log entry 93 says. -/
def execCbRequestServe (cb : Nat) (consumer : Bool) (s : State) : Host.Outcome State Fault Refusal :=
  if cb ≥ 16 then .fault .noSuchUnit
  else .next ((serveCb cb consumer s <|> serveCb (cb + 16) consumer s).getD s)

-- tile fill -------------------------------------------------------------------------------------------------------

/-- A firing that acts on the tile store of its own core at once: `act` gives a fault with its cause and address, or the
matrix state (R279). The result lanes are zero, those of `mtfill` too (log entry 94). -/
def tileFire (op : Instr) (act : Core → Slot → List Work → Except (Nat × Nat) Matrix) (s : State) : State :=
  let x := s.locus.x; let y := s.locus.y
  let id := UnitId.site x y
  match takeFire s id with
  | none => s
  | some (f, sl, core) =>
    let ls := unitLanes id sl f
    let s := setCur s core
    match act core sl (ls.filter (·.act)) with
    | .error e =>
      let sp := fireSpan f
      scratchFault (consumeFire s f) s.core x y s.locus.slot e.1 sp.1 sp.2 (BitVec.ofNat 64 e.2)
    | .ok m =>
      let fl := newFlight s id op f ls 0
      endFlight (addFlight (setCur s { core with mx := m }) fl) s.core fl (dstOf op) false

/-- `mtfill` (R279). Of several faults of one run the bound comes first, then the alignment, then the tile's tag; log entry 93
says what address a record names, log entry 94 what an error in the tile store gives. -/
def execMtfill (d a b t : BitVec 3) (s : State) : Host.Outcome State Fault Refusal :=
  .next (tileFire (.mtfill d a b t) (fun c sl ls =>
    let tile := sl.k0.toNat % 64
    let size := accSize t.toNat
    let offs := ls.map fun l => (l.tag, (unitSrc sl l a.toNat).toNat, unitSrc sl l b.toNat)
    let first := fun (p : Nat → Bool) => (offs.filter fun e => p e.2.1).foldl (fun (m : Option (Nat × Nat)) e =>
      match m with | some q => if e.1 < q.1 then some (e.1, e.2.1) else m | none => some (e.1, e.2.1)) none
    match first fun o => o ≥ 16384 with
    | some e => .error (4, e.2)
    | none =>
      match first fun o => o % size ≠ 0 with
      | some e => .error (2, e.2)
      | none =>
        let g := tagOf c.mx tile
        if ls.isEmpty then .ok c.mx
        else if g = .full ∨ g = .busy then .error (4, 16384 * tile)
        else if offs.any fun e => isBad c.badTile (16384 * tile + e.2.1) size then .error (5, 16384 * tile)
        else
          let sorted := offs.foldr (fun a r => (r.takeWhile fun e => e.1 < a.1) ++ a :: (r.dropWhile fun e => e.1 < a.1)) []
          .ok { setTag c.mx tile .filling with
            tile := sorted.foldl (fun m e => memWrite m (16384 * tile + e.2.1) (leBytes size e.2.2.toNat)) c.mx.tile }) s)

/-- `mttag` (R279). -/
def execMttag (d : BitVec 3) (s : State) : Host.Outcome State Fault Refusal :=
  .next (tileFire (.mttag d) (fun c sl ls =>
    let tile := sl.k0.toNat % 64
    let g := tagOf c.mx tile
    if ls.isEmpty then .ok c.mx
    else if g = .full ∨ g = .busy then .error (4, 16384 * tile)
    else .ok (setTag c.mx tile .full)) s)

end Sys2Proof.Machine
end

