-- ==== Sys2Proof/Machine/Stream.lean ====
section
/-! DEFINITION. The stream engine (section 12): pattern records, generators and extents, commands, ports, barriers, multicast,
tile and weight loads, sparse and remote streams. -/

namespace Sys2Proof.Machine

-- pattern records -------------------------------------------------------------------------------------------------

/-- NDIM (R307). -/
def pNdim (r : List Word) : Nat := rfld r 1 0 3
/-- TYPE. -/
def pType (r : List Word) : Nat := rfld r 1 8 3
/-- DIR: 1 memory is written. -/
def pWrites (r : List Word) : Bool := rfld r 1 11 1 == 1
/-- SCOPE. -/
def pScope (r : List Word) : Nat := rfld r 1 12 3
/-- SPACE: 1 scratchpad window. -/
def pSpace (r : List Word) : Nat := rfld r 1 15 2
/-- WIN. -/
def pWin (r : List Word) : Nat := rfld r 1 17 3
/-- RDIM. -/
def pRdim (r : List Word) : Nat := rfld r 1 20 3
/-- STOPM. -/
def pStopm (r : List Word) : Nat := rfld r 1 23 5
/-- MAP. -/
def pByTag (r : List Word) : Bool := rfld r 1 28 1 == 1
/-- TAGBASE. -/
def pTag (r : List Word) : Nat := rfld r 1 32 12
/-- KIND: control elements. -/
def pControl (r : List Word) : Bool := rfld r 1 44 1 == 1
/-- COUNT_d. -/
def pCount (r : List Word) (d : Nat) : Nat := rfld r (2 + 2 * d) 0 32
/-- EXT_d. -/
def pExt (r : List Word) (d : Nat) : Nat := rfld r (2 + 2 * d) 32 32
/-- STRIDE_d. -/
def pStride (r : List Word) (d : Nat) : Int := (BitVec.ofNat 40 (rfld r (3 + 2 * d) 0 40)).toInt
/-- ORG_d. -/
def pOrg (r : List Word) (d : Nat) : Int := (BitVec.ofNat 24 (rfld r (3 + 2 * d) 40 24)).toInt
/-- Element size in bytes. -/
def pSize (r : List Word) : Nat := accSize (pType r)
/-- P_d of R308. -/
def pProd (r : List Word) : Nat → Nat
  | 0 => 1
  | d + 1 => pProd r d * pCount r d
/-- N. -/
def pN (r : List Word) : Nat := pProd r (pNdim r)
/-- E. -/
def pE (r : List Word) : Nat := pProd r (pRdim r)
/-- i_d of element `e`. -/
def pIdx (r : List Word) (e d : Nat) : Nat := e / pProd r d % pCount r d
/-- c_d of element `e`. -/
def pCoord (r : List Word) (e d : Nat) : Int := pOrg r d + pIdx r e d
/-- Element `e` is null (R308). -/
def pNull (r : List Word) (e : Nat) : Bool :=
  (List.range (pNdim r)).any fun d => pCoord r e d < 0 || (pExt r d : Int) ≤ pCoord r e d
/-- addr(e). -/
def pAddr (r : List Word) (e : Nat) : Nat :=
  let a := ((nthD r 0 0).toNat : Int) + ((List.range (pNdim r)).map fun d => pCoord r e d * pStride r d).foldl (· + ·) 0
  (BitVec.ofInt 64 a).toNat % (if pSpace r = 1 then 2 ^ 32 else 2 ^ 64)
/-- Element `e` completes dimension `d`. -/
def pCompletes (r : List Word) (e d : Nat) : Bool := (List.range (d + 1)).all fun j => pIdx r e j + 1 = pCount r j

/-- The record passes R309 as a command reads it: a port stream or not, with DIR 1 allowed or not. -/
def patternOk (r : List Word) (onPort dir1 window : Bool) : Bool :=
  let n := pNdim r
  let dims := List.range n
  rfld r 1 3 5 = 0 && rfld r 1 45 19 = 0 && 1 ≤ n && n ≤ 5 && pScope r ≤ 5 && pSpace r ≤ 1 && rfld r 1 29 3 ≤ 3 &&
  (if pSpace r = 1 then window && rfld r 0 32 32 = 0 && 1 ≤ pScope r else rfld r 1 17 3 = 0 && 2 ≤ pScope r) &&
  (dir1 || !pWrites r) &&
  (if onPort then 1 ≤ pRdim r && pRdim r ≤ n else pRdim r = 0 && pTag r = 0 && pStopm r = 0 && !pByTag r && !pControl r) &&
  (!pByTag r || pWrites r) && pStopm r / 2 ^ n = 0 && (!pControl r || (!pWrites r && pType r = 4)) &&
  (dims.all fun d => pCount r d ≠ 0) && pN r ≤ 2 ^ 48 &&
  (List.range 5).all fun d => d < n || (ronly r (2 + 2 * d) 0 && ronly r (3 + 2 * d) 0)

/-- The lowest and highest byte of the elements that are not null (R188, R308). -/
def pSpan (r : List Word) : Option (Nat × Nat) :=
  let dims := (List.range (pNdim r)).map fun d =>
    let lo : Int := max 0 (-pOrg r d)
    let hi : Int := min ((pCount r d : Int) - 1) ((pExt r d : Int) - 1 - pOrg r d)
    (lo, hi, (pOrg r d + lo) * pStride r d, (pOrg r d + hi) * pStride r d)
  if dims.any fun e => e.1 > e.2.1 then none
  else
    let base : Int := (nthD r 0 0).toNat
    let lo := base + (dims.map fun e => min e.2.2.1 e.2.2.2).foldl (· + ·) 0
    let hi := base + (dims.map fun e => max e.2.2.1 e.2.2.2).foldl (· + ·) 0 + pSize r - 1
    some ((BitVec.ofInt 64 lo).toNat, (BitVec.ofInt 64 hi).toNat)

-- sparse records --------------------------------------------------------------------------------------------------

/-- NROWS (R325). -/
def spRows (r : List Word) : Nat := rfld r 3 0 13
/-- SH. -/
def spHeight (r : List Word) : Nat := rfld r 3 16 6
/-- VFMT. -/
def spFmt (r : List Word) : Nat := rfld r 3 24 4
/-- SCOPE. -/
def spScope (r : List Word) : Nat := rfld r 3 28 3
/-- TAGBASE. -/
def spTag (r : List Word) : Nat := rfld r 3 32 12
/-- NCOLS. -/
def spCols (r : List Word) : Nat := rfld r 4 0 32
/-- NSL. -/
def spSlices (r : List Word) : Nat := (spRows r + spHeight r - 1) / spHeight r
/-- Bytes of a value. -/
def fmtSize (f : Nat) : Nat :=
  match f with
  | 0 => 4 | 1 => 2 | 2 => 2 | 9 => 2 | 0xA => 4 | 0xC => 2 | 0xD => 4 | _ => 1
/-- A value in its format as a lane holds it (R247). -/
def fmtLane (f v : Nat) : W32 :=
  if f = 8 then (BitVec.ofNat 8 v).signExtend 32 else if f = 9 then (BitVec.ofNat 16 v).signExtend 32 else BitVec.ofNat 32 v

/-- The record passes R325. -/
def sparseOk (r : List Word) : Bool :=
  let f := spFmt r
  ronly r 3 0x7FFF7F3F1FFF && ronly r 4 0xFFFFFFFF && ronly r 5 0 && ronly r 6 0 && ronly r 7 0 &&
  1 ≤ spRows r && spRows r ≤ 4096 && 1 ≤ spHeight r && spHeight r ≤ 32 && (f ≤ 4 || (8 ≤ f && f ≤ 0xD)) &&
  2 ≤ spScope r && spScope r ≤ 5 && rfld r 3 44 3 ≤ 3 && 1 ≤ spCols r

-- generators ------------------------------------------------------------------------------------------------------

/-- Generator `g`. -/
def genAt (c : Core) (g : Nat) : Gen := mapGetD c.gens g Gen.reset
/-- Sets generator `g`; the partner of a sparse stream takes the same state (R306). -/
def putGen (c : Core) (g : Nat) (v : Gen) : Core :=
  let c := { c with gens := mapSet c.gens g v }
  if v.fn = 6 then
    { c with gens := mapSet c.gens (g + 1) { Gen.reset with st := v.st, fn := 6, cmd := v.cmd, doneN := v.doneN } }
  else c
/-- The generators of a stream become FREE. -/
def freeGen (c : Core) (g : Nat) : Core :=
  { c with gens := if (genAt c g).fn = 6 then mapDel (mapDel c.gens g) (g + 1) else mapDel c.gens g }
/-- The generator that leads the stream of `g`: the even one of a sparse pair. -/
def lead (c : Core) (g : Nat) : Nat := if g % 2 = 1 && (genAt c g).st != .free && (genAt c g).fn = 6 then g - 1 else g
/-- Leading generators that a mask names. -/
def leads (c : Core) (mask : Nat) : List Nat :=
  (((List.range 16).filter fun i => mask / 2 ^ i % 2 = 1).map (lead c)).eraseDups
/-- The cohort that a generator works for. -/
def genCohort (c : Core) (v : Gen) : Option Cohort :=
  match cmdAt c v.cmd with | some m => cmdCohort c m | none => fabricCohort c
/-- The generator's cohort has not ended (R35). -/
def genLive (c : Core) (v : Gen) : Bool := match genCohort c v with | some h => !h.fatal | none => false
/-- A load stream on one or more ports. -/
def isLoad (v : Gen) : Bool := v.fn = 6 || v.fn = 3 || (v.fn = 0 && !pWrites v.rcd)
/-- A store stream on a port. -/
def isStore (v : Gen) : Bool := v.fn = 0 && pWrites v.rcd
/-- Scope of a stream. -/
def genScope (v : Gen) : Nat := if v.fn = 6 then spScope v.rcd else pScope v.rcd

/-- A stream fault (R328), charged to the command's cohort. Which address a cause without a virtual or remote address of its own gives is
the model's choice (log entry 111). -/
def streamFault (s : State) (n g cause : Nat) (fatal : Bool) (port addr : Nat) : State :=
  let v := genAt (coreAt s n) g
  let prev := match cmdAt (coreAt s n) v.cmd with | some m => m.prev | none => true
  updCmd (faultAt s n (!prev) { Record.mk' 0x0D 4 cause fatal with sp := g + 16 * port, addr := BitVec.ofNat 64 addr }) n v.cmd
    fun m => { m with record := true }

/-- The port that a record of a generator names. -/
def genPort (v : Gen) : Nat := nthD v.ports 0 0

/-- A generator parks on a translation fault (R187, R192). -/
def parkGen (s : State) (n g cause : Nat) (va : Nat) : State :=
  let c := coreAt s n
  let v := genAt c g
  match genCohort c v with
  | none => s
  | some h =>
    let q := (ctxAt s h.ctx).seq
    let c := putGen c g { v with st := .parked }
    let s := setCore s n { c with parked := c.parked ++
      [{ seq := q, who := .generator g, va := BitVec.ofNat 64 va, inRing := false, answer := 0 }] }
    putRecord s h.ctx h.lid (some h.launch)
      { Record.mk' 0x09 4 cause false with park := true, core := n, addr := BitVec.ofNat 64 va, sp := g + 16 * genPort v }

-- extents ---------------------------------------------------------------------------------------------------------

/-- The access that a stream's translations need (R188). -/
def genNeed (v : Gen) : Need := if v.fn ≠ 6 && pWrites v.rcd then .write else .read

/-- The extent of the page that a walk for `va` found. -/
def pageExtent (va : Nat) (p : Tlb) : Extent :=
  { va := va / p.size * p.size, size := p.size, pa := p.pa, rd := p.rd, wr := p.wr, ex := p.ex, ok := true, last := none }

/-- Walks pages from `va` to `hi` into extents, each a run of pages with one permission set; stops at the 16th or before the
first page that faults (R188). -/
def walkSpan (n : Nat) (need : Need) (hi : Nat) : Nat → State → Nat → List Extent → State × List Extent
  | 0, s, _, xs => (s, xs)
  | f + 1, s, va, xs =>
    if va > hi then (s, xs)
    else match translateAt s n (BitVec.ofNat 64 va) need with
      | (_, .error _) => (s, xs)
      | (t, .ok p) =>
        let lo := va / p.size * p.size
        let joined := match xs.getLast? with
          | some x => x.va + x.size == lo && x.pa + x.size == p.pa && x.rd == p.rd && x.wr == p.wr && x.ex == p.ex
          | none => false
        if joined then
          walkSpan n need hi f t (lo + p.size)
            (xs.dropLast ++ (xs.getLast?.map fun x => { x with size := x.size + p.size }).toList)
        else if xs.length ≥ 16 then (s, xs)
        else walkSpan n need hi f t (lo + p.size) (xs ++ [pageExtent va p])

/-- Walks every page from `va` to `hi` again; a page that faults gives no extent (R189). -/
def walkEach (n : Nat) (need : Need) (hi : Nat) : Nat → State → Nat → List Extent → State × List Extent
  | 0, s, _, xs => (s, xs)
  | f + 1, s, va, xs =>
    if va > hi then (s, xs)
    else
      let e := va / 65536 * 65536 + 65535
      match walkSpan n need (min e hi) 1 s va [] with
      | (t, []) => walkEach n need hi f t (e + 1) xs
      | (t, x :: _) => walkEach n need hi f t (x.va + x.size) (xs ++ [x])

/-- The extents that a binding makes for a pattern (R188). -/
def bindExtents (s : State) (n : Nat) (r : List Word) : State × List Extent :=
  if pSpace r = 1 then (s, [])
  else match pSpan r with
    | none => (s, [])
    | some (lo, hi) => walkSpan n (if pWrites r then .write else .read) hi ((hi - lo) / 65536 + 2) s lo []

/-- The physical address of `va` through an extent of the generator that no invalidation has marked (R189). -/
def extentOf (v : Gen) (va : Nat) : Option Nat :=
  (v.extents.find? fun x => x.ok && x.va ≤ va && va < x.va + x.size).map fun x => x.pa + (va - x.va)

/-- The physical addresses of `size` bytes from `va`, each through an extent: bytes of one access may lie in two pages
(R185, R325). -/
def extentBytes (v : Gen) (va size : Nat) : Option (List Nat) :=
  (List.range size).foldr (fun i r => match extentOf v ((va + i) % 2 ^ 64), r with
    | some a, some l => some (a :: l)
    | _, _ => none) (some [])

/-- The generator notes the extents that it uses now. -/
def touch (v : Gen) (vas : List Nat) : Gen :=
  let uses := fun (x : Extent) => vas.any fun a => x.va ≤ a && a < x.va + x.size
  { v with extents := v.extents.map fun x => if uses x then { x with last := some v.doneN } else x }

/-- The extent furthest behind the generator (R188): the one used longest ago; where it has used none, the one furthest from
the address that it reaches (log entry 84). -/
def furthestBehind (va : Nat) (xs : List Extent) : Option Extent :=
  let far := fun (x : Extent) => max x.va va - min x.va va
  let pick := fun (p : Extent → Extent → Bool) (l : List Extent) =>
    l.foldl (fun (a : Option Extent) x => match a with | some y => if p x y then some x else a | none => some x) none
  match pick (fun x y => x.last.getD 0 < y.last.getD 0) (xs.filter (·.last.isSome)) with
  | some x => some x
  | none => pick (fun x y => far y < far x) xs

/-- What an element's access answers. -/
inductive Reach where
  | value (v : Nat) | bounds | memory | walk
  deriving DecidableEq, Repr

/-- One access of a generator at its place, of `size` bytes: a read, or a write of `w` (R79, R273, R308). -/
def genAccess (s : State) (n : Nat) (v : Gen) (va size : Nat) (w : Option Nat) : State × Reach :=
  if v.fn ≠ 6 && pSpace v.rcd = 1 then
    match resolveWin s n (genCohort (coreAt s n) v) (BitVec.ofNat 32 va) (pWin v.rcd) size w.isNone w.isSome with
    | .error _ => (s, .bounds)
    | .ok (r, a) =>
      let k := peer n r
      if isBad (coreAt s k).badScratch a size then (s, .memory)
      else match w with
        | none => (s, .value (memNat (coreAt s k).scratch a size))
        | some x => (updCore s k fun c => { c with scratch := memWrite c.scratch a (leBytes size x) }, .value 0)
  else match extentBytes v va size with
    | none => (s, .walk)
    | some pas =>
      if pas.any fun a => placeBad s a 1 then (s, .memory)
      else match w with
        | none => (s, .value (leNat (pas.flatMap fun a => memRead s.mem a 1)))
        | some x => (placeWrite s (nthD pas 0 0) (leBytes size x), .value 0)

-- tokens of a load ------------------------------------------------------------------------------------------------

/-- A contiguous run of values from tag `base`; none is a null lane. -/
def loadedRun (ctx base : Nat) (vs : List (Option W32)) : Tok :=
  { bareTok .run 0 0 ctx 0 with
    tags := (List.range vs.length).map (· + base)
    lanes := vs.map fun x => match x with | some w => ⟨w, false⟩ | none => ⟨0, true⟩ }
/-- A stop token of level `l`. -/
def stopTok (ctx l : Nat) : Tok := { bareTok .stop 0 0 ctx 0 with level := l }
/-- The marker that closes the port's current round. -/
def markTok (ctx : Nat) : Tok := bareTok .marker 0 0 ctx 0
/-- A control token of an element (R313). -/
def ctlTok (ctx : Nat) (w : W32) : Tok :=
  { bareTok .control 0 0 ctx 0 with lanes := ⟨w, false⟩ :: List.replicate 15 ⟨0, false⟩ }

/-- The values gathered so far as a run, if there are any. -/
def gathered (v : Gen) (ctx : Nat) (vs : List (Option W32)) : List Tok :=
  if vs.isEmpty then []
  else
    let base := if v.fn = 6 then spTag v.rcd + v.slice * spHeight v.rcd
      else pTag v.rcd + (v.pos - vs.length) % pE v.rcd
    [loadedRun ctx base vs]

/-- The stream has produced its last element: ENDING (R306). -/
def endIfDone (v : Gen) : Gen := if v.pos ≥ pN v.rcd && !v.waitAck then { v with st := .ending } else v

/-- A load stream takes element `pos`, null or with its value: its tokens join the decoupling queue (R313). -/
def loadElement (v : Gen) (ctx : Nat) (x : Option W32) : Gen :=
  let r := v.rcd; let e := v.pos; let m := e % pE r
  let stops := ((List.range 5).filter fun d => pStopm r / 2 ^ d % 2 = 1 && pCompletes r e d).map fun d => stopTok ctx (d + 1)
  let last := m + 1 = pE r
  let v := { v with pos := e + 1, doneN := v.doneN + 1 }
  let vals := v.loaded ++ [x]
  let cut := m % 32 = 31 || last || !stops.isEmpty
  let v := if pControl r then { v with q := v.q ++ (x.map (ctlTok ctx)).toList }
    else if cut then { v with q := v.q ++ gathered v ctx vals, loaded := [] } else { v with loaded := vals }
  endIfDone { v with q := v.q ++ stops ++ if last then [markTok ctx] else [] }

/-- Both decoupling queues are within 256 beats (R305). -/
def queueFits (v : Gen) : Bool := qBeats v.q ≤ 256 && qBeats v.q2 ≤ 256

/-- Appends tokens to both queues of a sparse stream. -/
def both (v : Gen) (ts : List Tok) : Gen := { v with q := v.q ++ ts, q2 := v.q2 ++ ts }

/-- A sparse stream after a slice (R326). -/
def endSlice (v : Gen) (ctx : Nat) : Gen :=
  let v := both { v with slice := v.slice + 1, header := none, col := 0, row := 0 } [stopTok ctx 1]
  if v.slice ≥ spSlices v.rcd then { both v [stopTok ctx 2, markTok ctx] with st := .ending } else v

/-- A sparse stream takes one entry of slice `v.slice`: value and coordinate, or padding. -/
def sparseEntry (v : Gen) (ctx : Nat) (x : Option (W32 × W32)) (width : Nat) : Gen :=
  let r := v.rcd
  let h := min (spHeight r) (spRows r - v.slice * spHeight r)
  let vs := v.loaded ++ [x.map (·.1)]
  let cs := v.loaded2 ++ [x.map (·.2)]
  let v := { v with doneN := v.doneN + 1 }
  if v.row + 1 < h then { v with loaded := vs, loaded2 := cs, row := v.row + 1 }
  else
    let w := { v with q := v.q ++ gathered v ctx vs, q2 := v.q2 ++ gathered v ctx cs, loaded := [], loaded2 := [], row := 0,
                      col := v.col + 1 }
    if w.col ≥ width then endSlice w ctx else w

/-- Ends a stream as `sx.stop` does (R319). Elements loaded that are no whole run yet leave as a shorter run ahead of the closing marker
(log entry 110). -/
def stopGen (c : Core) (g : Nat) : Core :=
  let v := genAt c g
  let ctx := match genCohort c v with | some h => h.ctx | none => 0
  let queue := fun (c : Core) => v.ports.foldl (fun c x => setPort c x { portAt c x with fifo := (portAt c x).fifo ++ [(g, false)] }) c
  match v.st with
  | .held => queue (putGen c g { v with st := .ending, stopped := true })
  | .queued => putGen c g { v with st := .ending, stopped := true }
  | .free => c
  | .ending => c
  | st =>
    let pending := match v.q with | t :: r => (if t.tags.length ≤ 1 then r else { t with tags := t.tags.drop 1, lanes := t.lanes.drop 1 } :: r) | [] => []
    let v := { v with st := .ending, stopped := true }
    let v :=
      if v.fn = 6 then
        { v with q := v.q ++ gathered v ctx v.loaded ++ [markTok ctx], q2 := v.q2 ++ gathered v ctx v.loaded2 ++ [markTok ctx],
                 loaded := [], loaded2 := [] }
      else if isLoad v then { v with q := v.q ++ gathered v ctx v.loaded ++ [markTok ctx], loaded := [] }
      else if isStore v && st == .parked then { v with q := pending } else v
    let c := putGen c g v
    { c with parked := c.parked.filter fun p => p.who != .generator g }

/-- Ends a stream with a record that does not end the cohort (R326, R327). -/
def endWith (s : State) (n g cause addr : Nat) : State :=
  updCore (streamFault s n g cause false (genPort (genAt (coreAt s n) g)) addr) n fun c => stopGen c g

/-- An element's access that answers no value: a fault of the stream, or nothing until the loader has walked the page. -/
def refused (s : State) (n g va : Nat) (a : Reach) : State :=
  let p := genPort (genAt (coreAt s n) g)
  match a with
  | .bounds => streamFault s n g 0x01 true p va
  | .memory => streamFault s n g 0x0A true p va
  | _ => s

-- one element -----------------------------------------------------------------------------------------------------

/-- One element of a load stream (R308, R313). -/
def stepLoad (s : State) (n g ctx : Nat) (v : Gen) : State :=
  let r := v.rcd
  let put := fun s (w : Gen) => if queueFits w then updCore s n fun c => putGen c g w else s
  if pNull r v.pos then put s (loadElement v ctx none)
  else
    let va := pAddr r v.pos
    match genAccess s n v va (pSize r) none with
    | (s, .value x) => put s (loadElement v ctx (some (accExt (pType r) x)))
    | (s, a) => refused s n g va a

/-- The next write of a store stream (R315): the first lane of the tokens that its port took, whose tags are elements. -/
def stepStore (s : State) (n g : Nat) (v : Gen) : State :=
  match v.q with
  | [] => s
  | t :: rest =>
    match t.tags, t.lanes with
    | e :: es, l :: ls =>
      let q := if es.isEmpty then rest else { t with tags := es, lanes := ls } :: rest
      let done := fun s => updCore s n fun c => putGen c g { v with q := q, doneN := v.doneN + 1 }
      if l.null || pNull v.rcd e then done s
      else
        let va := pAddr v.rcd e
        match genAccess s n v va (pSize v.rcd) (some (l.v.toNat % 2 ^ (8 * pSize v.rcd))) with
        | (s, .value _) => done s
        | (s, a) => refused s n g va a
    | _, _ => updCore s n fun c => putGen c g { v with q := rest }

/-- One element of `sx.tile` (to the tile store) or `sx.wbload` (to the weight buffer) (R324). -/
def stepFill (s : State) (n g : Nat) (v : Gen) : State :=
  let r := v.rcd
  let size := pSize r
  let b := v.arg.toNat + v.pos * size
  let write := fun s (x : Nat) =>
    let c := coreAt s n
    let w := endIfDone { v with pos := v.pos + 1, doneN := v.doneN + 1 }
    if v.fn = 9 then
      let t := tagOf c.mx (b / 16384)
      if t == .full || t == .busy then streamFault s n g 0x02 true 0 b
      else if isBad c.badTile b size then streamFault s n g 0x0A true 0 b
      else setCore s n (putGen { c with mx := { setTag c.mx (b / 16384) .filling with tile := memWrite c.mx.tile b (leBytes size x) } } g w)
    else if (List.range size).any fun i => weightCovered c.mx (b + i) then streamFault s n g 0x03 true 0 b
    else if isBad c.badWeight b size then streamFault s n g 0x0A true 0 b
    else setCore s n (putGen { c with mx := { c.mx with weight := memWrite c.mx.weight b (leBytes size x) } } g w)
  if pNull r v.pos then write s 0
  else
    let va := pAddr r v.pos
    match genAccess s n v va size none with
    | (s, .value x) => write s x
    | (s, a) => refused s n g va a

/-- One element of `sx.remote` leaves for the far module (R327); null elements move nothing. With HLYD not accepted the stream ends
at its first element, whatever that is (R474). -/
def stepRemote (s : State) (n g : Nat) (v : Gen) : State :=
  let r := v.rcd
  let w := { v with pos := v.pos + 1, doneN := v.doneN + 1 }
  if pNull r v.pos && accepted s 2 then updCore s n fun c => putGen c g (endIfDone w)
  else if !(accepted s 2 && nthD s.mod.ports v.port false) then endWith s n g 0x09 ((v.arg.toNat + v.pos * pSize r) % 2 ^ 64)
  else
    let va := pAddr r v.pos
    let go := fun (s : State) (w : Gen) =>
      { updCore s n (fun c => putGen c g { w with waitAck := true }) with remote := s.remote ++ [(n, g)] }
    if pWrites r then
      match extentOf v va with
      | none => s
      | some pa => if placeBad s pa (pSize r) then streamFault s n g 0x0A true 0 va else go s { w with pa := pa }
    else match genAccess s n v va (pSize r) none with
      | (s, .value x) => go s { w with loaded := [some (BitVec.ofNat 32 x)] }
      | (s, a) => refused s n g va a

/-- Byte address of element `i` of an array at word `k` of the record. -/
def arrayAt (r : List Word) (k i size : Nat) : Nat := ((nthD r k 0).toNat + i * size) % 2 ^ 64

/-- One step of a sparse stream (R326): a slice's two offsets, or one entry. -/
def stepSparse (s : State) (n g ctx : Nat) (v : Gen) : State :=
  let r := v.rcd
  let put := fun s (w : Gen) => if queueFits w then updCore s n fun c => putGen c g w else s
  let read := fun (va size : Nat) => (genAccess s n v va size none).2
  match v.header with
  | none =>
    let p := arrayAt r 2 v.slice 4; let q := arrayAt r 2 (v.slice + 1) 4
    match read p 4, read q 4 with
    | .value a, .value b =>
      if b < a || (b - a) % spHeight r ≠ 0 then endWith s n g 0x05 p
      else if a = b then put s (endSlice v ctx) else put s { v with header := some (a, b) }
    | .value _, x => refused s n g q x
    | x, _ => refused s n g p x
  | some (a, b) =>
    let j := a + v.col * spHeight r + v.row
    let width := (b - a) / spHeight r
    let p := arrayAt r 1 j 4
    match read p 4 with
    | .value x =>
      if x = 0xFFFF_FFFF then put s (sparseEntry v ctx none width)
      else if x ≥ spCols r then endWith s n g 0x05 p
      else
        let q := arrayAt r 0 j (fmtSize (spFmt r))
        (match read q (fmtSize (spFmt r)) with
         | .value y => put s (sparseEntry v ctx (some (fmtLane (spFmt r) y, BitVec.ofNat 32 x)) width)
         | z => refused s n g q z)
    | z => refused s n g p z

/-- The generator may make its next access: its cohort lives and no acknowledgement holds it. A save or a barrier stops it,
but for the lanes that a store stream took before (R321, R329). -/
def genFree (c : Core) (v : Gen) : Bool :=
  genLive c v && !v.waitAck && (isStore v || (!c.saving && v.bars.isEmpty))

/-- The first and the last byte of an access. -/
def firstLast (va size : Nat) : List Nat := [va, (va + size - 1) % 2 ^ 64]

/-- The addresses that the generator needs next. -/
def nextVas (s : State) (n : Nat) (v : Gen) : List Nat :=
  if v.fn = 6 then
    match v.header with
    | none => firstLast (arrayAt v.rcd 2 v.slice 4) 4 ++ firstLast (arrayAt v.rcd 2 (v.slice + 1) 4) 4
    | some (a, _) =>
      let j := a + v.col * spHeight v.rcd + v.row
      let p := arrayAt v.rcd 1 j 4
      let size := fmtSize (spFmt v.rcd)
      match (genAccess s n v p 4 none).2 with
      | .value x => firstLast p 4 ++ if x < spCols v.rcd then firstLast (arrayAt v.rcd 0 j size) size else []
      | _ => firstLast p 4
  else if pSpace v.rcd = 1 then []
  else if isStore v then
    match v.q with
    | t :: _ => (match t.tags, t.lanes with
      | e :: _, l :: _ => if l.null || pNull v.rcd e then [] else [pAddr v.rcd e]
      | _, _ => [])
    | [] => []
  else if v.pos < pN v.rcd && !(pNull v.rcd v.pos) then [pAddr v.rcd v.pos] else []

/-- One element of the walk, or the next write of a store stream (R308). -/
def genStep (s : State) (n g : Nat) : State :=
  let c := coreAt s n
  let v := touch (genAt c g) (nextVas s n (genAt c g))
  let ctx := match genCohort c v with | some h => h.ctx | none => 0
  if isStore v then (if v.st == .running || v.st == .ending then stepStore s n g v else s)
  else if v.st != .running then s
  else if v.fn = 6 then stepSparse s n g ctx v
  else if v.pos ≥ pN v.rcd then s
  else if v.fn = 7 then stepRemote s n g v
  else if isLoad v then stepLoad s n g ctx v else stepFill s n g v

/-- GENERATOR_ELEMENT: one element of the walk, or the next write of a store stream (R308). -/
def execGeneratorElement (gen : Nat) (s : State) : Host.Outcome State Fault Refusal :=
  if gen ≥ 16 then .fault .noSuchUnit
  else .next (
    let c := cur s
    let g := lead c gen
    if genFree c (genAt c g) then genStep s s.core g else s)

/-- The loader walks the page of an address that no extent covers, and where there are 16 replaces the extent furthest behind
the generator; a fault parks the generator (R188). -/
def walkExtent (s : State) (n g : Nat) : State :=
  let v := genAt (coreAt s n) g
  match (nextVas s n v).find? fun a => (extentOf v a).isNone with
  | none => s
  | some va =>
    match translateAt s n (BitVec.ofNat 64 va) (genNeed v) with
    | (s, .error e) => parkGen s n g e va
    | (s, .ok p) =>
      let xs := v.extents.filter (·.ok)
      let xs := if xs.length < 16 then xs else match furthestBehind va xs with | some x => xs.erase x | none => xs
      updCore s n fun c => putGen c g { v with extents := xs ++ [pageExtent va p] }

/-- A replay of a parked generator's access (R193): the loader walks its pages again, and the access performs at once, or the
generator parks again. The answer waits while the decoupling queue has no room for the element. -/
def replayGen (s : State) (n g : Nat) : State :=
  let c := coreAt s n
  let v := genAt c g
  let ports := fun (p : Port → Bool) => v.ports.any fun x => (portAt c x).cur == some (g, false) && p (portAt c x)
  let took := isStore v && ports fun p => if pByTag v.rcd then p.rounds * pE v.rcd ≥ pN v.rcd else p.used ≥ pN v.rcd
  let s0 := updCore s n fun c => putGen c g { v with st := if v.stopped || took then .ending else .running }
  let walked := (List.range 4).foldl (fun s _ => if (genAt (coreAt s n) g).st == .parked then s else walkExtent s n g) s0
  if (genAt (coreAt walked n) g).st == .parked then walked else genStep walked n g

/-- GENERATOR_EXTENT_WALK (R188). -/
def execGeneratorExtentWalk (gen : Nat) (s : State) : Host.Outcome State Fault Refusal :=
  if gen ≥ 16 then .fault .noSuchUnit
  else .next (
    let c := cur s
    let g := lead c gen
    let v := genAt c g
    if !(genFree c v) || !(v.st == .running || (v.st == .ending && isStore v)) then s else walkExtent s s.core g)

/-- GENERATOR_REPATCH (R189, R190): the loader walks a paused generator's marked pages again and resumes it; a page that
now faults gives no extent. -/
def execGeneratorRepatch (gen : Nat) (s : State) : Host.Outcome State Fault Refusal :=
  if gen ≥ 16 then .fault .noSuchUnit
  else .next (
    let c := cur s
    let g := lead c gen
    let v := genAt c g
    if v.st != .paused || !(genLive c v) then s
    else
      let (s, xs) := v.extents.foldl (fun (acc : State × List Extent) x =>
        if x.ok then (acc.1, acc.2 ++ [x])
        else
          let r := walkEach s.core (genNeed v) (x.va + x.size - 1) (x.size / 65536 + 2) acc.1 x.va []
          (r.1, acc.2 ++ r.2.map fun y => { y with last := x.last })) (s, [])
      updCur s fun c => putGen c g { v with st := .running, extents := xs.take 16 })

-- ports -----------------------------------------------------------------------------------------------------------

/-- The stream port that feeds source edge port `m` of a configuration, when it lies on an anchored south edge (R22). -/
def streamPortOf (g : Config) (m : Nat) : Option Nat :=
  let a := edgeSite g m
  if g.anchor.getLsbD 2 && a.2.2 = 2 && a.2.1 = 5 then some a.1 else none

/-- Port of a pooling or gather command that delivers at one (R416). -/
def capPort (m : Cmd) : Option Nat :=
  match m.op with
  | .embPool _ _ _ _ => if m.fld 2 0 1 = 0 then some (m.fld 2 8 3) else none
  | .embGather _ _ _ _ => if m.fld 2 0 1 = 0 then some (m.fld 2 8 3) else none
  | _ => none

/-- A stream or capacity command bound to port `x` is uncompleted (R213). -/
def portBusy (c : Core) (x : Nat) : Bool :=
  (c.gens.any fun e => e.2.st != .free && e.2.ports.contains x) ||
  (c.cmds.any fun m => capPort m == some x && !m.rdWait && m.phase != .finished) ||
  !(portAt c x).fifo.isEmpty || (portAt c x).cur.isSome

/-- A source closes for good; under a splice the wavefront follows its final marker (R213, R221). -/
def closeSource (c : Core) (r k : Nat) : Core :=
  match sourceAt c r k with
  | some q => if q.done then c else sourceWave r (sourceMark c r k true) k
  | none => c

/-- Source `k` of region `r` may make its next tokens: its round has started, and no save has stopped it (R214, R459). -/
def sourceFree (c : Core) (r k : Nat) : Bool :=
  (sourceAt c r k).any (mayStart c r) && !(c.saving && preemptMade c r k)

/-- Region and source that stream port `x` feeds (R22, R313). -/
def portSource (c : Core) (x : Nat) : Option (Nat × Nat) :=
  c.regions.findSome? fun e => (findIdx e.2.sources fun q => streamPortOf e.2.cfg q.ep == some x).map fun k => (e.1, k)

/-- The port's scope joins the scope of the region that holds its site (R317). -/
def portScopeOk (c : Core) (x : Nat) (out : Bool) (scope : Nat) : Bool :=
  match cfgOfPlace c (siteAt c x 5).place with
  | none => true
  | some g =>
    g.scope == scope || (match epEntry g (edgePort g x 5 2) out with
      | some e => epB e && epScope e ≥ max g.scope scope
      | none => false)

/-- A bound fault of the stream at port `x`: the stream ends as `sx.stop` ends it and so does the cohort (R317). -/
def boundFault (s : State) (n g x : Nat) : State :=
  streamFault (updCore s n fun c => stopGen c g) n g 0x0B true x 0

/-- A capacity command on a port whose scope does not fit ends with a record (R317, R423). -/
def capBoundFault (s : State) (n id : Nat) : State :=
  match cmdAt (coreAt s n) id with
  | none => s
  | some m =>
    let bag := match (coreAt s n).caps.find? fun k => k.id == id with | some k => k.next | none => 0
    finishCmd (cmdFault s n m (Record.mk' 0x11 10 (0x07 + 256 * bag) true)) n id

/-- The port is checked when a region takes its site while a stream or command is on it (R317). -/
def checkPort (n : Nat) (s : State) (x : Nat) : State :=
  let c := coreAt s n
  match (portAt c x).cur with
  | none => s
  | some (id, true) => if portScopeOk c x false 5 then s else capBoundFault s n id
  | some (g, false) =>
    let v := genAt c g
    if portScopeOk c x (isStore v) (genScope v) then s else boundFault s n g x

/-- The stream waits in the FIFO of its ports (R318): it is QUEUED, or it was stopped before its turn came (R319). -/
def inFifo (c : Core) (v : Gen) (g : Nat) : Bool := v.ports.any fun x => (portAt c x).fifo.contains (g, false)

/-- The generator leads the FIFO of each of its ports, and none of them holds a stream (R318). -/
def mayDispatch (c : Core) (v : Gen) (g : Nat) : Bool :=
  v.ports.all fun x => (portAt c x).fifo.head? == some (g, false) && (portAt c x).cur.isNone

/-- STREAM_DISPATCH (R317 to R319): the stream starts; one that was stopped starts and ends at once. -/
def execStreamDispatch (gen : Nat) (s : State) : Host.Outcome State Fault Refusal :=
  if gen ≥ 16 then .fault .noSuchUnit
  else .next (
    let c := cur s
    let g := lead c gen
    let v := genAt c g
    if !(inFifo c v g) || !(mayDispatch c v g) || !(genLive c v) || c.saving then s
    else
      let ctx := match genCohort c v with | some h => h.ctx | none => 0
      let mark := if isLoad v then [markTok ctx] else []
      let v' := if v.stopped then { v with st := .ending, q := mark, q2 := if v.fn = 6 then mark else [] } else { v with st := .running }
      let c := v.ports.foldl (fun c x => setPort c x
        { portAt c x with fifo := (portAt c x).fifo.drop 1, cur := some (g, false), used := 0, rounds := 0 }) (putGen c g v')
      match v.ports.find? fun x => !(portScopeOk c x (isStore v) (genScope v)) with
      | some x => boundFault (setCur s c) s.core g x
      | none => setCur s c)

/-- Source `k` of region `r` can take token `t` of a port: a marker closes its round. -/
def sourceTakes (c : Core) (r k : Nat) (t : Tok) : Bool :=
  if t.isMark then
    match sourceAt c r k with
    | some q => !q.done && !q.marked && mayStart c r q && hasSpace q.q t && !c.saving
    | none => false
  else sourceOpen c r k t

/-- Port `x` can deliver `t` into its region. -/
def portTakes (c : Core) (x : Nat) (t : Tok) : Bool :=
  match portSource c x with
  | some (r, k) => sourceTakes c r k t
  | none => false

/-- Port `x` makes token `t`; the final marker exhausts the port (R313, R314). -/
def portMakes (final : Bool) (c : Core) (e : Nat × Tok) : Core :=
  match portSource c e.1 with
  | none => c
  | some (r, k) =>
    let c := if e.2.isMark then (if final then closeSource c r k else sourceMark c r k false) else sourceMake c r k e.2
    setPort c e.1 { portAt c e.1 with round := match sourceAt c r k with | some q => q.round | none => 0 }

/-- The tokens at the head of a stream's decoupling queue, by port. -/
def headTokens (v : Gen) : List (Nat × Tok) :=
  match v.q with
  | [] => []
  | t :: _ => if v.fn = 6 then (match v.q2 with | u :: _ => [(nthD v.ports 0 0, t), (nthD v.ports 1 0, u)] | [] => []) else v.ports.map fun x => (x, t)

/-- The stall counter of a multicast stream has reached BUDGET: no token leaves any more (R323). -/
def spent (v : Gen) : Bool := v.fn = 3 && v.stall ≥ v.budget

/-- LOAD_PORT_EMIT: the head token leaves by every port of the stream at once (R313, R323, R326). -/
def execLoadPortEmit (gen : Nat) (s : State) : Host.Outcome State Fault Refusal :=
  if gen ≥ 16 then .fault .noSuchUnit
  else .next (
    let c := cur s
    let g := lead c gen
    let v := genAt c g
    let hs := headTokens v
    if !(isLoad v) || hs.isEmpty || !(genLive c v) || spent v || !(hs.all fun e => portTakes c e.1 e.2) then s
    else
      let w := { v with q := v.q.drop 1, q2 := v.q2.drop 1, stall := 0 }
      let final := v.fin && v.st == .ending && w.q.isEmpty
      setCur s (hs.foldl (portMakes final) (putGen c g w)))

/-- A stream on a multicast port that cannot take the token at the head (R323). -/
def blockedPort (c : Core) (v : Gen) : Option Nat :=
  if v.fn = 3 then ((headTokens v).find? fun e => !(portTakes c e.1 e.2)).map (·.1) else none

/-- MCAST_STALL_BUDGET (R323): the stall counter has reached BUDGET; the record names the port that held the stream up. -/
def execMcastStallBudget (gen : Nat) (s : State) : Host.Outcome State Fault Refusal :=
  if gen ≥ 16 then .fault .noSuchUnit
  else .next (
    let c := cur s
    let v := genAt c gen
    if spent v && genLive c v then streamFault s s.core gen 0x04 true v.stallAt 0 else s)

/-- A stream after one core cycle: its stall counter rises while a port holds it up, to BUDGET (R323). -/
def stallCycle (c : Core) (v : Gen) : Gen :=
  match blockedPort c v with
  | some x => if spent v then v else { v with stall := v.stall + 1, stallAt := x }
  | none => v

/-- CORE_CYCLE: SQ_CYCLE counts one core cycle in every state of the sequencer (R138), and so does the stall counter of every
multicast stream that a port holds up (R323). A store that the sequencer has issued performs by then (R144, R150). -/
def execCoreCycle (s : State) : Host.Outcome State Fault Refusal :=
  .next (updCur (performStore s s.core) fun c =>
    { c with
      seq := { c.seq with cycle := c.seq.cycle + 1 }
      gens := c.gens.map fun e => (e.1, stallCycle c e.2) })

/-- Elements that a run takes by ordinal from `used` on, or by tag in round `k` (R315). -/
def storeElems (r : List Word) (used k : Nat) (t : Tok) : List Nat :=
  if pByTag r then t.tags.map fun a => k * pE r + (a - pTag r) else (List.range t.tags.length).map (· + used)

/-- STORE_PORT_CONSUME: port `x` takes the token at its head (R315). A token that faults is taken once the elements taken before
it have performed (R328). -/
def execStorePortConsume (port : Nat) (s : State) : Host.Outcome State Fault Refusal :=
  if port ≥ 8 then .fault .noSuchUnit
  else .next (
    let n := s.core
    let c := cur s
    let p := portAt c port
    match p.q, p.cur with
    | t :: rest, some (g, false) =>
      let v := genAt c g
      let r := v.rcd
      let took := fun (c : Core) (p : Port) => setPort c port { p with q := rest }
      let gone := fun (c : Core) => census c t.place (-1)
      let full := qBeats v.q + 2 > 256
      let drained := v.q.isEmpty
      if !(isStore v) || v.st != .running || !v.bars.isEmpty || !(genLive c v) then s
      else if t.kind == .marker then
        let p' := { p with round := p.round + 1, rounds := p.rounds + 1 }
        let v' := if pByTag r && p'.rounds * pE r ≥ pN r then { v with st := .ending } else v
        setCur s (putGen (took c p') g v')
      else if t.isMark then setCur s (took c p)
      else if t.kind == .stop then setCur s (gone (took c p))
      else if !t.isRun then if drained then streamFault (setCur s (gone (took c p))) n g 0x08 true port 0 else s
      else if full then s
      else if pByTag r then
        if p.rounds * pE r ≥ pN r then s
        else if t.tags.any fun a => a < pTag r || a ≥ pTag r + pE r then
          if drained then streamFault (setCur s (gone (took c p))) n g 0x06 true port 0 else s
        else setCur s (putGen (gone (took c p)) g { v with q := v.q ++ [{ t with tags := storeElems r 0 p.rounds t }] })
      else
        let room := pN r - p.used
        if t.tags.length ≤ room then
          let v' := { v with q := v.q ++ [{ t with tags := storeElems r p.used 0 t }] }
          let v' := if t.tags.length = room then { v' with st := .ending } else v'
          setCur s (putGen (gone (took c { p with used := p.used + t.tags.length })) g v')
        else if t.kind == .packed then if drained then streamFault (setCur s (gone (took c p))) n g 0x07 true port 0 else s
        else
          let a := t.cut (t.tags.take room)
          let b := t.cut (t.tags.drop room)
          let v' := { v with st := .ending, q := v.q ++ [{ a with tags := storeElems r p.used 0 a }] }
          setCur s (putGen (setPort c port { p with q := b :: rest, used := pN r }) g v')
    | _, _ => s)

/-- STREAM_COMPLETE (R316, R324): an ending stream whose accesses have performed and whose tokens have left. -/
def execStreamComplete (gen : Nat) (s : State) : Host.Outcome State Fault Refusal :=
  if gen ≥ 16 then .fault .noSuchUnit
  else .next (
    let n := s.core
    let c := cur s
    let g := lead c gen
    let v := genAt c g
    if v.st != .ending || inFifo c v g || !v.q.isEmpty || !v.q2.isEmpty || v.waitAck || !(genLive c v) then s
    else
      let ts := if v.fn = 9 && v.tagFull && !v.stopped then tileRange (v.arg.toNat / 16384) v.port else []
      match ts.find? fun t => tagOf c.mx t == .full || tagOf c.mx t == .busy with
      | some t => streamFault s n g 0x02 true 0 (16384 * t)
      | none =>
        let c := { c with mx := setTags c.mx ts .full }
        let c := v.ports.foldl (fun c x => setPort c x { portAt c x with cur := none, used := 0, rounds := 0 }) c
        completeCmd (setCur s (freeGen c g)) n v.cmd)

/-- SX_BAR_COMPLETE: the generators that the barrier holds resume once their earlier accesses have performed (R321). -/
def execSxBarComplete (cmd : Nat) (s : State) : Host.Outcome State Fault Refusal :=
  .next (
    let c := cur s
    let mine := c.gens.filter fun e => e.2.bars.contains cmd
    let ready := mine.all fun e => e.2.bars.head? == some cmd && !e.2.waitAck && e.2.st != .parked && (!(isStore e.2) || e.2.q.isEmpty)
    match cmdAt c cmd with
    | some m =>
      match m.op with
      | .sxBar _ _ _ =>
        if m.rdWait || !ready then s
        else
          let c := { c with gens := c.gens.map fun e => (e.1, { e.2 with bars := e.2.bars.filter (· != cmd) }) }
          completeCmd (setCur s c) s.core cmd
      | _ => s
    | none => s)

/-- REMOTE_ACK: the far module answers the element that waits (R327). -/
def execRemoteAck (gen : Nat) (ans : RemoteAnswer) (s : State) : Host.Outcome State Fault Refusal :=
  if gen ≥ 16 then .fault .noSuchUnit
  else .next (
    let n := s.core
    let c := cur s
    let v := genAt c gen
    if !v.waitAck then s
    else
      let s := { s with remote := s.remote.erase (n, gen) }
      let w := { v with waitAck := false, loaded := [], pa := 0 }
      let size := pSize v.rcd
      match ans with
      | .ok data =>
        let s := updCore s n fun c => putGen c gen (if w.stopped then w else endIfDone w)
        if !pWrites v.rcd then s
        else if placeBad s v.pa size then streamFault s n gen 0x0A true 0 (pAddr v.rcd (v.pos - 1))
        else placeWrite s v.pa (leBytes size (leNat (data.take size)))
      | _ => endWith (updCore s n fun c => putGen c gen w) n gen 0x09 ((v.arg.toNat + (v.pos - 1) * size) % 2 ^ 64))

-- commands --------------------------------------------------------------------------------------------------------

/-- Function code of a stream command (R310). -/
def sxCode : Instr → Nat
  | .sxBind _ _ _ _ => 0 | .sxGo _ _ => 1 | .sxBar _ _ _ => 2 | .sxMcast _ _ _ _ => 3 | .sxStop _ _ => 4 | .sxQuery _ _ => 5
  | .sxSparse _ _ _ _ => 6 | .sxRemote _ _ _ _ => 7 | .sxWbload _ _ _ _ => 8 | _ => 9

/-- Set bits of an 8-bit port mask. -/
def maskPorts (m : Nat) : List Nat := (List.range 8).filter fun i => m / 2 ^ i % 2 = 1

/-- The operands break R310. -/
def sxOperandBad (m : Cmd) : Bool :=
  let addr := fun al => !canonical (m.opnd 1) || (m.opnd 1).toNat % al ≠ 0
  match m.op with
  | .sxBind _ _ _ _ => addr 32 || !m.only 2 0x3070F
  | .sxMcast _ _ _ _ => addr 32 || !m.only 2 0xFFFFFFFF0003FF0F || (maskPorts (m.fld 2 8 8)).length < 2 || m.fld 2 32 32 = 0
  | .sxSparse _ _ _ _ => addr 64 || !m.only 2 0x3770F || m.fld 2 0 1 = 1 || m.fld 2 8 3 = m.fld 2 12 3
  | .sxRemote _ _ _ _ => addr 32 || !m.only 2 0xF0F || m.fld 2 8 4 > 11
  | .sxWbload _ _ _ _ => addr 32 || !m.only 2 0xFFFFF000F || m.fld 2 16 20 % 64 ≠ 0
  | .sxTile _ _ _ _ => addr 32 || !m.only 2 0x13F3F0F
  | .sxQuery _ _ => !m.only 1 0xF
  | _ => !m.only 1 0xFFFF

/-- The status of the checks behind the record's reading, or none (R309, R311). -/
def sxRecordBad (m : Cmd) (r : List Word) : Option Nat :=
  let size := pSize r
  let align := ((nthD r 0 0).toNat % size ≠ 0) || (List.range (pNdim r)).any fun d => pStride r d % size ≠ 0
  let onPort := fun w => if !(patternOk r true w true) then some 0x01
    else if align then some 0x11 else if pTag r + pE r > 4096 then some 0x12 else none
  match m.op with
  | .sxBind _ _ _ _ => onPort true
  | .sxMcast _ _ _ _ => onPort false
  | .sxSparse _ _ _ _ => if !(sparseOk r) then some 0x01 else if spTag r + spRows r > 4096 then some 0x12 else none
  | .sxRemote _ _ _ _ => if !(patternOk r false true false) then some 0x01
    else if align || (m.opnd 3).toNat % size ≠ 0 then some 0x11 else none
  | .sxWbload _ _ _ _ => if !(patternOk r false false true) then some 0x01 else if align then some 0x11
    else if m.fld 2 16 20 + pN r * size > 1048576 then some 0x13 else none
  | _ => if !(patternOk r false false true) then some 0x01 else if align then some 0x11
    else if m.fld 2 8 6 + m.fld 2 16 6 + 1 > 64 || pN r * size > 16384 * (m.fld 2 16 6 + 1) then some 0x13 else none

/-- The generator as a command binds it (R306). -/
def boundGen (m : Cmd) (r : List Word) (xs : List Extent) : Gen :=
  let hold := m.fld 2 16 1 = 1
  let g := { Gen.reset with cmd := m.id, fn := sxCode m.op, rcd := r, extents := xs }
  let onPort := { g with st := if hold then .held else .queued, fin := m.fld 2 17 1 = 1 }
  match m.op with
  | .sxBind _ _ _ _ => { onPort with ports := [m.fld 2 8 3] }
  | .sxMcast _ _ _ _ => { onPort with ports := maskPorts (m.fld 2 8 8), budget := m.fld 2 32 32 }
  | .sxSparse _ _ _ _ => { onPort with ports := [m.fld 2 8 3, m.fld 2 12 3] }
  | .sxRemote _ _ _ _ => { g with st := .running, arg := m.opnd 3, port := m.fld 2 8 4 }
  | .sxWbload _ _ _ _ => { g with st := .running, arg := BitVec.ofNat 64 (m.fld 2 16 20) }
  | _ => { g with st := .running, arg := BitVec.ofNat 64 (16384 * m.fld 2 8 6), port := m.fld 2 16 6 + 1, tagFull := m.fld 2 24 1 = 1 }

/-- A stream joins the FIFO of each of its ports (R318). -/
def queueGen (c : Core) (g : Nat) : Core :=
  (genAt c g).ports.foldl (fun c x => setPort c x { portAt c x with fifo := (portAt c x).fifo ++ [(g, false)] }) c

/-- A command that names a record: its checks, and the generator it binds (R311, R312). -/
def judgeBind (s : State) (n : Nat) (m : Cmd) : State × Verdict :=
  let sparse := sxCode m.op = 6
  let g := m.fld 2 0 4
  let c := coreAt s n
  if (genAt c g).st != .free || (sparse && (genAt c (g + 1)).st != .free) then (s, .refuse 0x10)
  else match readRecord s n m (if sparse then 8 else 12) 0x0D 0x0A with
    | (s, .error v) => (s, v)
    | (s, .ok r) =>
      match sxRecordBad m r with
      | some z => (s, .refuse z)
      | none =>
        let (s, xs) := if sparse then (s, []) else bindExtents s n r
        let v := boundGen m r xs
        (updCore s n fun c => let c := putGen c g v; if v.st == .queued then queueGen c g else c, .ok)

/-- STATE, CMD and DONE of `sx.query` (R320). -/
def queryWord (v : Gen) : Word :=
  let st := match v.st with
    | .free => 0 | .held => 1 | .queued => 2 | .running => 3 | .paused => 4 | .parked => 5 | .ending => 6
  BitVec.ofNat 64 (st + v.fn * 16 + v.doneN % 2 ^ 48 * 65536)

/-- The stream engine's answer (R310, R311, R318 to R321). -/
def judgeStream (s : State) (n : Nat) (m : Cmd) : State × Verdict :=
  let c := coreAt s n
  let mask := m.fld 1 0 16
  if sxOperandBad m then (s, .refuse 0x02)
  else match m.op with
    | .sxGo _ _ =>
      let gs := (leads c mask).filter fun g => (genAt c g).st == .held
      let moved := (List.range 16).foldl (fun a i => if gs.contains (lead c i) && (genAt c i).st == .held then a + 2 ^ i else a) 0
      (setCore s n (gs.foldl (fun c g => queueGen (putGen c g { genAt c g with st := .queued }) g) c),
       .take (BitVec.ofNat 64 (moved * 65536)))
    | .sxBar _ _ _ =>
      let gs := (leads c mask).filter fun g => (genAt c g).st != .free
      (setCore s n (gs.foldl (fun c g => putGen c g { genAt c g with bars := (genAt c g).bars ++ [m.id] }) c), .ok)
    | .sxStop _ _ => (setCore s n ((leads c mask).foldl stopGen c), .ok)
    | .sxQuery _ _ => (s, .take (queryWord (genAt c (m.fld 1 0 4))))
    | _ => judgeBind s n m

/-- The work of an accepted stream command: a command on generators is done, a barrier that names none completes. -/
def runStream (s : State) (n : Nat) (m : Cmd) : State :=
  match m.op with
  | .sxBar _ _ _ => if (coreAt s n).gens.any fun e => e.2.bars.contains m.id then s else finishCmd s n m.id
  | .sxGo _ _ => finishCmd s n m.id
  | .sxStop _ _ => finishCmd s n m.id
  | .sxQuery _ _ => finishCmd s n m.id
  | _ => s

end Sys2Proof.Machine
end

