-- ==== Sys2Proof/Machine/Capacity.lean ====
section
/-! DEFINITION. The capacity tier (section 16): bag records, binding, pooling, gathering, scatter-adds. -/

namespace Sys2Proof.Machine

-- bag records -----------------------------------------------------------------------------------------------------

/-- NROWS (R412). -/
def cRows (r : List Word) : Nat := rfld r 1 0 32
/-- D. -/
def cD (r : List Word) : Nat := rfld r 1 32 13
/-- FMT. -/
def cFmt (r : List Word) : Nat := rfld r 1 48 4
/-- LOG2RS. -/
def cLog (r : List Word) : Nat := rfld r 1 52 4
/-- WTS. -/
def cWts (r : List Word) : Bool := rfld r 1 56 1 == 1
/-- SAT. -/
def cSat (r : List Word) : Bool := rfld r 1 57 1 == 1
/-- NBAGS. -/
def cBags (r : List Word) : Nat := rfld r 6 0 17
/-- FP8 rows carry a scale (R413). -/
def cFp8 (r : List Word) : Bool := cFmt r ≥ 3
/-- Bytes of an element. -/
def cElem (r : List Word) : Nat := if cFmt r = 0 then 4 else if cFmt r = 2 then 2 else 1
/-- Row size (R413). -/
def cRowSize (r : List Word) : Nat := if cFp8 r then 4 + cD r else cElem r * cD r
/-- Element format of the rows (R50). -/
def cFormat (r : List Word) : FFmt := ffmt (cFmt r)

/-- An address of a record: canonical and a multiple of `al`. -/
def cAddrOk (v : Word) (al : Nat) : Bool := canonical v && v.toNat % al = 0

/-- The record passes R412; `scatter` allows SAT. -/
def bagOk (r : List Word) (scatter : Bool) : Bool :=
  let w := fun k => nthD r k 0
  1 ≤ cRows r && 1 ≤ cD r && cD r ≤ 4096 && rfld r 1 45 3 = 0 && (cFmt r = 0 || (2 ≤ cFmt r && cFmt r ≤ 4)) &&
  4 ≤ cLog r && cLog r ≤ 14 && rfld r 1 58 6 = 0 && (scatter || !cSat r) && ronly r 6 0x1FFFF && ronly r 7 0 &&
  1 ≤ cBags r && cBags r ≤ 65536 && cAddrOk (w 0) (2 ^ cLog r) && cAddrOk (w 2) 4 && cAddrOk (w 3) 4 && cAddrOk (w 4) 4 &&
  (if cWts r then cAddrOk (w 5) 4 else ronly r 5 0) && cRowSize r ≤ 2 ^ cLog r

-- commands --------------------------------------------------------------------------------------------------------

/-- The command delivers at a port or, for `emb.scatadd`, reads gradients at virtual addresses. -/
def capVirtual (m : Cmd) : Bool := m.fld 2 0 1 = 0
/-- The command is `emb.scatadd`. -/
def isScatter (m : Cmd) : Bool := match m.op with | .embScatadd _ _ _ _ => true | _ => false
/-- The command is `emb.pool`. -/
def isPool (m : Cmd) : Bool := match m.op with | .embPool _ _ _ _ => true | _ => false

/-- The operands break R415. -/
def capOperandBad (m : Cmd) : Bool :=
  !canonical (m.opnd 1) || (m.opnd 1).toNat % 64 ≠ 0 ||
  (if capVirtual m then
    (if isScatter m then !m.only 2 0 || !canonical (m.opnd 3) || (m.opnd 3).toNat % 4 ≠ 0
     else !m.only 2 0x100701 || m.opnd 3 != 0)
   else !m.only 2 0x70001 || !m.only 3 0x1FFFFC)

/-- `size` bytes at window offset `o` of the command's window, under the issuing core's own rank (R270): the scratchpad
address on the core. -/
def capWindow (s : State) (n : Nat) (m : Cmd) (o size : Nat) (rd wr : Bool) : Option Nat :=
  let at' := fun o => resolveWin s n (cmdCohort (coreAt s n) m) (BitVec.ofNat 32 (o + n % 4 * 2 ^ 22)) (m.fld 2 16 3) 4 rd wr
  if o + size > 2 ^ 21 || size < 4 then none
  else match at' o, at' (o + size - 4) with
    | .ok (_, a), .ok _ => some a
    | _, _ => none

/-- A capacity command as accepted (R417). -/
def newCap (m : Cmd) (r : List Word) : Cap :=
  { id := m.id, rcd := r, active := (capPort m).isNone, bound := false, bags := [], next := 0, begun := false, row := 0,
    got := [], lost := false, grad := [], out := 0, posted := [], pages := [] }

/-- Capacity progress of command `id`. -/
def capAt (c : Core) (id : Nat) : Option Cap := c.caps.find? fun k => k.id == id
/-- Changes it. -/
def putCap (c : Core) (k : Cap) : Core := { c with caps := mapWhere c.caps (fun x => x.id == k.id) fun _ => k }

/-- The capacity controller's answer (R416). -/
def judgeCapacity (s : State) (n : Nat) (m : Cmd) : State × Verdict :=
  if capOperandBad m then (s, .refuse 0x02)
  else match readRecord s n m 8 0x11 0x06 with
    | (s, .error v) => (s, v)
    | (s, .ok r) =>
      if !(bagOk r (isScatter m)) then (s, .refuse 0x01)
      else if isPool m && !capVirtual m && (capWindow s n m (m.fld 3 0 21) (4 * cD r * cBags r) false true).isNone then
        (s, .refuse 0x10)
      else
        (updCore s n fun c =>
          let c := { c with caps := c.caps ++ [newCap m r] }
          match capPort m with
          | some x => setPort c x { portAt c x with fifo := (portAt c x).fifo ++ [(m.id, true)] }
          | none => c, .ok)

/-- A capacity fault record (R424). -/
def capFault (s : State) (n : Nat) (m : Cmd) (cause bag addr : Nat) (fatal : Bool) : State :=
  cmdFault s n m { Record.mk' 0x11 10 (cause + 256 * bag) fatal with addr := BitVec.ofNat 64 addr }

/-- A record that does not end the cohort: one per bag and cause. -/
def capNote (s : State) (n : Nat) (m : Cmd) (cause bag addr : Nat) : State :=
  match capAt (coreAt s n) m.id with
  | some k =>
    if k.posted.contains (cause, bag) then s
    else capFault (updCore s n fun c => putCap c { k with posted := k.posted ++ [(cause, bag)] }) n m cause bag addr false
  | none => s

/-- The command and its progress, when it may go on: accepted, not parked, its cohort not ended. -/
def capRuns (c : Core) (id : Nat) : Option (Cmd × Cap) :=
  match cmdAt c id, capAt c id with
  | some m, some k =>
    if m.phase == .running && (match cmdCohort c m with | some h => !h.fatal | none => false) then some (m, k) else none
  | _, _ => none

-- binding ---------------------------------------------------------------------------------------------------------

/-- Why a binding stops. -/
inductive BindStop where
  | park (va cause : Nat) | memory (va bag : Nat)
  deriving DecidableEq, Repr

/-- The stop, met at bag `b`. -/
def BindStop.inBag (b : Nat) : BindStop → BindStop
  | .memory va _ => .memory va b
  | .park va e => .park va e

/-- Translations of a binding. -/
abbrev Pages := List (Nat × Nat)

/-- The physical address of `va`, each page translated once (R418). -/
def capPage (s : State) (n va : Nat) (need : Need) (ps : Pages) : State × Except BindStop (Pages × Nat) :=
  match ps.find? fun e => e.1 == va / 65536 with
  | some e => (s, .ok (ps, e.2 * 65536 + va % 65536))
  | none =>
    match translateAt s n (BitVec.ofNat 64 va) need with
    | (s, .error e) => (s, .error (.park va e))
    | (s, .ok t) =>
      let pa := t.phys (BitVec.ofNat 64 va)
      (s, .ok (ps ++ [(va / 65536, pa / 65536)], pa))

/-- A 32-bit array entry, read at home. -/
def capWord (s : State) (n va : Nat) (ps : Pages) : State × Except BindStop (Pages × Nat) :=
  match capPage s n va .read ps with
  | (s, .error e) => (s, .error e)
  | (s, .ok (ps, pa)) => if placeBad s pa 4 then (s, .error (.memory va 0)) else (s, .ok (ps, memNat s.mem pa 4))

/-- Virtual address of entry `i` of the array that word `k` of the record names. -/
def capEntry (r : List Word) (k i : Nat) : Nat := arrayAt r k i 4
/-- Virtual address of row `i` (R413). -/
def capRowVa (r : List Word) (i : Nat) : Nat := arrayAt r 0 i (2 ^ cLog r)

/-- Rows of a bag found so far, with its first fault. -/
abbrev Bound := Pages × List (Nat × Nat × W32) × Option (Nat × Nat)

/-- The weight of entry `i`: 1.0 for a record without weights. -/
def capWeight (s : State) (n : Nat) (r : List Word) (i : Nat) (ps : Pages) : State × Except BindStop (Pages × W32) :=
  if !(cWts r) then (s, .ok (ps, 0x3F800000))
  else match capWord s n (capEntry r 5 i) ps with
    | (s, .error e) => (s, .error e)
    | (s, .ok (ps, w)) => (s, .ok (ps, BitVec.ofNat 32 w))

/-- The row that index `x` of entry `i` names: its addresses, or the fault that the entry gives its bag (R418). -/
def bindRow (s : State) (n : Nat) (r : List Word) (i x : Nat) (ps : Pages) : State × Except BindStop (Pages × Except (Nat × Nat) (Nat × Nat)) :=
  if x ≥ cRows r then (s, .ok (ps, .error (0x01, capEntry r 4 i)))
  else match capPage s n (capRowVa r x) .read ps with
    | (s, .error e) => (s, .error e)
    | (s, .ok (ps, pa)) => (s, .ok (ps, if isCap pa then .ok (capRowVa r x, pa) else .error (0x02, capRowVa r x)))

/-- The rows of a bag from entry `i` on, and its first fault (R418): every IDX and WGT entry is read; behind the first fault
none is checked or translated. -/
def bindRows (n : Nat) (r : List Word) : Nat → State → Pages → Nat → List (Nat × Nat × W32) → Option (Nat × Nat) → State × Except BindStop Bound
  | 0, s, ps, _, acc, f => (s, .ok (ps, acc, f))
  | k + 1, s, ps, i, acc, f =>
    match capWord s n (capEntry r 4 i) ps with
    | (s, .error e) => (s, .error e)
    | (s, .ok (ps, x)) =>
      match capWeight s n r i ps with
      | (s, .error e) => (s, .error e)
      | (s, .ok (ps, w)) =>
        if f.isSome then bindRows n r k s ps (i + 1) acc f
        else match bindRow s n r i x ps with
          | (s, .error e) => (s, .error e)
          | (s, .ok (ps, .error g)) => bindRows n r k s ps (i + 1) acc (some g)
          | (s, .ok (ps, .ok p)) => bindRows n r k s ps (i + 1) (acc ++ [(p.1, p.2, w)]) none

/-- One bag: its length, rows and fault. -/
def bindBag (s : State) (n : Nat) (r : List Word) (b : Nat) (ps : Pages) : State × Except BindStop (Pages × CapBag × Option (Nat × Nat)) :=
  match capWord s n (capEntry r 2 b) ps with
  | (s, .error e) => (s, .error e)
  | (s, .ok (ps, o)) =>
    match capWord s n (capEntry r 3 b) ps with
    | (s, .error e) => (s, .error e)
    | (s, .ok (ps, l)) =>
      let wide := if o + l > 2 ^ 32 then some (0x03, capEntry r 3 b) else none
      match bindRows n r l s ps o [] wide with
        | (s, .error e) => (s, .error e)
        | (s, .ok (ps, rows, f)) => (s, .ok (ps, { len := l, bad := f.isSome, rows := if f.isSome then [] else rows }, f))

/-- What a binding finds: pages, bags in order, faults by bag. -/
abbrev Found := Pages × List CapBag × List (Nat × Nat × Nat)

/-- `k` bags from bag `b` on. -/
def bindBags (n : Nat) (r : List Word) : Nat → State → Pages → Nat → List CapBag → List (Nat × Nat × Nat) → State × Except BindStop Found
  | 0, s, ps, _, bs, fs => (s, .ok (ps, bs, fs))
  | k + 1, s, ps, b, bs, fs =>
    match bindBag s n r b ps with
    | (s, .error e) => (s, .error (e.inBag b))
    | (s, .ok (ps, x, f)) =>
      bindBags n r k s ps (b + 1) (bs ++ [x]) (fs ++ (f.map fun e => (e.1, b, e.2)).toList)

/-- Virtual address of element `e` of bag `b`'s gradient (R422). -/
def gradVa (m : Cmd) (r : List Word) (b e : Nat) : Nat := ((m.opnd 3).toNat + 4 * (cD r * b + e)) % 2 ^ 64

/-- Translates a list of addresses. -/
def bindPages (n : Nat) (need : Need) : List Nat → State → Pages → State × Except BindStop Pages
  | [], s, ps => (s, .ok ps)
  | va :: r, s, ps =>
    match capPage s n va need ps with
    | (s, .error e) => (s, .error e)
    | (s, .ok (ps, _)) => bindPages n need r s ps

/-- The bags that `emb.scatadd` applies, numbered from `b`. -/
def liveBags (b : Nat) (bs : List CapBag) : List (Nat × CapBag) :=
  ((List.range bs.length).map (· + b)).zip bs |>.filter fun e => !e.2.bad && e.2.len ≠ 0

/-- A scatter-add also translates its rows' pages with RD and WR, and its gradients' pages (R418, R422). -/
def bindScatter (s : State) (n : Nat) (m : Cmd) (r : List Word) (b : Nat) (ps : Pages) (bs : List CapBag) : State × Except BindStop Pages :=
  let live := liveBags b bs
  match bindPages n .both (live.flatMap fun e => e.2.rows.map (·.1)) s [] with
  | (s, .error e) => (s, .error e)
  | (s, .ok _) =>
    if !(capVirtual m) then (s, .ok ps)
    else bindPages n .read (live.flatMap fun e => (List.range (cD r)).map fun i => gradVa m r e.1 i) s ps

/-- The whole binding, for the bags not yet begun (R418, R425). -/
def bindAll (s : State) (n : Nat) (m : Cmd) (k : Cap) : State × Except BindStop Found :=
  match bindBags n k.rcd (cBags k.rcd - k.next) s [] k.next [] [] with
  | (s, .error e) => (s, .error e)
  | (s, .ok (ps, bs, fs)) =>
    if !(isScatter m) then (s, .ok (ps, bs, fs))
    else match bindScatter s n m k.rcd k.next ps bs with
      | (s, .error e) => (s, .error e)
      | (s, .ok ps) => (s, .ok (ps, bs, fs))

/-- A command at the head of its port's FIFO starts when the port falls free (R317, R417). -/
def capStart (s : State) (n : Nat) (m : Cmd) (k : Cap) : State :=
  match capPort m with
  | none => s
  | some x =>
    let c := coreAt s n
    let p := portAt c x
    if k.active || p.cur.isSome || p.fifo.head? != some (m.id, true) then s
    else
      let c := setPort (putCap c { k with active := true }) x { p with fifo := p.fifo.drop 1, cur := some (m.id, true) }
      if portScopeOk c x false 5 then setCore s n c else capBoundFault (setCore s n c) n m.id

/-- CAP_BINDING_DONE: an accepted command starts and binds (R417, R418). -/
def execCapBindingDone (cmd : Nat) (s : State) : Host.Outcome State Fault Refusal :=
  .next (
    let n := s.core
    if (cur s).saving then s
    else
      let s := match capRuns (cur s) cmd with | some (m, k) => capStart s n m k | none => s
      match capRuns (cur s) cmd with
      | none => s
      | some (m, k) =>
        if !k.active || k.bound then s
        else match bindAll s n m k with
          | (s, .error (.park va e)) => parkCmd s n m (BitVec.ofNat 64 va) e
          | (s, .error (.memory va b)) => capFault s n m 0x06 b va true
          | (s, .ok (ps, bs, fs)) =>
            let s := updCore s n fun c => putCap c { k with bound := true, bags := bs, pages := ps }
            fs.foldl (fun s f => capNote s n m f.1 f.2.1 f.2.2) s)

-- sums ------------------------------------------------------------------------------------------------------------

/-- Bytes of element `e` in a row. -/
def rowElem (r : List Word) (bs : List Byte) (e : Nat) : Nat :=
  leNat ((bs.drop ((if cFp8 r then 4 else 0) + cElem r * e)).take (cElem r))
/-- The scale of an FP8 row (R413). -/
def rowScale (bs : List Byte) : Val := decodeF f32 (leNat (bs.take 4))
/-- x(r, e) of R413 with the flags of its exact product. -/
def rowValue (r : List Word) (bs : List Byte) (e : Nat) : Val × Flags :=
  let v := decodeF (cFormat r) (rowElem r bs e)
  if cFp8 r then mulV v (rowScale bs) else (v, 0)

/-- Global rank of a capacity address (R410). -/
def globalRank (pa : Nat) : Nat := (pa - 2 ^ 42) / 2 ^ 36 % 64

/-- A rank's partial of element `e` (R73). -/
def rankPartial (r : List Word) (e : Nat) (rows : List (Nat × W32 × List Byte)) : Nat × Flags :=
  rows.foldl (fun acc row =>
    let x := rowValue r row.2.2 e
    let y := fmaV false (decodeF f32 row.2.1.toNat) x.1 (decodeF f32 acc.1)
    let z := toF32 (y.1, acc.2 ||| x.2 ||| y.2)
    z) (0, 0)

/-- The combination of partials in ascending rank (R73). -/
def combinePartials (ps : List (Nat × Flags)) : Nat × Flags :=
  match ps with
  | [] => (0, 0)
  | p :: rest => rest.foldl (fun acc q =>
      let y := addV false (decodeF f32 acc.1) (decodeF f32 q.1)
      toF32 (y.1, acc.2 ||| q.2 ||| y.2)) p

/-- Element `e` of a bag's pooled vector (R73, R419). -/
def pooled (r : List Word) (rows : List (Nat × W32 × List Byte)) (e : Nat) : Nat × Flags :=
  let ranks := (List.range 64).filter fun g => rows.any fun x => globalRank x.1 == g
  combinePartials (ranks.map fun g => rankPartial r e (rows.filter fun x => globalRank x.1 == g))

/-- The pooled vector with its flags. -/
def pooledVector (r : List Word) (rows : List (Nat × W32 × List Byte)) : List W32 × Flags :=
  let es := (List.range (cD r)).map (pooled r rows)
  (es.map fun e => BitVec.ofNat 32 e.1, es.foldl (fun f e => f ||| e.2) 0)

/-- A gathered row in FP32 (R421): an FP32 element as it is, a BF16 one converted (R46, R58), an FP8 one as x(r, e) rounded. -/
def gatheredRow (r : List Word) (bs : List Byte) : List W32 × Flags :=
  let es := (List.range (cD r)).map fun e =>
    if cFmt r = 0 then (rowElem r bs e, 0)
    else let x := rowValue r bs e; toF32 (x.1, x.2 ||| nvOf [decodeF (cFormat r) (rowElem r bs e)])
  (es.map fun e => BitVec.ofNat 32 e.1, es.foldl (fun f e => f ||| e.2) 0)

/-- A row after one update by gradient `g` with weight `w` (R422). -/
def updatedRow (r : List Word) (w : W32) (g : List W32) (bs : List Byte) : List Byte × Flags :=
  let es := (List.range (cD r)).map fun e =>
    let x := rowValue r bs e
    let y := fmaV false (decodeF f32 w.toNat) (decodeF f32 (nthD g e 0).toNat) x.1
    let z := if cFp8 r then divV y.1 (rowScale bs) else (y.1, 0)
    let v := roundTo (cFormat r) 0 (cSat r) 0 z.1
    (leBytes (cElem r) v.1, x.2 ||| y.2 ||| z.2 ||| v.2)
  ((if cFp8 r then bs.take 4 else []) ++ es.flatMap (·.1), es.foldl (fun f e => f ||| e.2) 0)

-- results ---------------------------------------------------------------------------------------------------------

/-- The runs of one vector, or of a null one, and the marker (R420). -/
def vectorToks (ctx d : Nat) (v : Option (List W32)) : List Tok :=
  ((List.range ((d + 31) / 32)).map fun k =>
    loadedRun ctx (32 * k) ((List.range (min 32 (d - 32 * k))).map fun i => v.map fun x => nthD x (32 * k + i) 0)) ++ [markTok ctx]

/-- Appends tokens to what the command's port has still to send. -/
def capSend (c : Core) (m : Cmd) (ts : List Tok) : Core :=
  match capPort m with
  | some x => setPort c x { portAt c x with outq := (portAt c x).outq ++ ts }
  | none => c

/-- A vector into scratchpad at window offset `o`; none when its area fails R270. -/
def capStore (s : State) (n : Nat) (m : Cmd) (o : Nat) (v : List W32) : Option State :=
  (capWindow s n m o (4 * v.length) false true).map fun a =>
    updCore s n fun c => { c with scratch := memWrite c.scratch a (v.flatMap fun w => leBytes 4 w.toNat) }

/-- The first of the bags is done. -/
def nextBag (k : Cap) : Cap :=
  { k with bags := k.bags.drop 1, next := k.next + 1, begun := false, row := 0, got := [], lost := false, grad := [] }

/-- Context of a command. -/
def capCtx (c : Core) (m : Cmd) : Nat := match cmdCohort c m with | some h => h.ctx | none => 0

/-- Delivers the pooled result of the bag at hand, or its null result (R419, R420). -/
def poolDeliver (s : State) (n : Nat) (m : Cmd) (k : Cap) (null : Bool) : State :=
  let r := k.rcd
  let c := coreAt s n
  let (v, f) := if null then ([], 0) else pooledVector r k.got
  let s := setCore s n (putCap (raiseIn c 8 f) (nextBag k))
  if capVirtual m then updCore s n fun c => capSend c m (vectorToks (capCtx c m) (cD r) (if null then none else some v))
  else if null then s
  else (capStore s n m (m.fld 3 0 21 + 4 * cD r * k.next) v).getD s

/-- Reads the next row of a pooled bag, one event at its rank (R419); the last one delivers the result. -/
def poolRow (s : State) (n : Nat) (m : Cmd) (k : Cap) (b : CapBag) : State :=
  match b.rows[k.row]? with
  | none => poolDeliver s n m k b.bad
  | some (va, pa, w) =>
    let bad := isBad s.badMem pa (cRowSize k.rcd)
    let s := if bad then capNote s n m 0x04 k.next va else s
    let k := { k with posted := (match capAt (coreAt s n) m.id with | some x => x.posted | none => k.posted) }
    let k := { k with begun := true, row := k.row + 1, lost := k.lost || bad,
                      got := if bad then k.got else k.got ++ [(pa, w, memRead s.mem pa (cRowSize k.rcd))] }
    if k.row < b.rows.length then updCore s n fun c => putCap c k
    else poolDeliver (updCore s n fun c => putCap c k) n m k k.lost

/-- One row of a gathered bag, or the stop token behind the bag (R421). With FIN the port's final marker follows the last
stop token (DEDUCED). -/
def gatherRow (s : State) (n : Nat) (m : Cmd) (k : Cap) (b : CapBag) : State :=
  let r := k.rcd
  let ctx := capCtx (coreAt s n) m
  let send := fun (s : State) (ts : List Tok) => updCore s n fun c => capSend c m ts
  if k.row ≥ b.len then
    let last := k.bags.length ≤ 1 && m.fld 2 20 1 = 1
    let s := updCore s n fun c => putCap c (nextBag k)
    send s (stopTok ctx 1 :: if last then [markTok ctx] else [])
  else
    let step := fun (s : State) => updCore s n fun c =>
      match capAt c m.id with
      | some x => putCap c { x with begun := true, row := x.row + 1, out := x.out + 1 }
      | none => c
    match b.rows[k.row]? with
    | none => step (send s (vectorToks ctx (cD r) none))
    | some (va, pa, _) =>
      if isBad s.badMem pa (cRowSize r) then step (send (capNote s n m 0x04 k.next va) (vectorToks ctx (cD r) none))
      else
        let (v, f) := gatheredRow r (memRead s.mem pa (cRowSize r))
        let s' := updCore s n fun c => raiseIn c 8 f
        if capVirtual m then step (send s' (vectorToks ctx (cD r) (some v)))
        else match capStore s' n m (m.fld 3 0 21 + 4 * cD r * k.out) v with
          | some t => step t
          | none => capFault s n m 0x05 k.next va true

/-- The head of what the port has still to send enters the region (R313, R420). -/
def capEmit (s : State) (n : Nat) (m : Cmd) (k : Cap) (x : Nat) (t : Tok) : State :=
  updCore s n fun c =>
    if !(portTakes c x t) then c
    else
      let rest := (portAt c x).outq.drop 1
      portMakes (m.fld 2 20 1 = 1 && k.next ≥ cBags k.rcd && rest.isEmpty) (setPort c x { portAt c x with outq := rest }) (x, t)

/-- CAP_BAG_RESULT: the next row of the bag at hand is read, its result is delivered in bag order, or a token of it enters
the region (R419 to R421). A save begins no bag, and ends the one at hand with its tokens left at the port (R425). -/
def execCapBagResult (cmd : Nat) (s : State) : Host.Outcome State Fault Refusal :=
  .next (
    let n := s.core
    match capRuns (cur s) cmd with
    | none => s
    | some (m, k) =>
      let pending := match capPort m with | some x => ((portAt (cur s) x).outq.head?).map fun t => (x, t) | none => none
      match pending.filter (fun _ => !(cur s).saving) with
      | some (x, t) => capEmit s n m k x t
      | none =>
        match k.bags with
        | [] => s
        | b :: _ =>
          if isScatter m || !k.bound || ((cur s).saving && !k.begun) then s
          else if isPool m then poolRow s n m k b else gatherRow s n m k b)

/-- Skips the bags that have no update to make. -/
def skipBags : Nat → Cap → Cap
  | 0, k => k
  | f + 1, k => match k.bags with
    | b :: _ => if b.bad || b.len = 0 then skipBags f (nextBag k) else k
    | [] => k

/-- The gradient of the bag at hand (R422): its values, or the fault that ends the command. -/
def readGrad (s : State) (n : Nat) (m : Cmd) (k : Cap) (va : Nat) : Except (Nat × Nat) (List W32) :=
  let d := cD k.rcd
  if capVirtual m then
    let at' := fun e =>
      let v := gradVa m k.rcd k.next e
      (v, ((k.pages.find? fun p => p.1 == v / 65536).map fun p => p.2 * 65536 + v % 65536).getD 0)
    match (List.range d).find? fun e => placeBad s (at' e).2 4 with
    | some e => .error (0x06, (at' e).1)
    | none => .ok ((List.range d).map fun e => BitVec.ofNat 32 (memNat s.mem (at' e).2 4))
  else match capWindow s n m (m.fld 3 0 21 + 4 * d * k.next) (4 * d) true false with
    | none => .error (0x05, va)
    | some a =>
      if isBad (coreAt s n).badScratch a (4 * d) then .error (0x06, va)
      else .ok ((List.range d).map fun e => BitVec.ofNat 32 (memNat (coreAt s n).scratch (a + 4 * e) 4))

/-- One update at a rank, as one event on the whole row (R85, R422). -/
def rowUpdate (s : State) (n : Nat) (m : Cmd) (k : Cap) (b : CapBag) (va pa : Nat) (w : W32) : State :=
  let r := k.rcd
  let k' := { k with begun := true, row := k.row + 1 }
  let k' := if k'.row < b.rows.length then k' else nextBag k'
  let s := updCore s n fun c => putCap c k'
  if isBad s.badMem pa (cRowSize r) then capNote s n m 0x04 k.next va
  else
    let (bs, f) := updatedRow r w k.grad (memRead s.mem pa (cRowSize r))
    updCore (placeWrite s pa bs) n fun c => raiseIn c 8 f

/-- CAP_ROW_UPDATE: the next update of a scatter-add in bag and index order (R422); a save begins no bag (R425). -/
def execCapRowUpdate (cmd : Nat) (s : State) : Host.Outcome State Fault Refusal :=
  .next (
    let n := s.core
    match capRuns (cur s) cmd with
    | none => s
    | some (m, k0) =>
      let k := skipBags k0.bags.length k0
      if !(isScatter m) || !k.bound then s
      else match k.bags with
      | [] => updCur s fun c => putCap c k
      | b :: _ =>
        if (cur s).saving && !k.begun then s
        else match b.rows[k.row]? with
          | none => s
          | some (va, pa, w) =>
            if k.begun then rowUpdate s n m k b va pa w
            else match readGrad s n m k va with
              | .error (cause, a) => capFault s n m cause k.next a true
              | .ok g => rowUpdate s n m { k with grad := g } b va pa w)

/-- A capacity command whose bags are done and whose tokens have entered the region is done (R417). -/
def pollCapacity (s : State) (n : Nat) (m : Cmd) : State :=
  match capRuns (coreAt s n) m.id with
  | none => s
  | some (_, k) =>
    let sent := match capPort m with | some x => (portAt (coreAt s n) x).outq.isEmpty | none => true
    if !k.bound || !k.bags.isEmpty || !sent then s
    else
      let s := updCore s n fun c =>
        let c := { c with caps := c.caps.filter fun x => x.id != m.id }
        match capPort m with
        | some x => setPort c x { portAt c x with cur := none }
        | none => c
      finishCmd s n m.id

end Sys2Proof.Machine
end

