-- ==== Sys2Proof/Machine/MemoryNode.lean ====
section
/-! DEFINITION. Memory nodes (R282 to R304): addresses, translation and parking, compare queues, cached and bypassing
accesses, atomics, fences, cache maintenance, eviction and prefetch. -/

namespace Sys2Proof.Machine

/-- Segment `n` of the cohort (R287). -/
def segOf (c : Core) (n : Nat) : Word := match fabricCohort c with | some h => nthD h.segs n 0 | none => 0

/-- `lane_va` of R288. -/
def laneVa (c : Core) (sl : Slot) (gather : Bool) (size : Nat) (a : W32) : Word :=
  let b := segOf c (sl.k0.toNat % 16)
  if gather then b + BitVec.ofNat 64 (a.toNat * size) else b + a.signExtend 64

/-- A memory-node fault record (R303) of node `x`; every one ends the cohort. -/
def mnFault (s : State) (k x slot cause : Nat) (f : Fire) (addr : Word) : State :=
  let sp := fireSpan f
  nodeFault s k x slot cause sp.1 sp.2 addr

/-- The TLB entry of node `x`, else of the second level, that serves `va` for the need (R289). -/
def tlbHit (c : Core) (x : Nat) (va : Word) (need : Need) : Option Tlb :=
  let ok := fun (t : Tlb) => canonical va && t.covers va && t.grants need && (!need.writes || t.dt)
  (nodeAt c x).tlb.find? ok <|> c.tlb2.find? ok

/-- Installs a translation in both TLBs, of 64 and 1,024 entries (R289). -/
def tlbFill (c : Core) (x : Nat) (t : Tlb) : Core :=
  let nd := nodeAt c x
  setNode { c with tlb2 := t :: (c.tlb2.filter fun e => e.va != t.va || e.size != t.size).take 1023 } x
    { nd with tlb := t :: (nd.tlb.filter fun e => e.va != t.va || e.size != t.size).take 63 }

/-- The entry after a demand access to physical address `pa` through it (R302). -/
def Tlb.demand (t : Tlb) (pa : Nat) : Tlb := { t with used := if t.used.contains (pa / 65536) then t.used else pa / 65536 :: t.used }

/-- A lane's translation at node `x` (R289, R186). -/
def nodeTranslate (s : State) (k x : Nat) (va : Word) (need : Need) : State × Except Nat Nat :=
  match tlbHit (coreAt s k) x va need with
  | some t => (updCore s k fun c => tlbFill c x (t.demand (t.phys va)), .ok (t.phys va))
  | none =>
    match translateAt s k va need with
    | (s, .ok t) => (updCore s k fun c => tlbFill c x (t.demand (t.phys va)), .ok (t.phys va))
    | (s, .error e) => (s, .error e)

/-- A fired set cut to some of its tags. -/
def cutFire (f : Fire) (tags : List Nat) : Fire := { f with toks := f.toks.map fun t => t.cut tags }

/-- Translates lanes (tag, address) in ascending tag order: physical addresses by tag, and the first fault. -/
def translateLanes (k x : Nat) (need : Need) : State → List (Nat × Word) → List (Nat × Nat) →
    State × List (Nat × Nat) × Option (Nat × Word × Nat)
  | s, [], out => (s, out, none)
  | s, (tag, va) :: r, out =>
    match nodeTranslate s k x va need with
    | (s, .ok pa) => translateLanes k x need s r (out ++ [(tag, pa)])
    | (s, .error e) => (s, out, some (tag, va, e))

/-- Sorts lanes by tag. -/
def byTag {α : Type} (l : List (Nat × α)) : List (Nat × α) :=
  l.foldr (fun a r => (r.takeWhile fun e => e.1 < a.1) ++ a :: (r.dropWhile fun e => e.1 < a.1)) []

/-- The tags of the acting lanes of a fired set at node `x`. -/
def actTags (c : Core) (x : Nat) (f : Fire) : List Nat :=
  ((unitLanes (.mn x) ((unitAt c (.mn x)).slot f.slot) f).filter (·.act)).map (·.tag)

/-- Parks a piece of a run (R290): one record of kind run translation. -/
def parkPiece (s : State) (k x slot cause : Nat) (f : Fire) (va : Word) : State :=
  match fabricCohort (coreAt s k) with
  | none => s
  | some h =>
    let n := (ctxAt s h.ctx).seq
    let sp := fireSpan f
    let fl := placeFlags (coreAt s k) (nodeAt (coreAt s k) x).u.place
    let piece := { f with slot := slot, acts := actTags (coreAt s k) x { f with slot := slot } }
    let s := updCore s k fun c => { c with parked := c.parked ++ [{ seq := n, who := .piece x piece, va := va, inRing := false, answer := 0 }] }
    putRecord s h.ctx h.lid (some h.launch)
      { Record.mk' 0x08 2 cause false with
        park := true, core := k, pos := x, slot := slot, flags := fl, base := sp.1, len := sp.2, addr := va }

/-- Splits a fired set at the first faulting lane: the piece that goes on and the piece that parks (R290); a packed run
parks whole. -/
def splitAtFault (f : Fire) (bad : Option Nat) : Option Fire × Option Fire :=
  match bad with
  | none => (some f, none)
  | some t =>
    let tags := sortTags (fireTags f)
    let low := tags.filter (· < t)
    if (f.toks.any fun q => q.kind == .packed) || low.isEmpty then (none, some f)
    else (some (cutFire f low), some (cutFire f (tags.filter (· ≥ t))))

/-- What an access instruction of a memory node needs, its size, gather addressing, and source selects for address, data
and expected value. -/
structure Form where
  op : Instr
  need : Need
  size : Nat
  gather : Bool
  a : Nat
  b : Option Nat
  c : Option Nat
  deriving DecidableEq, Repr

/-- Bytes that an entry of a compare queue covers: the line for `mflush` and `minv` (R294). -/
def entrySpan (i : Instr) (a : Access) : Nat × Nat :=
  match i with
  | .mflush _ _ _ => (a.addr / 1024 * 1024, 1024)
  | .minv _ _ _ => (a.addr / 1024 * 1024, 1024)
  | _ => (a.addr, a.size)

/-- Spans overlap. -/
def spansMeet (a b : Nat × Nat) : Bool := decide (a.1 < b.1 + b.2 ∧ b.1 < a.1 + a.2)

/-- An earlier entry of the queue holds `a`: one of the same thread, or of the same run, with overlapping bytes (R90, R294). -/
def heldBy (c : Core) (q : List Access) (f : Flight) (a : Access) : Bool :=
  q.any fun b =>
    match c.flights.find? fun g => g.id == b.flight with
    | some g => (b.run == a.run || b.tag == a.tag) && spansMeet (entrySpan g.op b) (entrySpan f.op a)
    | none => false

/-- The entries of `q`, behind those in `seen`, that nothing holds. -/
def unheld (c : Core) : List Access → List Access → List (Nat × Nat)
  | _, [] => []
  | seen, a :: q =>
    let r := unheld c (seen ++ [a]) q
    match c.flights.find? fun f => f.id == a.flight with
    | some f => if heldBy c seen f a then r else (a.flight, a.lane) :: r
    | none => (a.flight, a.lane) :: r

/-- Lanes at the crossbar enter a bank's compare queue of 128 entries while it has room, and an entry that nothing holds any more
reaches the bank (R292, R294; log entry 92). -/
def fillCompare (c : Core) (nd : Node) : Node :=
  let n := 128 - nd.compare.length
  let q := nd.compare ++ nd.cross.take n
  let free := unheld c [] q
  { nd with compare := q, cross := nd.cross.drop n
            arrived := nd.arrived ++ free.filter fun e => !nd.arrived.contains e }

/-- An ordering token that waits goes once no acting lane of its flight stands at the crossbar (R285). -/
def sendOwed (s : State) (k : Nat) : State :=
  let c := coreAt s k
  let at' := fun (f : Flight) => c.nodes.any fun e => e.2.cross.any fun a => a.flight == f.id
  (c.flights.filter fun f => f.owes && !(at' f)).foldl (fun s f =>
    let s := updCore s k fun c => census { c with
      flights := mapWhere c.flights (fun g => g.id == f.id) fun g => { g with owes := false } } (firePlace f.fire) 1
    emitTok s k f.unit f.slot (ordTok f.fire f.acting)) s

/-- Enters the acting lanes of a fired set in their compare queues as a flight (R294); the ordering token goes once they are all
entered (R285). -/
def enterLanes (s : State) (k x : Nat) (fm : Form) (f : Fire) (ls : List Work) (pas : List (Nat × Nat)) : State :=
  let id := UnitId.mn x
  let sl := (unitAt (coreAt s k) id).slot f.slot
  let act := ls.filter (·.act)
  let fl : Flight :=
    { id := s.nextId, unit := id, slot := f.slot, op := fm.op, fire := f, acting := act.map (·.pos),
      res := ls.map fun l => if l.act then ⟨0, false⟩ else l.res, left := act.length, cancelled := false
      owes := dstOf fm.op = 2 }
  let accs := (byTag (act.map fun l => (l.tag, l))).filterMap fun e =>
    (pas.find? fun p => p.1 == e.1).map fun p =>
      let v := fun (q : Option Nat) => match q with | some i => unitSrc sl e.2 i | none => 0
      (ownBank (coreAt s k) p.2,
       ({ flight := fl.id, lane := e.2.pos, tag := e.1, addr := p.2, size := fm.size, data := v fm.b, cmp := v fm.c, run := f.run } : Access))
  let s := { s with nextId := s.nextId + 1 }
  let s := updCore s k fun c =>
    accs.foldl (fun c e => let nd := nodeAt c e.1; setNode c e.1 (fillCompare c { nd with cross := nd.cross ++ [e.2] }))
      { c with flights := c.flights ++ [fl] }
  let s := sendOwed s k
  if act.isEmpty then endFlight s k fl (dstOf fm.op) (dstOf fm.op = 2) else s

/-- The acting lanes of a fired set at node `x` with their addresses, in ascending tag order (R288). -/
def laneAddrs (c : Core) (x : Nat) (fm : Form) (f : Fire) : List (Nat × Word) :=
  let sl := (unitAt c (.mn x)).slot f.slot
  byTag (((unitLanes (.mn x) sl f).filter (·.act)).map fun l =>
    (l.tag, laneVa c sl fm.gather fm.size (unitSrc sl l fm.a)))
/-- The lowest lane with a misaligned address (R288). -/
def misaligned (size : Nat) (vas : List (Nat × Word)) : Option (Nat × Word) := vas.find? fun e => e.2.toNat % size ≠ 0

/-- A compare queue that a lane of the fired set enters is full (R284): lanes of a run that faults or parks whole enter none. -/
def queueFull (s : State) (k x : Nat) (fm : Form) (f : Fire) : Bool :=
  let c := coreAt s k
  let vas := laneAddrs c x fm f
  if (misaligned fm.size vas).isSome then false
  else
    let (_, pas, bad) := translateLanes k x fm.need s vas []
    (splitAtFault f (bad.map (·.1))).1.isSome && pas.any fun e => decide ((nodeAt c (ownBank c e.2)).compare.length ≥ 128)

/-- A fired set at node `x` from its check on (R288 to R290, R294); also a parked piece that replays. A split raises the
census by one: the piece that parks counts as one token from then on. -/
def nodeAccess (s : State) (k x : Nat) (fm : Form) (f : Fire) : State :=
  let c := coreAt s k
  let id := UnitId.mn x
  let sl := (unitAt c id).slot f.slot
  let vas := laneAddrs c x fm f
  match misaligned fm.size vas with
  | some e => mnFault (updCore s k fun c => census c (firePlace f) (-(f.cnt : Int))) k x f.slot 0x01 f e.2
  | none =>
    let (s, pas, bad) := translateLanes k x fm.need s vas []
    let (go, park) := splitAtFault f (bad.map (·.1))
    let s := match go with
      | some g => enterLanes s k x fm g (unitLanes id sl g) pas
      | none => s
    match park, bad with
    | some p, some b =>
      if go.isSome then parkPiece (updCore s k fun c => census c (firePlace f) 1) k x f.slot b.2.2 { p with cnt := 1 } b.2.1
      else parkPiece s k x f.slot b.2.2 p b.2.1
    | _, _ => s

/-- The form of an instruction that forms addresses; none for the others. -/
def formOf (i : Instr) : Option Form :=
  match i with
  | .mld _ a t _ => some ⟨i, .read, accSize t.toNat, false, a.toNat, none, none⟩
  | .mldNc _ a t _ => some ⟨i, .read, accSize t.toNat, false, a.toNat, none, none⟩
  | .mgath _ a t _ => some ⟨i, .read, accSize t.toNat, true, a.toNat, none, none⟩
  | .mst _ a b t _ => some ⟨i, .write, accSize t.toNat, false, a.toNat, some b.toNat, none⟩
  | .mstNc _ a b t _ => some ⟨i, .write, accSize t.toNat, false, a.toNat, some b.toNat, none⟩
  | .mscat _ a b t _ => some ⟨i, .write, accSize t.toNat, true, a.toNat, some b.toNat, none⟩
  | .mamoAdd _ a b _ _ => some ⟨i, .both, 4, false, a.toNat, some b.toNat, none⟩
  | .mamoMin _ a b _ _ => some ⟨i, .both, 4, false, a.toNat, some b.toNat, none⟩
  | .mamoMax _ a b _ _ => some ⟨i, .both, 4, false, a.toNat, some b.toNat, none⟩
  | .mamoAnd _ a b _ => some ⟨i, .both, 4, false, a.toNat, some b.toNat, none⟩
  | .mamoOr _ a b _ => some ⟨i, .both, 4, false, a.toNat, some b.toNat, none⟩
  | .mamoXor _ a b _ => some ⟨i, .both, 4, false, a.toNat, some b.toNat, none⟩
  | .mamoSwap _ a b _ => some ⟨i, .both, 4, false, a.toNat, some b.toNat, none⟩
  | .mamoCas _ a b c _ => some ⟨i, .both, 4, false, a.toNat, some b.toNat, some c.toNat⟩
  | .mflush _ a _ => some ⟨i, .read, 4, false, a.toNat, none, none⟩
  | .minv _ a _ => some ⟨i, .read, 4, false, a.toNat, none, none⟩
  | _ => none

/-- The next set of slot `n` of node `x` needs a compare queue that is full (R284). -/
def slotBlocked (s : State) (k x n : Nat) : Bool :=
  let u := unitAt (coreAt s k) (.mn x)
  match decodeOp (u.slot n).word0, u.ready.find? (setMayFire true u n) with
  | .ok i, some f => (formOf i).any fun fm => queueFull s k x fm (normFire f)
  | _, _ => false
/-- The ready slots of node `x`: a slot is not ready while a compare queue that it needs is full (R205, R284). -/
def nodeReady (s : State) (k x : Nat) : List Nat := (readySlots (coreAt s k) (.mn x)).filter fun n => !(slotBlocked s k x n)
/-- The slot that node `x` starts next (R205). -/
def nextNodeSlot (s : State) (k x : Nat) : Option Nat := chooseSlot (unitAt (coreAt s k) (.mn x)) (nodeReady s k x)
/-- Takes the set that the memory node at the locus accepts (R205, R284). -/
def takeNode (s : State) : Option (Fire × Slot × Core) := takeReadySlot s (.mn s.locus.x) (nodeReady s s.core s.locus.x)

/-- Takes the set that a memory node accepts, and numbers the accepted run. -/
def takeRun (s : State) : Option (Fire × State) :=
  (takeNode s).map fun r => ({ r.1 with run := s.nextId }, { setCur s r.2.2 with nextId := s.nextId + 1 })

/-- A firing of an access instruction at the node of the locus. -/
def nodeFire (fm : Form) (s : State) : State :=
  match takeRun s with
  | none => s
  | some (f, t) => nodeAccess t t.core t.locus.x fm f

/-- Fires the access instruction `i`. -/
def accessFire (i : Instr) (s : State) : State := match formOf i with | some fm => nodeFire fm s | none => s

/-- `mld` (R297). -/
def execMld (d a t sc : BitVec 3) (s : State) : Host.Outcome State Fault Refusal := .next (accessFire (.mld d a t sc) s)
/-- `mst` (R297). -/
def execMst (d a b t sc : BitVec 3) (s : State) : Host.Outcome State Fault Refusal := .next (accessFire (.mst d a b t sc) s)
/-- `mld.nc` (R297). -/
def execMldNc (d a t sc : BitVec 3) (s : State) : Host.Outcome State Fault Refusal := .next (accessFire (.mldNc d a t sc) s)
/-- `mst.nc` (R297). -/
def execMstNc (d a b t sc : BitVec 3) (s : State) : Host.Outcome State Fault Refusal :=
  .next (accessFire (.mstNc d a b t sc) s)
/-- `mgath` (R297). -/
def execMgath (d a t sc : BitVec 3) (s : State) : Host.Outcome State Fault Refusal := .next (accessFire (.mgath d a t sc) s)
/-- `mscat` (R297). -/
def execMscat (d a b t sc : BitVec 3) (s : State) : Host.Outcome State Fault Refusal :=
  .next (accessFire (.mscat d a b t sc) s)
/-- `mflush` (R301). -/
def execMflush (d a sc : BitVec 3) (s : State) : Host.Outcome State Fault Refusal := .next (accessFire (.mflush d a sc) s)
/-- `minv` (R301). -/
def execMinv (d a sc : BitVec 3) (s : State) : Host.Outcome State Fault Refusal := .next (accessFire (.minv d a sc) s)
/-- `mamo.add` (R298). -/
def execMamoAdd (d a b t sc : BitVec 3) (s : State) : Host.Outcome State Fault Refusal :=
  .next (accessFire (.mamoAdd d a b t sc) s)
/-- `mamo.min` (R298). -/
def execMamoMin (d a b t sc : BitVec 3) (s : State) : Host.Outcome State Fault Refusal :=
  .next (accessFire (.mamoMin d a b t sc) s)
/-- `mamo.max` (R298). -/
def execMamoMax (d a b t sc : BitVec 3) (s : State) : Host.Outcome State Fault Refusal :=
  .next (accessFire (.mamoMax d a b t sc) s)
/-- `mamo.and` (R298). -/
def execMamoAnd (d a b sc : BitVec 3) (s : State) : Host.Outcome State Fault Refusal :=
  .next (accessFire (.mamoAnd d a b sc) s)
/-- `mamo.or` (R298). -/
def execMamoOr (d a b sc : BitVec 3) (s : State) : Host.Outcome State Fault Refusal :=
  .next (accessFire (.mamoOr d a b sc) s)
/-- `mamo.xor` (R298). -/
def execMamoXor (d a b sc : BitVec 3) (s : State) : Host.Outcome State Fault Refusal :=
  .next (accessFire (.mamoXor d a b sc) s)
/-- `mamo.swap` (R298). -/
def execMamoSwap (d a b sc : BitVec 3) (s : State) : Host.Outcome State Fault Refusal :=
  .next (accessFire (.mamoSwap d a b sc) s)
/-- `mamo.cas` (R298). -/
def execMamoCas (d a b c sc : BitVec 3) (s : State) : Host.Outcome State Fault Refusal :=
  .next (accessFire (.mamoCas d a b c sc) s)

/-- Scope code of a memory-node instruction. -/
def scopeOf : Instr → Nat
  | .mld _ _ _ s => s.toNat | .mst _ _ _ _ s => s.toNat | .mgath _ _ _ s => s.toNat | .mscat _ _ _ _ s => s.toNat
  | .mfence _ _ s => s.toNat | .mflush _ _ s => s.toNat | .minv _ _ s => s.toNat
  | _ => 5

/-- Where a lane performs (R79, R297): the purlin chip, home, or the owning bank. -/
inductive Place where
  | chip | home | bank
  deriving DecidableEq, Repr

/-- `place` of R297; atomics perform at home or at a purlin chip. -/
def placeOf (i : Instr) (pa : Nat) : Place := if isCap pa then .chip else if scopeOf i ≤ 1 then .bank else .home

/-- A write-back of sector `k` in bank `b` finds an error at home: it is the accessing lane's, which does not perform (R299). -/
def homeLost (s : State) (c : Core) (b k : Nat) : Bool := !(sectorAt c b k).dirty.isEmpty && placeBad s (128 * k) 128

/-- The lane of the compare queue that the bank performs next: the first of those that have reached it (R292). -/
def bankTurn (nd : Node) (idx : Nat) (a : Access) : Bool :=
  match nd.arrived.find? fun e => nd.compare.any fun b => (b.flight, b.lane) == e with
  | some e => e == (a.flight, a.lane)
  | none => idx == 0
/-- The node without entry `idx` of its compare queue, `a`. -/
def leaveQueue (c : Core) (nd : Node) (idx : Nat) (a : Access) : Node :=
  fillCompare c { nd with compare := dropNth nd.compare idx, arrived := nd.arrived.filter (· != (a.flight, a.lane)) }

/-- Performs one lane of `f` at its place (R82, R83, R297 to R299, R301): the state with the lane's value, or the cause of a
memory-node fault. -/
def performLane (s : State) (k : Nat) (f : Flight) (a : Access) : Except Nat (State × W32) :=
  let c := coreAt s k
  let pa := a.addr
  let bs := leBytes a.size a.data.toNat
  let kind := accessKind f.op
  let t := accessType f.op
  let bad := placeBad s pa a.size
  let sector := pa / 128
  let bankBad := bankBad c (ownBank c pa) sector
  let lost := homeLost s c (ownBank c pa)
  let line := (List.range 8).map fun i => pa / 1024 * 8 + i
  match f.op with
  | .mflush _ _ _ =>
    if scopeOf f.op ≤ 1 || isCap pa then .ok (s, 0)
    else if line.any (Machine.bankBad c (ownBank c pa)) then .error 2
    else if line.any lost then .error 3
    else .ok (line.foldl (fun s n => writeBack s k (ownBank c pa) n) s, 0)
  | .minv _ _ _ =>
    if scopeOf f.op ≤ 1 || isCap pa then .ok (s, 0)
    else if line.any (Machine.bankBad c (ownBank c pa)) then .error 2
    else if line.any lost then .error 3
    else .ok (line.foldl (fun s n => evictSector s k (ownBank c pa) n) s, 0)
  | _ =>
    match placeOf f.op pa with
    | .bank =>
      if bankBad then .error 2
      else if kind = 0 then
        let v := sectorAt c (ownBank c pa) sector
        let fills := !v.filled && (List.range a.size).any fun i => (mapGet v.dirty (pa % 128 + i)).isNone
        if fills && placeBad s (128 * sector) 128 then .error 3
        else let (s, b) := bankLoad s k pa a.size; .ok (s, accExt t (leNat b))
      else .ok (bankStore s k pa bs, 0)
    | .home =>
      if bankBad then .error 2
      else if kind = 0 then
        if bad || readsDirty c pa a.size && lost sector then .error 3
        else .ok (bypassRead s k pa a.size, accExt t (memNat (bypassRead s k pa a.size).mem pa a.size))
      else if bad || lost sector then .error 3
      else
        let s := bypassWrite s k pa
        if kind = 1 then .ok (placeWrite s pa bs, 0)
        else
          let old := memNat s.mem pa 4
          let n := atomNew (kind - 2) (t == 7) (t == 5) 32 old a.data.toNat a.cmp.toNat
          .ok (updCore (placeWrite s pa (leBytes 4 n.1)) k fun c => raisePlace c (unitAt c f.unit).place n.2, BitVec.ofNat 32 old)
    | .chip =>
      if bad then .error 3
      else if kind = 0 then .ok (s, accExt t (memNat s.mem pa a.size))
      else if kind = 1 then .ok (placeWrite s pa bs, 0)
      else
        let old := memNat s.mem pa 4
        let n := atomNew (kind - 2) (t == 7) (t == 5) 32 old a.data.toNat a.cmp.toNat
        .ok (updCore (placeWrite s pa (leBytes 4 n.1)) k fun c => raisePlace c (unitAt c f.unit).place n.2, BitVec.ofNat 32 old)

/-- The sectors that an access touches: its own, or its whole line's for `mflush` and `minv`. -/
def lineSectors (i : Instr) (pa : Nat) : List Nat :=
  match i with
  | .mflush _ _ _ => (List.range 8).map fun k => pa / 1024 * 8 + k
  | .minv _ _ _ => (List.range 8).map fun k => pa / 1024 * 8 + k
  | _ => [pa / 128]
/-- The sectors of the list that have an error become I (R299). -/
def loseSectors (c : Core) (b : Nat) (ks : List Nat) : Core :=
  ks.foldl (fun c k => if bankBad c b k then setSector c b k Sector.empty else c) c

/-- MN_LANE_PERFORM: entry `idx` of the compare queue of bank `bank` performs, once no earlier entry holds it and in the order in
which the bank is reached (R292, R294, R297); the flight leaves its node when every lane has performed. A record of cause 0x02 or
0x03 names the lane's physical address (log entry 95). -/
def execMnLanePerform (bank idx : Nat) (s : State) : Host.Outcome State Fault Refusal :=
  if bank ≥ 8 then .fault .noSuchUnit
  else .next (
    let k := s.core
    let c := cur s
    let nd := nodeAt c bank
    match nd.compare[idx]? with
    | none => s
    | some a =>
      match c.flights.find? fun f => f.id == a.flight with
      | none => setCur s (setNode c bank (leaveQueue c nd idx a))
      | some f =>
        if heldBy c (nd.compare.take idx) f a || !(bankTurn nd idx a) then s
        else
          let x := match f.unit with | .mn x => x | _ => 0
          let s := sendOwed (setCur s (setNode c bank (leaveQueue c nd idx a))) k
          match performLane s k f a with
          | .ok (s, v) => settleFlight (updCore s k fun c => laneDone c a.flight a.lane v true) k a.flight (dstOf f.op = 2)
          | .error e =>
            let s := if e = 2 then updCore s k fun c => loseSectors c (ownBank c a.addr) (lineSectors f.op a.addr) else s
            let s := mnFault s k x f.slot e f.fire (BitVec.ofNat 64 a.addr)
            settleFlight (updCore s k fun c => laneDone c a.flight a.lane 0 false) k a.flight (dstOf f.op = 2))

/-- `mord` (R295). -/
def execMord (s : State) : Host.Outcome State Fault Refusal :=
  .next (
    match takeNode s with
    | none => s
    | some (f, sl, core) =>
      let fl := newFlight s (.mn s.locus.x) .mord f (unitLanes (.mn s.locus.x) sl f) 0
      endFlight (addFlight (setCur s core) fl) s.core fl 2 false)

/-- What a fence of threads `tags` waits for (R265, R300): the accepted runs with a lane of one of them on its way or parked, and
the firings of scratchpad units with one that has not performed. -/
def openAccesses (c : Core) (tags : List Nat) : List Nat :=
  (((nodeLanes c).filter fun a => tags.contains a.tag).map (·.run)) ++ (((scratchLanes c).filter fun e => tags.contains e.2).map (·.1)) ++
  c.parked.filterMap fun p => match p.who with
    | .piece _ g => if g.acts.any fun t => tags.contains t then some g.run else none
    | _ => none

/-- `mfence` (R265, R300): the fence begins and waits for the accesses of its threads accepted before it. -/
def execMfence (d kd sc : BitVec 3) (s : State) : Host.Outcome State Fault Refusal :=
  .next (
    match takeNode s with
    | none => s
    | some (f, sl, core) =>
      let ls := unitLanes (.mn s.locus.x) sl f
      let tags := (ls.filter (·.act)).map (·.tag)
      let fl := newFlight s (.mn s.locus.x) (.mfence d kd sc) f ls 1
      updCur (addFlight (setCur s core) fl) fun c =>
        { c with fences := c.fences ++ [{ flight := fl.id, waits := openAccesses core tags, fatal := false }] })

/-- MFENCE_COMPLETE: fence `idx` completes once its accesses have performed or were cancelled; release, then acquire, at
.k or wider over the eight banks (R88, R300). -/
def execMfenceComplete (idx : Nat) (s : State) : Host.Outcome State Fault Refusal :=
  .next (
    let k := s.core
    let c := cur s
    match c.fences[idx]? with
    | none => s
    | some w =>
      match c.flights.find? fun f => f.id == w.flight with
      | none => setCur s { c with fences := dropNth c.fences idx }
      | some f =>
        let tags := f.acting.map fun i => nthD (fireTags f.fire) i 0
        if (openAccesses c tags).any w.waits.contains then s
        else
          let fatal := w.fatal
          let s := setCur s { c with fences := dropNth c.fences idx }
          let (kd, sc) := match f.op with | .mfence _ kd sc => (kd.toNat, sc.toNat) | _ => (0, 0)
          let s := if !fatal && kd ≥ 2 && sc ≥ 2 then releaseBanks s k else s
          let s := if !fatal && kd % 2 = 1 && sc ≥ 2 then acquireBanks s k else s
          endFlight s k { f with cancelled := fatal } (dstOf f.op) false)

/-- BANK_EVICT: bank `bank` evicts its sector at position `idx`, at any point (R82, R293, R299). -/
def execBankEvict (bank idx : Nat) (s : State) : Host.Outcome State Fault Refusal :=
  if bank ≥ 8 then .fault .noSuchUnit
  else .next (
    match (nodeAt (cur s) bank).sectors[idx]? with
    | some e => evictSector s s.core bank e.1
    | none => s)

/-- BANK_PREFETCH: bank `bank` fills the sector of `pa` that no access asked for, under the limits of R302: in state I, in the
64 KiB range of a demand access, through the entry that the access used. -/
def execBankPrefetch (bank pa : Nat) (s : State) : Host.Outcome State Fault Refusal :=
  if bank ≥ 8 then .fault .noSuchUnit
  else .next (
    let c := cur s
    let sect := pa / 128
    let covered := (c.nodes.flatMap fun e => e.2.tlb) ++ c.tlb2
    let range := covered.any fun t => t.rd && t.used.contains (128 * sect / 65536)
    if ownBank c pa ≠ bank || isCap pa || !range || (sectorAt c bank sect).filled || !(sectorAt c bank sect).dirty.isEmpty ||
       placeBad s (128 * sect) 128 || c.coh.isNone && c.prev.isNone then s
    else fillSector s s.core bank sect)

end Sys2Proof.Machine
end

