-- ==== Sys2Proof/Machine/HomeCommands.lean ====
section
/-! DEFINITION. Home slices (section 15): `amo`, `waitu`, `wcancel`, `cpin`, `cunpin`, `mwaitu`, the home map, spill areas,
sweeps, timeouts and wakes. -/

namespace Sys2Proof.Machine

-- atomics of the sequencer ----------------------------------------------------------------------------------------

/-- Size of an `amo` type: 8 for .s64 and .n64 (R386). -/
def amoSize (t : BitVec 3) : Nat := if t == 2 || t == 3 then 8 else 4
/-- The old value as rd takes it (R386). -/
def amoExt (t : BitVec 3) (old : Nat) : Word := if t == 0 then sextN 32 old else zextN old
/-- The new value of `amo` with its flags (R387). -/
def amoNew (o t : BitVec 3) (old b c : Nat) : Nat × Flags :=
  atomNew o.toNat (t == 4) (t == 0 || t == 2) (8 * amoSize t) old (b % 2 ^ (8 * amoSize t)) (c % 2 ^ (8 * amoSize t))

/-- The access of `amo` at `ea` with operand `b` and expected value `c` (R386). -/
def amoAccess (s : State) (ea : Word) (o t : BitVec 3) (b c : Nat) : State × Got :=
  let size := amoSize t
  match eaCheck true ea size with
  | some z => (s, .trap z)
  | none =>
    if inAperture ea then
      match localOf s (apOff ea) with
      | .scratch m f =>
        if size ≠ 4 then (s, .trap (causeLocal (apOff ea)))
        else if isBad (coreAt s m).badScratch f 4 then (s, .trap (causeError ea))
        else
          let old := memNat (coreAt s m).scratch f 4
          let n := amoNew o t old b c
          let s := updCore s m fun k => { k with scratch := memWrite k.scratch f (leBytes 4 n.1) }
          (updCur s fun k => raiseIn k 8 n.2, .value old)
      | _ => (s, .trap (causeLocal (apOff ea)))
    else
      match translateAt s s.core ea .both with
      | (s, .error e) => (s, .stall e)
      | (s, .ok p) =>
        let pa := p.phys ea
        if placeBad s pa size then (s, .trap (causeError ea))
        else
          let old := memNat s.mem pa size
          let n := amoNew o t old b c
          (updCur (placeWrite s pa (leBytes size n.1)) fun k => raiseIn k 8 n.2, .value old)

/-- `amo` (R385, R386): in program order, as one event. -/
def execAmo (d a b : Reg) (o t : BitVec 3) (s : State) : Host.Outcome State Fault Refusal :=
  .next (onIssue s ([d, a, b] ++ if o == 7 then [a + 1] else []) fun s c =>
    let ea := getX c.seq a
    let e := if o == 7 then (getX c.seq (a + 1)).toNat else 0
    finish ea (amoAccess (performStore (setCur s c) s.core) ea o t (getX c.seq b).toNat e) fun s old =>
      updCur s fun c => { noEarly c with seq := wrNext c.seq d (amoExt t old) })

-- the sequencer's wait --------------------------------------------------------------------------------------------

/-- Control word and mask of `waitu` that R405 refuses. -/
def waituBad (k m : Word) : Bool :=
  let cmp := k.toNat % 8
  cmp == 7 || (cmp == 6 && k.getLsbD 3) || k.toNat / 16 % 8 ≥ 6 || k.getLsbD 7 || k.toNat / 2 ^ 12 ≠ 0 ||
  (cmp ≠ 6 && m ≠ 0) || m.toNat / 2 ^ 32 ≠ 0

/-- `waitu` ends at once with a status or a wake, unless what it did at home has ended its cohort: DEAD stays (R133, R399). -/
def waituEnd (s : State) (d : Reg) (st : Nat) (v : Option Word) : State :=
  updCur s fun c =>
    if c.seq.st = .dead then c else
    let q := setX c.seq d (BitVec.ofNat 64 st)
    let q := match v with | some v => setX q (d + 1) v | none => q
    { c with seq := { q with pc := q.pc + 4, st := .run, waitu := none } }

/-- `waitu` (R405, R406): registers one watch of the sequencer and waits for its wake. Where the store before it, or the walk, ends
its cohort, nothing registers (R399, R401). -/
def execWaitu (d a b : Reg) (s : State) : Host.Outcome State Fault Refusal :=
  .next (onIssue s [d, d + 1, a, a + 1, a + 2, b] fun s c =>
    let s := performStore (setCur s (noEarly c)) s.core
    let ea := getX c.seq a
    let k := getX c.seq (a + 1)
    let m := getX c.seq (a + 2)
    let w := k.getLsbD 3
    let size := if w then 8 else 4
    if (cur s).seq.st = .dead then s
    else if waituBad k m then waituEnd s d 0x02 none
    else match eaCheck false ea size with
      | some z => trap s z
      | none =>
        if inAperture ea then waituEnd s d 0x15 none
        else match translateAt s s.core ea .read with
          | (s, .error e) => stallSeq s ea e
          | (s, .ok p) =>
            let pa := p.phys ea
            if isCap pa then waituEnd s d 0x15 none
            else if placeBad s pa size then trap s (causeError ea)
            else if (cur s).seq.st = .dead then s
            else
              let h := (cur s).coh
              let x := getX c.seq b
              let e : Watch :=
                { cmp := k.toNat % 8, w := w, scope := k.toNat / 16 % 8, agent := 1,
                  ctx := match h with | some h => h.ctx | none => 0
                  cont := 0, tmo := k.toNat / 256 % 16
                  cohort := match h with | some h => cohortIndex h | none => 0
                  launch := match h with | some h => h.launch | none => 0
                  tb := 0, dead := 0, pa := pa, opnd := if w then x else BitVec.ofNat 64 (x.toNat % 2 ^ 32),
                  mask := 0, mq := m.setWidth 32 }
              match register s e with
              | (s, .atOnce v) => waituEnd s d 0x11 (some v)
              | (s, .refused) => waituEnd s d 0x03 none
              | (s, .armed) => updCur s fun c =>
                  if c.seq.st = .dead then c else { c with seq := { c.seq with st := .wait, waitu := some (d.toNat, w) } })

/-- A sequencer wake (R400, R406): rd takes the cause, rd + 1 the value. -/
def wakeSeq (q : Seq) (cause : Nat) (v : Word) : Seq :=
  match q.waitu with
  | none => q
  | some (d, _) =>
    let r : Reg := BitVec.ofNat 5 d
    let q := setX (setX q r (BitVec.ofNat 64 cause)) (r + 1) v
    { q with pc := q.pc + 4, waitu := none
             st := if q.st = .wait then .run else q.st
             held := if q.held = .wait then .run else q.held }

-- commands --------------------------------------------------------------------------------------------------------

/-- Line of a physical address. -/
def lineOf (pa : Nat) : Nat := pa / 1024
/-- Pinned lines of the home slice of `pa` with the context of each. -/
def pinsAt (s : State) (pa : Nat) : List (Nat × Nat × Nat) :=
  s.pins.filter fun p => homeSlice s (1024 * p.1) == homeSlice s pa
/-- L2 set of a line address (R382). -/
def cacheSet (pa : Nat) : Nat := pa / 2 ^ 14 % 256

/-- `cpin` (R384) on an HBM line by context `ctx` with pin quota `quota`. -/
def pinLine (s : State) (ctx quota pa : Nat) : State × Verdict :=
  match s.pins.find? fun p => p.1 == lineOf pa with
  | some (l, x, n) =>
    if x ≠ ctx then (s, .refuse 0x1A)
    else if n ≥ 255 then (s, .refuse 0x03)
    else ({ s with pins := mapWhere s.pins (fun p => p.1 == l) fun p => (p.1, p.2.1, p.2.2 + 1) }, .ok)
  | none =>
    let ps := pinsAt s pa
    if (ps.filter fun p => cacheSet (1024 * p.1) == cacheSet pa).length ≥ 14 then (s, .refuse 0x18)
    else if (ps.filter fun p => p.2.1 == ctx).length ≥ quota then (s, .refuse 0x19)
    else ({ s with pins := s.pins ++ [(lineOf pa, ctx, 1)] }, .ok)

/-- `cunpin` (R384). -/
def unpinLine (s : State) (ctx pa : Nat) : State × Verdict :=
  match s.pins.find? fun p => p.1 == lineOf pa && p.2.1 == ctx with
  | none => (s, .refuse 0x1B)
  | some (l, _, n) =>
    if n ≤ 1 then ({ s with pins := s.pins.filter fun p => p.1 != l }, .ok)
    else ({ s with pins := mapWhere s.pins (fun p => p.1 == l) fun p => (p.1, p.2.1, p.2.2 - 1) }, .ok)

/-- Entries that `wcancel` with selector `sel` names for cohort `h` (R407). -/
def cancelNames (h : Cohort) (sel pa : Nat) (e : Watch) : Bool :=
  e.pa == pa && e.ctx == h.ctx &&
  match sel with
  | 0 => e.agent == 0 && isWaiter h e
  | 1 => e.agent == 0
  | 2 => e.agent == 1
  | _ => e.agent == 0 || e.agent == 1

/-- The home slices' answer to a command (R384, R407). -/
def judgeHome (s : State) (n : Nat) (m : Cmd) : State × Verdict :=
  let va := m.opnd 1
  match cmdCohort (coreAt s n) m with
  | none => (s, .refuse 0x02)
  | some h =>
    match m.op with
    | .wcancel _ _ _ =>
      if !canonical va || va.toNat % 4 ≠ 0 || !m.only 2 3 then (s, .refuse 0x02)
      else match cmdTranslate s n va .read with
        | (s, .error e) => (s, .park va e)
        | (s, .ok pa) =>
          let p := cancelNames h (m.fld 2 0 2) pa
          let k := (cancelled (cancelErrors s p) p).length
          (cancelWatches s p, .take (BitVec.ofNat 64 (min k 65535 * 2 ^ 16)))
    | op =>
      if !canonical va then (s, .refuse 0x02)
      else match cmdTranslate s n va .read with
        | (s, .error e) => (s, .park va e)
        | (s, .ok pa) =>
          if rangeOf s pa ≠ some .hbm then (s, .refuse 0x1C)
          else match op with
            | .cpin _ _ => pinLine s h.ctx (ctxAt s h.ctx).pinq pa
            | _ => unpinLine s h.ctx pa

-- the thread form -------------------------------------------------------------------------------------------------

/-- A block-scheduler fault (R376) of thread `tag` on core `n`. -/
def schedFault (s : State) (n cause tag : Nat) : State :=
  faultAt s n false { Record.mk' 0x0F 8 cause true with base := tag }
/-- The thread stands in a waiting or barrier vector or waits in WATCH (R355). -/
def inVector (c : Core) (t : Nat) : Bool :=
  c.bs.watch.contains t || (c.bs.waiting.any fun e => e.2.contains t) || c.bs.barred.any fun e => e.2.contains t
/-- A home-slice fault record (R409); it ends the cohort. -/
def homeFault (s : State) (n slice cause : Nat) (f : Fire) (addr : Word) : State :=
  let sp := fireSpan f
  faultAt s n false { Record.mk' 0x10 11 cause true with pos := slice, base := sp.1, len := sp.2, addr := addr }

/-- One acting lane of `mwaitu`: tag, virtual and physical address, operand, mask. -/
structure WLane where
  tag : Nat
  va : Word
  pa : Nat
  x : Word
  k : W32
  deriving DecidableEq, Repr

/-- Lanes that one entry holds (R403). -/
def sameGroup (a b : WLane) : Bool := a.pa == b.pa && a.x == b.x && a.k == b.k && a.tag / 32 == b.tag / 32

/-- Groups the lanes. -/
def groupLanes : List WLane → List (List WLane)
  | [] => []
  | a :: r =>
    let g := groupLanes r
    if g.any fun q => q.any (sameGroup a) then g.map fun q => if q.any (sameGroup a) then a :: q else q else [a] :: g

/-- Registers one group of threads (R390, R403); nothing registers for a cohort that has ended (R401). -/
def registerGroup (n : Nat) (f : Fire) (cmp : Nat) (w : Bool) (scope cont tmo : Nat) (s : State) (g : List WLane) : State :=
  match g, fabricCohort (coreAt s n) with
  | a :: _, some h =>
    if h.fatal then s
    else
    let e : Watch :=
      { cmp := cmp, w := w, scope := scope, agent := 0, ctx := h.ctx, cont := cont, tmo := tmo, cohort := cohortIndex h,
        launch := h.launch, tb := a.tag / 32, dead := 0, pa := a.pa, opnd := a.x,
        mask := g.foldl (fun m l => m ||| BitVec.ofNat 32 (2 ^ (l.tag % 32))) 0, mq := a.k }
    let s' := updCore s n fun c => { c with bs := { c.bs with watch := c.bs.watch ++ g.map (·.tag) } }
    match register s' e with
    | (s, .atOnce v) => { s with wakes := s.wakes ++ [{ cause := 0x11, value := v, e := e }] }
    | (s, .armed) => s
    | (s, .refused) => homeFault s n (homeSlice s a.pa) 0x02 f a.va
  | _, _ => s

/-- Why the lanes of an `mwaitu` stop at one of them (R403): its thread is in a vector; the address is misaligned, or its
translation faults; the word lies in the capacity tier; a bank sector, or home, has an error. -/
inductive WaitStop where
  | vector | misaligned | park (cause : Nat) | chip | bank | memory
  deriving DecidableEq, Repr

/-- The lanes (tag, address) of an `mwaitu` in ascending tag order, each with the check of R403: the physical addresses
found, and where and why the lanes stop. -/
def mwaituLanes (n x size : Nat) : State → List (Nat × Word) → List (Nat × Nat) →
    State × List (Nat × Nat) × Option (Nat × Word × WaitStop)
  | s, [], out => (s, out, none)
  | s, (t, va) :: r, out =>
    if inVector (coreAt s n) t then (s, out, some (t, va, .vector))
    else match nodeTranslate s n x va .read with
      | (s, .error e) => (s, out, some (t, va, .park e))
      | (s, .ok pa) =>
        let c := coreAt s n
        if isCap pa then (s, out, some (t, va, .chip))
        else if bankBad c (ownBank c pa) (pa / 128) then
          (updCore s n fun c => loseSectors c (ownBank c pa) [pa / 128], out, some (t, va, .bank))
        else if placeBad s pa size || readsDirty c pa size && homeLost s c (ownBank c pa) (pa / 128) then
          (s, out, some (t, va, .memory))
        else mwaituLanes n x size (bypassRead s n pa size) r (out ++ [(t, pa)])

/-- The whole check of R403 with that of R288: a misaligned lane stops the run before any lane translates, unless the lowest lane's
thread is in a vector, which is looked at first. -/
def mwaituCheck (n x size : Nat) (s : State) (vas : List (Nat × Word)) :
    State × List (Nat × Nat) × Option (Nat × Word × WaitStop) :=
  match vas.take 1 |>.find? fun e => inVector (coreAt s n) e.1, misaligned size vas with
  | none, some e => (s, [], some (e.1, e.2, .misaligned))
  | _, _ => mwaituLanes n x size s vas []

/-- The acting lanes of a fired `mwaitu` whose addresses are found register at home, group by group (R390, R403). -/
def registerLanes (s : State) (n x : Nat) (i : Instr) (g : Fire) (vas : List (Nat × Word)) (pas : List (Nat × Nat)) : State :=
  match i with
  | .mwaitu _ b c k w sc =>
    let sl := (unitAt (coreAt s n) (.mn x)).slot g.slot
    let lanes := (unitLanes (.mn x) sl g).filter (·.act)
    let wl := lanes.filterMap fun l => (pas.find? fun e => e.1 == l.tag).map fun e =>
      let lo := (unitSrc sl l b.toNat).toNat
      let hi := (unitSrc sl l c.toNat).toNat
      ({ tag := l.tag, va := ((vas.find? fun e => e.1 == l.tag).map (·.2)).getD 0, pa := e.2
         x := BitVec.ofNat 64 (if w = 1 then lo + 2 ^ 32 * hi else lo), k := if k = 6 then BitVec.ofNat 32 hi else 0 } : WLane)
    let s := (groupLanes wl).foldl
      (registerGroup n g k.toNat (w == 1) sc.toNat (sl.k0.toNat / 2 ^ 16 % 4096) (sl.k0.toNat / 2 ^ 28)) s
    updCore s n fun c => census c (firePlace g) (-(g.cnt : Int))
  | _ => s

/-- A fired set of `mwaitu` at node `x` of core `n` (R402, R403); also a parked piece that replays. A lane that faults parks the
piece from it on (R290); any other stop consumes the run, writes its record and ends the cohort. -/
def mwaituAccess (s : State) (n x : Nat) (i : Instr) (f : Fire) : State :=
  match i with
  | .mwaitu a _ _ _ w _ =>
    let core := coreAt s n
    let sl := (unitAt core (.mn x)).slot f.slot
    let size := if w = 1 then 8 else 4
    let ls := (unitLanes (.mn x) sl f).filter (·.act)
    let vas := byTag (ls.map fun l => (l.tag, laneVa core sl false size (unitSrc sl l a.toNat)))
    match mwaituCheck n x size s vas with
    | (s, pas, none) => registerLanes s n x i f vas pas
    | (s, pas, some (t, va, why)) =>
      let s' := updCore s n fun c => census c (firePlace f) (-(f.cnt : Int))
      match why with
      | .vector => schedFault s' n 0x06 t
      | .misaligned => mnFault s' n x f.slot 0x01 f va
      | .chip => homeFault s' n 0 0x01 f va
      | .bank => mnFault s' n x f.slot 0x02 f va
      | .memory => mnFault s' n x f.slot 0x03 f va
      | .park e =>
        match splitAtFault f (some t) with
        | (some g, some p) =>
          parkPiece (registerLanes (updCore s n fun c => census c (firePlace f) 1) n x i g vas pas) n x f.slot e { p with cnt := 1 } va
        | (_, some p) => parkPiece s n x f.slot e p va
        | (_, none) => s
  | _ => s

/-- `mwaitu` (R402, R403): a block exit. Its slot is not ready before every access of the run's threads has performed. -/
def execMwaitu (a b c k : BitVec 3) (w : BitVec 1) (sc : BitVec 3) (s : State) : Host.Outcome State Fault Refusal :=
  .next (
    match takeRun s with
    | none => s
    | some (f, s) => mwaituAccess s s.core s.locus.x (.mwaitu a b c k w sc) f)

-- the home map ----------------------------------------------------------------------------------------------------

/-- The named fields of a home-map entry: MODE, SET, SLOT, PROT. -/
def homeFields (v : Word) : Word := if v.extractLsb' 0 2 = 3 then v &&& 0x3FFC3 else v &&& 0x3FFFF
/-- Member count of a MODE. -/
def homeCount (mode : Nat) : Nat := if mode = 1 then 1 else if mode = 2 then 4 else 16
/-- Dies and slots an entry names: members, first slot, slots per member. -/
def homeSlots (v : Word) : List Nat × Nat × Nat :=
  let mode := v.toNat % 4
  (homeMembers mode (v.toNat / 4 % 16), v.toNat / 2 ^ 6 % 2 ^ 11, 16 / homeCount mode)
/-- Two entries share a storage slot on some die. -/
def slotsClash (a b : Word) : Bool :=
  let (ma, sa, ka) := homeSlots a
  let (mb, sb, kb) := homeSlots b
  ma.any (fun d => mb.contains d) && decide (sa < sb + kb ∧ sb < sa + ka)
/-- A populating write that R378 ignores. -/
def homeRefused (s : State) (n : Nat) (v : Word) : Bool :=
  let (_, slot, k) := homeSlots v
  slot % k ≠ 0 || (v.toNat % 4 = 2 && v.toNat / 4 % 16 > 3) || slot + k > 2048 ||
  s.homeMap.any fun e => e.1 != n && e.2.extractLsb' 0 2 != 0 && slotsClash v e.2

/-- Where the byte of region `n` at offset `a` is stored under entry `v`: 2^37·die + o (R380). -/
def storagePlace (v : Word) (a : Nat) : Nat :=
  let (mem, slot, _) := homeSlots v
  let g := a / 2 ^ 16
  2 ^ 37 * nthD mem (g % mem.length) 0 + slot * 2 ^ 26 + g / mem.length * 2 ^ 16 + a % 2 ^ 16
/-- The offset in the region of entry `v` at which storage place `p` stands, if it reaches it (R380). -/
def storageOffset (v : Word) (p : Nat) : Option Nat :=
  let (mem, slot, k) := homeSlots v
  let o := p % 2 ^ 37
  (findIdx mem fun d => d == p / 2 ^ 37).bind fun i =>
    if slot * 2 ^ 26 ≤ o && o < (slot + k) * 2 ^ 26 then
      let r := o - slot * 2 ^ 26
      some ((r / 2 ^ 16 * mem.length + i) * 2 ^ 16 + r % 2 ^ 16)
    else none

/-- The bytes of region `n` go to their storage places under entry `v` as the region leaves the map (R379, R380). -/
def regionToStorage (s : State) (n : Nat) (v : Word) : State :=
  let inR := fun pa => pa / 2 ^ 30 == n
  let place := fun pa => storagePlace v (pa % 2 ^ 30)
  { s with
    mem := s.mem.filter fun p => !inR p.1
    badMem := s.badMem.filter fun a => !inR a
    hbm := (s.mem.filter fun p => inR p.1).foldl (fun m p => memPut m (place p.1) p.2) s.hbm
    badHbm := s.badHbm ++ (s.badMem.filter inR).map place }

/-- Region `n` takes entry `v` and with it the bytes that its storage places hold (R378 to R380). -/
def regionFromStorage (s : State) (n : Nat) (v : Word) : State :=
  let base := n * 2 ^ 30
  let mine := fun p => storageOffset v p
  { s with
    homeMap := mapSet s.homeMap n (homeFields v)
    hbm := s.hbm.filter fun p => (mine p.1).isNone
    badHbm := s.badHbm.filter fun p => (mine p).isNone
    mem := s.hbm.foldl (fun m p => match mine p.1 with | some a => memPut m (base + a) p.2 | none => m) s.mem
    badMem := s.badMem ++ s.badHbm.filterMap fun p => (mine p).map (base + ·) }

/-- Depopulates region `n` (R379): pins go, watches leave with cause cancellation, the entry becomes unpopulated. -/
def depopulate (s : State) (n : Nat) (v : Word) : State :=
  let inR := fun pa => pa / 2 ^ 30 == n
  let s := cancelWatches s fun e => inR e.pa
  let s := regionToStorage s n (mapGetD s.homeMap n 0)
  { s with pins := s.pins.filter fun p => !(inR (1024 * p.1)), homeMap := mapSet s.homeMap n (homeFields v) }

/-- A write of home-map entry `n` (R378, R379): what the sequencers have stored before it has performed. -/
def writeHomeMap (s : State) (n : Nat) (v : Word) : State :=
  let s := performStores s
  let old := mapGetD s.homeMap n 0
  if v.extractLsb' 0 2 = 0 then (if old.extractLsb' 0 2 = 0 then { s with homeMap := mapSet s.homeMap n (homeFields v) } else depopulate s n v)
  else if old.extractLsb' 0 2 ≠ 0 || homeRefused s n v then s
  else regionFromStorage s n v

/-- HOME_MAP_WRITE (R378). -/
def execHomeMapWrite (n : Nat) (v : Word) (s : State) : Host.Outcome State Fault Refusal :=
  if n ≥ 2048 then .fault .noSuchUnit else .next (mgmt s fun s => writeHomeMap s n v)
/-- HOME_MAP_DEPOPULATE (R379): a write of MODE 00 to a populated entry. -/
def execHomeMapDepopulate (n : Nat) (v : Word) (s : State) : Host.Outcome State Fault Refusal :=
  if n ≥ 2048 then .fault .noSuchUnit else .next (mgmt s fun s => writeHomeMap s n (v &&& ~~~3#64))

-- spill areas and sweeps ------------------------------------------------------------------------------------------

/-- The area of `lg` and `base` lies in PROT regions and is aligned (R395). -/
def areaOk (s : State) (base lg : Nat) : Bool := base % (1024 * 2 ^ lg) = 0 && allProt s base (1024 * 2 ^ lg)
/-- SPEN, LOG2NB and BASE after a write that would set them (R395). -/
def setArea (s : State) (sl : Slice) (spen : Bool) (lg base : Nat) : Slice :=
  let changes := decide (lg ≠ sl.log2nb ∨ base ≠ sl.spbase)
  if !sl.spill.isEmpty then sl
  else if ((spen && !sl.spen) || (sl.spen && changes)) && !areaOk s base lg then sl
  else { sl with spen := spen, log2nb := lg, spbase := base }

/-- A write of HS_WCFG (R395). -/
def writeWcfg (s : State) (slice : Nat) (v : Word) : State :=
  let sl := sliceAt s slice
  setSlice s slice { setArea s sl (v.getLsbD 16) (v.toNat / 2 ^ 17 % 16) sl.spbase with wlimit := v.toNat % 2 ^ 13 }
/-- A write of HS_SPBASE (R395). -/
def writeSpbase (s : State) (slice : Nat) (v : Word) : State :=
  let sl := sliceAt s slice
  setSlice s slice (setArea s sl sl.spen sl.log2nb (v.toNat / 2 ^ 10 % 2 ^ 42 * 2 ^ 10))

/-- HS_WCFG_WRITE (R395). -/
def execHsWcfgWrite (slice : Nat) (v : Word) (s : State) : Host.Outcome State Fault Refusal :=
  if slice ≥ 256 then .fault .noSuchUnit else .next (mgmt s fun s => writeWcfg s slice v)

/-- A retry registers again; one that holds at once is woken with the observed value (R390, R398). -/
def retryWatch (s : State) (e : Watch) : State :=
  match registerRetry s e with
  | (s, .atOnce v) => { s with wakes := s.wakes ++ [{ cause := 0x11, value := v, e := e }] }
  | (s, _) => s

/-- WATCH_SWEEP (R394, R398): the sweep number rises, and refused registrations of the launch unit and the loaders
register again. -/
def execWatchSweep (slice : Nat) (s : State) : Host.Outcome State Fault Refusal :=
  if slice ≥ 256 then .fault .noSuchUnit
  else .next (
    let sl := sliceAt s slice
    let s := setSlice s slice { sl with sweep := (sl.sweep + 1) % 2 ^ 16, retry := [] }
    sl.retry.foldl retryWatch s)

/-- An entry's sweep has come: at most half the numbers lie behind it (R394). -/
def watchDue (sl : Slice) (e : Watch) : Bool := e.tmo != 0 && decide ((sl.sweep + 2 ^ 16 - e.dead) % 2 ^ 16 < 2 ^ 15)

/-- Takes entry `idx` of a slice, on-chip entries first. -/
def takeEntry (s : State) (n idx : Nat) : Option (Watch × State) :=
  let sl := sliceAt s n
  let k := idx - sl.onchip.length
  match sl.onchip[idx]? with
  | some e => some (e, setSlice s n { sl with onchip := dropNth sl.onchip idx })
  | none =>
    sl.spill[k]?.map fun e =>
      let rest := dropNth sl.spill k
      (e.2, setSlice { s with mem := memPut s.mem e.1 (memGet s.mem e.1 &&& 0xFE) } n
        { sl with spill := rest, filter := if rest.isEmpty then [] else sl.filter })

/-- WATCH_TIMEOUT (R393, R394): entry `idx` of the slice leaves with cause timeout once its sweep has come; a spilled one whose
bucket has an error meets R399. -/
def execWatchTimeout (slice idx : Nat) (s : State) : Host.Outcome State Fault Refusal :=
  if slice ≥ 256 then .fault .noSuchUnit
  else .next (
    let sl := sliceAt s slice
    match takeEntry s slice idx with
    | none => s
    | some (e, s') =>
      if idx ≥ sl.onchip.length && (sl.spill[idx - sl.onchip.length]?).any (fun x => bucketBad s x.1) then
        bucketError s slice (((sl.spill[idx - sl.onchip.length]?).map (·.1)).getD 0)
      else if watchDue (sliceAt s slice) e then
        { s' with wakes := s'.wakes ++ [{ cause := 0x12, value := watchValue s e, e := e }] }
      else s)

/-- WATCH_SPILL_MOVE (R393, R399): entry `idx` moves out of or into the table. -/
def execWatchSpillMove (slice idx : Nat) (s : State) : Host.Outcome State Fault Refusal :=
  if slice ≥ 256 then .fault .noSuchUnit
  else .next (
    let sl := sliceAt s slice
    if idx < sl.onchip.length then
      match sl.onchip[idx]? with
      | none => s
      | some e =>
        if !sl.spen then s
        else
          let t := if (freePlace s sl e.pa).isSome then setSlice s slice { sl with onchip := dropNth sl.onchip idx } else s
          (spillEntry t slice e).1
    else
      match sl.spill[idx - sl.onchip.length]? with
      | none => s
      | some e =>
        if bucketBad s e.1 then bucketError s slice e.1
        else if sl.onchip.length ≥ min sl.wlimit 4096 then s
        else match takeEntry s slice idx with
          | some (w, s') => setSlice s' slice { sliceAt s' slice with onchip := (sliceAt s' slice).onchip ++ [w] }
          | none => s)

-- wakes -----------------------------------------------------------------------------------------------------------

/-- What a core keeps of a wake until it is applied: agent, CONT, TB, MASK, W, SCOPE, PA. -/
def wakeIdent (e : Watch) : List Nat := [e.agent, e.cont, e.tb, e.mask.toNat, e.w.toNat, e.scope, e.pa]

/-- A loader wake (R173, R400): the first `cfg.fetch` that waits at the woken word takes the value and the cause. -/
def wakeLoader (c : Core) (cause pa : Nat) (v : Word) : Core :=
  match c.cmds.find? fun m => m.phase == .watching && m.value.toNat == pa with
  | none => c
  | some m =>
    let woken := fun (k : Cmd) => { k with phase := .running, value := v, ops := k.ops.take 2 ++ [BitVec.ofNat 64 cause] }
    { c with cmds := mapWhere c.cmds (fun k => k.id == m.id) woken }

/-- Applies a wake that the core took (R400). Thread wakes wait for THREAD_WAKE. -/
def applyWake (c : Core) (w : Nat × Word × List Nat) : Core :=
  match nthD w.2.2 0 0 with
  | 1 => { c with seq := wakeSeq c.seq w.1 w.2.1 }
  | 3 => wakeLoader c w.1 (nthD w.2.2 6 0) w.2.1
  | _ => { c with wakes := c.wakes ++ [w] }

/-- A core state holds a cohort that `p` picks. -/
def holdsCohort (c : Core) (p : Cohort → Bool) : Bool := c.coh.any p || c.prev.any p

/-- A wake-list entry (R464). -/
def wakeBytes (w : Wake) : List Byte :=
  let e := w.e
  leBytes 8 w.value.toNat ++
  leBytes 8 (w.cause % 256 + e.agent % 4 * 2 ^ 8 + e.cohort % 512 * 2 ^ 10 + e.cont % 4096 * 2 ^ 19 + e.tb % 128 * 2 ^ 31 +
    2 ^ 38 + e.w.toNat * 2 ^ 39) ++
  leBytes 8 e.mask.toNat ++ leBytes 8 0

/-- What a core keeps of a wake until it is applied. -/
def keptWake (w : Wake) : Nat × Word × List Nat := (w.cause, w.value, wakeIdent w.e)

/-- The oldest wake of a full list is applied to the saved state of its agent, and its entry is free again (R464). -/
def applyOldest (x : Ctx) : Ctx :=
  match x.wakes with
  | [] => x
  | (_, w) :: r =>
    { x with
      wakes := r
      saved := x.saved.map fun v =>
        if holdsCohort v.core fun h => isWaiter h w.e then { v with core := { v.core with wakes := v.core.wakes ++ [keptWake w] } } else v }

/-- A wake enters the list of context `x`: an entry of the save area takes it; a full list of 2,048 frees its oldest first. -/
def listWake (s : State) (x : Nat) (w : Wake) : State :=
  let k := ctxAt s x
  let k := if k.wakes.length ≥ 2048 then applyOldest k else k
  match (List.range 2048).find? fun i => !(k.wakes.any fun e => e.1 == i) with
  | none => s
  | some i => { setCtx s x { k with wakes := k.wakes ++ [(i, w)] } with
                mem := memSection s.mem (k.save + 32 * i) 32 (bytesMem 0 (wakeBytes w)) }

/-- WAKE_DELIVER: the wake at `idx` is handed on exactly once (R400): to the cohort's core, into the saved state of a core
whose save has begun (a loader wake acts at once), or to the context's wake list (R464). -/
def execWakeDeliver (idx : Nat) (s : State) : Host.Outcome State Fault Refusal :=
  .next (
    match s.wakes[idx]? with
    | none => s
    | some w =>
      if w.e.agent = 2 then s
      else
        let s := { s with wakes := dropNth s.wakes idx }
        match residentCore s w.e with
        | some n =>
          let x := keptWake w
          updCore s n fun c => if c.saving && w.e.agent != 3 then { c with wakes := c.wakes ++ [x] } else applyWake c x
        | none => if (ctxAt s w.e.ctx).st == .free then s else listWake s w.e.ctx w)

/-- Sets the tags of block `b` in a vector; an empty vector is not listed. -/
def putTags (m : SMap (List Nat)) (b : Nat) (tags : List Nat) : SMap (List Nat) :=
  if tags.isEmpty then mapDel m b else mapSet m b tags
/-- Adds tags to block `b`'s vector, in rising order. -/
def addTags (m : SMap (List Nat)) (b : Nat) (tags : List Nat) : SMap (List Nat) :=
  putTags m b (tags.foldl (fun l t => if l.contains t then l else insertTag t l) (mapGetD m b []))

/-- Reports a thread wake to the threads of its mask (R404): the report in lv(v − 8) to lv(v − 6), the acquire, the bit in
waiting[CONT]. -/
def threadWakeAt (s : State) (n : Nat) (w : Nat × Word × List Nat) : State :=
  let f := fun k => nthD w.2.2 k 0
  match fabricCohort (coreAt s n) with
  | none => s
  | some h =>
    let v := 8 * h.live
    let tags := (List.range 32).filterMap fun i => if f 3 / 2 ^ i % 2 = 1 then some (32 * f 2 + i) else none
    let lo := (w.2.1).setWidth 32
    let hi : W32 := if f 4 = 1 then w.2.1.extractLsb' 32 32 else 0
    let s := updCore s n fun c =>
      let c := tags.foldl (fun c t => lvSet (lvSet (lvSet c t (v - 8) (BitVec.ofNat 32 w.1)) t (v - 7) lo) t (v - 6) hi) c
      { c with bs := { c.bs with
          watch := c.bs.watch.filter fun t => !tags.contains t
          waiting := addTags c.bs.waiting (f 1) tags } }
    if f 5 ≥ 2 then acquireBanks s n else s

/-- THREAD_WAKE: the block scheduler applies the oldest thread wake it has received (R404). -/
def execThreadWake (s : State) : Host.Outcome State Fault Refusal :=
  .next (
    let c := cur s
    match c.wakes.find? fun w => nthD w.2.2 0 0 == 0 with
    | none => s
    | some w =>
      if c.saving then s
      else threadWakeAt (setCur s { c with wakes := c.wakes.erase w }) s.core w)

end Sys2Proof.Machine
end

