-- ==== Sys2Proof/Machine/Image.lean ====
section
/-! DEFINITION. Macro images (R162 to R165): their sections, slots as the loader loads them (R55, R56), and every check that
refuses one (R121, R122, R173, R176, R195, and the checks that other chapters send to R121). -/

namespace Sys2Proof.Machine

-- sections --------------------------------------------------------------------------------------------------------

/-- Little-endian number of `n` bytes of an image at `o`. -/
def imgNat (img : List Byte) (o n : Nat) : Nat := leNat ((img.drop o).take n)
/-- A field of header word 0. -/
def hdr (img : List Byte) (lo len : Nat) : Nat := imgNat img 0 8 / 2 ^ lo % 2 ^ len
/-- W of R163. -/
def hdrW (img : List Byte) : Nat := hdr img 0 4
/-- H. -/
def hdrH (img : List Byte) : Nat := hdr img 4 4
/-- ANCHOR: N E S W from bit 0. -/
def hdrAnchor (img : List Byte) : BitVec 4 := BitVec.ofNat 4 (hdr img 8 4)
/-- BLOCK. -/
def hdrBlock (img : List Byte) : Nat := hdr img 16 12
/-- LEN in 64-byte units. -/
def hdrLen (img : List Byte) : Nat := hdr img 32 9
/-- NEP. -/
def hdrNep (img : List Byte) : Nat := hdr img 48 5
/-- LIVEIN. -/
def hdrLivein (img : List Byte) : BitVec 256 := BitVec.ofNat 256 (imgNat img 16 32)
/-- LIVEOUT. -/
def hdrLiveout (img : List Byte) : BitVec 256 := BitVec.ofNat 256 (imgNat img 48 32)
/-- Entry `i` of the edge-port table. -/
def edgeAt (img : List Byte) (i : Nat) : W32 := BitVec.ofNat 32 (imgNat img (128 + 4 * i) 4)
/-- The edge-port entries in use. -/
def hdrEdges (img : List Byte) : List W32 := (List.range (hdrNep img)).map (edgeAt img)
/-- Set bits of LIVEOUT, rising. -/
def liveBits (v : BitVec 256) : List Nat := (List.range 256).filter fun i => v.getLsbD i

/-- Offset of the site record of macro site (x, y). -/
def siteOff (img : List Byte) (x y : Nat) : Nat := 256 + 512 * (hdrW img * y + x)
/-- Offset of the memory-node record of column `x`. -/
def nodeOff (img : List Byte) (x : Nat) : Nat := 256 + 512 * (hdrW img * hdrH img) + 256 * x
/-- Offset of the op list. -/
def listOff (img : List Byte) : Nat := nodeOff img (if (hdrAnchor img).getLsbD 0 then hdrW img else 0)
/-- Offset of the relay record. -/
def relayOff (img : List Byte) : Nat := listOff img + (if (hdrAnchor img).getLsbD 1 then 256 else 0)
/-- The size that R162 gives. -/
def imgSize (img : List Byte) : Nat := relayOff img + (if (hdrAnchor img).getLsbD 3 then 64 else 0)

/-- The checks of `cfg.fetch` on header and edge-port table (R162, R163, R165, R173). -/
def headerOk (img : List Byte) : Bool :=
  let w0 := imgNat img 0 8
  let edges := hdrEdges img
  1 ≤ hdrW img && hdrW img ≤ 8 && 1 ≤ hdrH img && hdrH img ≤ 6 && hdr img 12 3 ≤ 5 &&
  w0 / 2 ^ 15 % 2 = 0 && w0 / 2 ^ 28 % 16 = 0 && w0 / 2 ^ 41 % 2 ^ 7 = 0 && w0 / 2 ^ 53 = 0 &&
  hdrNep img ≤ 28 && 64 * hdrLen img = imgSize img && imgNat img 8 8 = 0 && imgNat img 80 48 = 0 &&
  (edges.all fun e => epPort e < 2 * hdrW img + 2 * hdrH img && (if epB e then epScope e ≤ 5 else epScope e = 0) &&
    e.toNat / 2 ^ 10 = 0) &&
  imgNat img (128 + 4 * hdrNep img) (128 - 4 * hdrNep img) = 0 &&
  (edges.filter fun e => !epOut e).length ≤ 8 && (liveBits (hdrLiveout img)).length ≤ 6

/-- A configuration at a place, from its image. -/
def imgConfig (img : List Byte) (place x0 y0 : Nat) : Config :=
  { place := place, block := hdrBlock img, scope := hdr img 12 3, x0 := x0, y0 := y0, w := hdrW img, h := hdrH img,
    anchor := hdrAnchor img, edges := hdrEdges img, livein := hdrLivein img, liveout := hdrLiveout img, launch := 0
    nd := if (hdrAnchor img).getLsbD 3 then BitVec.ofNat 32 (imgNat img (relayOff img + 16) 4) else 0 }

/-- What a re-optimised image must keep (R194). -/
def sameFrame (a b : List Byte) : Bool :=
  imgNat a 0 4 = imgNat b 0 4 && hdrNep a = hdrNep b && ((a.drop 16).take 64 == (b.drop 16).take 64) &&
  ((a.drop 128).take 128 == (b.drop 128).take 128)

-- slots -----------------------------------------------------------------------------------------------------------

/-- The stage word with DEF replaced by mode `m` (R56, R116). -/
def resolveDef (m : Nat) (acc : Bool) (w : W32) : W32 :=
  if (readsRnd w || (acc && Stg.ty w ≥ 3)) && Stg.rnd w = 6 then (w &&& ~~~0x70#32) ||| BitVec.ofNat 32 (m % 8 * 16) else w
/-- A site slot's record at `o` as loaded under rounding mode `m` (R164). -/
def siteSlot (img : List Byte) (o m : Nat) : Slot :=
  let w := fun k => BitVec.ofNat 32 (imgNat img (o + k) 4)
  let nst := imgNat img (o + 38) 1 % 8
  let nsw := imgNat img (o + 36) 1 % 16
  let ctl : W32 := w 32
  { en := imgNat img (o + 37) 1 % 2 = 1, nst := nst,
    stages := (List.range nst).map fun k => resolveDef m (ctl.getLsbD 13) (w (4 * k)),
    k0 := w 24, k1 := w 28, ctl := ctl,
    sw := (List.range nsw).map fun k => BitVec.ofNat 16 (imgNat img (o + 40 + 2 * k) 2), lfsr := lfsrSeed (w 28), loss := 0 }

/-- A memory-node slot's record at `o` (R164). -/
def nodeSlot (img : List Byte) (o : Nat) : Slot :=
  let w := fun k => BitVec.ofNat 32 (imgNat img (o + k) 4)
  { en := imgNat img (o + 16) 1 % 2 = 1, nst := 1, stages := [w 0], k0 := w 4, k1 := w 8, ctl := w 12, sw := [],
    lfsr := lfsrSeed (w 8), loss := 0 }

/-- The slots with EN = 1 of macro site (x, y). -/
def siteSlots (img : List Byte) (x y m : Nat) : SMap Slot :=
  (List.range 8).filterMap fun n => let s := siteSlot img (siteOff img x y + 64 * n) m; if s.en then some (n, s) else none
/-- The slots with EN = 1 of column `x`'s memory node. -/
def nodeSlots (img : List Byte) (x : Nat) : SMap Slot :=
  (List.range 8).filterMap fun n => let s := nodeSlot img (nodeOff img x + 32 * n); if s.en then some (n, s) else none
/-- The op words before the first zero word (R339). -/
def listWords (img : List Byte) : List W32 :=
  ((List.range 64).map fun i => BitVec.ofNat 32 (imgNat img (listOff img + 4 * i) 4)).takeWhile (· ≠ 0)
/-- The relay record of port `p` (0 nu, 1 nd): op word, K0, K1, CTL. -/
def relayWords (img : List Byte) (p : Nat) : List W32 :=
  (List.range 4).map fun i => BitVec.ofNat 32 (imgNat img (relayOff img + 16 * p + 4 * i) 4)

-- checks of a slot ------------------------------------------------------------------------------------------------

/-- The slot control word is assigned (R201). -/
def ctlOk (sl : Slot) : Bool :=
  let a := sl.inPort 0; let b := sl.inPort 1; let c := sl.inPort 2
  sl.ctl.toNat / 2 ^ 20 = 0 && sl.nul ≠ 3 && sl.sact ≠ 3 && a ≠ 6 && b ≠ 6 && c ≠ 6 && a ≠ 7 && (c = 7 || b ≠ 7) &&
  a ≠ b && (c = 7 || (c ≠ a && c ≠ b)) && (sl.acc || sl.slev = 0)

/-- A vector opcode accepts the type (R110); formats are checked apart. -/
def veTypeOk (op t : Nat) : Bool :=
  if op ≤ 0x02 || (0x08 ≤ op && op ≤ 0x0B) || op == 0x20 then t ≤ 1 || (3 ≤ t && t ≤ 5)
  else if op == 0x03 then t ≤ 1
  else if 0x04 ≤ op && op ≤ 0x07 then 3 ≤ t && t ≤ 5
  else if (0x10 ≤ op && op ≤ 0x1D) || (0x21 ≤ op && op ≤ 0x26) || (0x62 ≤ op && op ≤ 0x64) then t == 2
  else if 0x30 ≤ op && op ≤ 0x38 then t == 3
  else if op == 0x60 || op == 0x61 then t ≤ 1 || t == 3
  else false

/-- The format variant of R111 and R248 is assigned. -/
def formatsOk (w : W32) : Bool :=
  let op := Stg.op w
  let f := Stg.fmt w
  bits w 11 2 == 0 &&
  if op == 0x50 || op == 0x51 then f ≤ 2 && Stg.mod w ≤ 4
  else let d := op - 0x40; d ≤ 0xD && f ≤ 0xE && f ≠ d && (f ≠ 0xE || d == 0)

/-- A stage word of a vector element is assigned (R223, R225 to R228, R236, R246). `live`: live values a thread. -/
def stageOk (sl : Slot) (live k : Nat) (w : W32) : Bool :=
  let op := Stg.op w
  let fmtv := 0x40 ≤ op && op ≤ 0x51
  let ins := inputsOf false sl
  let rs := if sl.acc then [0] else reads op
  let srcOk := fun p =>
    let v := Stg.src w p
    if rs.contains p then
      (v ≥ 3 || ins.contains v) && (v ≠ 3 || k > 0) && (v ≠ 6 || lvIndex sl p < live)
    else v == 0
  bits w 29 3 == 0 && (if fmtv then formatsOk w else veTypeOk op (Stg.ty w)) &&
  srcOk 0 && srcOk 1 && (fmtv || srcOk 2) &&
  Stg.dst w ≤ 4 && (k + 1 < sl.nst || Stg.dst w ≠ 0) && ((Stg.dst w ≠ 2 && Stg.dst w ≠ 4) || lvDst sl < live) &&
  (if readsRnd w || (sl.acc && Stg.ty w ≥ 3) then Stg.rnd w ≤ 6 else Stg.rnd w = 0) && (readsSat w || sl.acc || !Stg.sat w) &&
  (if op == 0x20 then Stg.mod w ≤ 5 else if op == 0x60 || op == 0x61 then Stg.mod w ≤ 2
   else if op == 0x50 || op == 0x51 then true else Stg.mod w == 0)

/-- An accumulating slot has the form of R231. -/
def accOk (sl : Slot) : Bool :=
  let w := sl.word0
  sl.nst == 1 && (Stg.op w == 0 || Stg.op w == 0x0A || Stg.op w == 0x0B) && Stg.src w 0 == 0 && Stg.src w 1 == 0 &&
  Stg.src w 2 == 0 && Stg.dst w == 1

/-- NUL = 10 is accepted in a vector slot (R204). -/
def identityOk (sl : Slot) : Bool :=
  (inputsOf false sl).all fun j => !(sl.stages.any fun w => !(readsInput w j).isEmpty) || (inputIdentity sl.stages j).isSome

/-- Positions that a unit word of class 001 or 010 reads (R269, R285). -/
def unitReads (i : Instr) : List Nat :=
  match i with
  | .scst _ _ _ _ _ => [0, 1] | .mtfill _ _ _ _ => [0, 1] | .mttag _ => [] | .scamoCas _ _ _ _ _ => [0, 1, 2]
  | .scamoAdd _ _ _ _ _ => [0, 1] | .scamoMin _ _ _ _ _ => [0, 1] | .scamoMax _ _ _ _ _ => [0, 1]
  | .scamoAnd _ _ _ _ => [0, 1] | .scamoOr _ _ _ _ => [0, 1] | .scamoXor _ _ _ _ => [0, 1] | .scamoSwap _ _ _ _ => [0, 1]
  | .mst _ _ _ _ _ => [0, 1] | .mstNc _ _ _ _ _ => [0, 1] | .mscat _ _ _ _ _ => [0, 1]
  | .mamoAdd _ _ _ _ _ => [0, 1] | .mamoMin _ _ _ _ _ => [0, 1] | .mamoMax _ _ _ _ _ => [0, 1]
  | .mamoAnd _ _ _ _ => [0, 1] | .mamoOr _ _ _ _ => [0, 1] | .mamoXor _ _ _ _ => [0, 1] | .mamoSwap _ _ _ _ => [0, 1]
  | .mamoCas _ _ _ _ _ => [0, 1, 2]
  | .mwaitu _ _ _ k w _ => if w == 1 || k == 6 then [0, 1, 2] else [0, 1]
  | .mfence _ _ _ => [] | .mord => []
  | _ => [0]

/-- The unit word's selects name inputs in use (R201). -/
def selectsOk (sl : Slot) (ins : List Nat) (i : Instr) : Bool :=
  (unitReads i).all fun p => Stg.src sl.word0 p ≥ 3 || ins.contains (Stg.src sl.word0 p)

/-- Buffer record `n` of the cohort: 4·BASE4, NSLOT, EN (R268). -/
def bufRecord (c : Core) (n : Nat) : Word := match c.coh with | some h => nthD h.bufs n 0 | none => 0

/-- The unit word of a scratchpad unit with its constants (R269, R112). -/
def scratchSlotOk (c : Core) (sl : Slot) : Bool :=
  match decodeOp sl.word0 with
  | .error _ => false
  | .ok i =>
    let b := bufRecord c (sl.k0.toNat % 16)
    let nslot := b.toNat / 2 ^ 24 % 2 ^ 17
    bits sl.word0 29 3 == 1 && sl.nst == 1 && !sl.acc && selectsOk sl (inputsOf false sl) i &&
    (sl.nul ≠ 2 || (atomicIdentity sl.word0).isSome) &&
    match i with
    | .cbput _ _ => b.getLsbD 48 && 1 ≤ sl.k1.toNat % 64 && sl.k1.toNat % 64 ≤ 32 && sl.k1.toNat % 64 ≤ nslot
    | .cbget _ _ => b.getLsbD 48 | .cbadv _ _ _ => b.getLsbD 48 | .cbwait _ _ _ => b.getLsbD 48
    | _ => true

/-- The switch words of a slot are assigned: ports that differ (R118), side only where R202 allows it, one word an input. -/
def switchOk (i : Instr) : Bool :=
  !((wordIns i).contains 5) &&
  match i with
  | .swRoute a o _ => a != o && o != 5
  | .swFork a _ m => m != 0 && !m.getLsbD a.toNat
  | .swMerge a o b _ => a != o && b != a && o != 5
  | .swGate a o b _ => a != o && b != a && o != 5
  | .swSteer a t _ f _ => f != t && t != a && f != a && t != 5 && f != 5
  | .swBound a o _ _ => a != o && o != 5
  | .swNull a o _ _ => a != o && o != 5
  | .swSrc o _ _ => o != 5
  | .swOrd a o _ => a != o && o != 5
  | _ => true

/-- A slot's switch list (R117, R118, R202). -/
def switchesOk (sl : Slot) : Bool :=
  let ins := sl.words.flatMap wordIns
  sl.sw.all (fun w => (decodeSw w).toOption.isSome) && sl.words.all switchOk && ins.length == ins.eraseDups.length

/-- The bytes of a site slot record outside its fields in use are zero (R164). -/
def siteRecordOk (img : List Byte) (o : Nat) (ve : Bool) : Bool :=
  let b := fun k => imgNat img (o + k) 1
  if b 37 % 2 = 0 then imgNat img o 64 = 0
  else
    let nst := b 38 % 8; let nsw := b 36 % 16
    b 36 / 16 = 0 && nsw ≤ 12 && b 37 = 1 && b 38 / 8 = 0 && b 39 = 0 && 1 ≤ nst && nst ≤ (if ve then 6 else 1) &&
    imgNat img (o + 4 * nst) (24 - 4 * nst) = 0 && imgNat img (o + 40 + 2 * nsw) (24 - 2 * nsw) = 0

/-- Slot `n` of macro site (x, y) passes every check on its own words; `ve` at a vector element. -/
def siteSlotOk (c : Core) (img : List Byte) (x y n : Nat) (ve : Bool) : Bool :=
  let o := siteOff img x y + 64 * n
  let sl := siteSlot img o 6
  siteRecordOk img o ve &&
  (!sl.en || (ctlOk sl && switchesOk sl &&
    if ve then
      let live := match c.coh with | some h => 8 * h.live | none => 0
      ((List.range sl.nst).all fun k => stageOk sl live k (nthD sl.stages k 0)) &&
      (sl.stages.filter Stg.outs).length ≤ 1 && (!sl.acc || accOk sl) && (sl.nul ≠ 2 || identityOk sl)
    else scratchSlotOk c sl))

/-- Slot `n` of a memory-node record passes its own checks (R164, R282, R283, R285, R402). -/
def nodeSlotOk (img : List Byte) (x n : Nat) : Bool :=
  let o := nodeOff img x + 32 * n
  let sl := nodeSlot img o
  if imgNat img (o + 16) 1 % 2 = 0 then imgNat img o 32 = 0
  else
    imgNat img (o + 16) 1 = 1 && imgNat img (o + 17) 15 = 0 && bits sl.word0 29 3 == 2 &&
    sl.inPort 0 = 2 && sl.inPort 1 = 7 && sl.inPort 2 = 7 && !sl.acc && sl.slev = 0 && sl.nul ≠ 3 && sl.sact ≠ 3 &&
    sl.ctl.toNat / 2 ^ 20 = 0 && (!sl.k0.getLsbD 15 || sl.k0.getLsbD 11) &&
    match decodeOp sl.word0 with
    | .error _ => false
    | .ok i =>
      selectsOk sl (inputsOf true sl) i && (sl.nul ≠ 2 || (atomicIdentity sl.word0).isSome) &&
      match i with
      | .mwaitu _ _ _ _ _ _ => sl.nul = 0
      | .mfence _ _ _ => sl.k0.toNat / 2 ^ 16 = 0 && sl.k0.toNat % 16 = 0
      | .mord => sl.k0.toNat / 2 ^ 16 = 0 && sl.k0.toNat % 16 = 0
      | _ => sl.k0.toNat / 2 ^ 16 = 0

/-- Tags that slot `sl` takes (R282). -/
def slotTags (sl : Slot) : List Nat :=
  (if sl.k0.getLsbD 11 then [sl.k0.toNat / 2 ^ 8 % 8] else []) ++ (if sl.k0.getLsbD 15 then [sl.k0.toNat / 2 ^ 12 % 8] else [])

/-- Following LOOP links from slot `n` never comes back (R283). -/
def loopEnds (u : FUnit) : Nat → Nat → Bool
  | 0, _ => false
  | f + 1, n =>
    let sl := u.slot n
    if !sl.en || !sl.loops then true
    else match nodeRoute u sl.nxt with
      | some r => loopEnds u f r.1
      | none => false

/-- Slot `n` of a loaded node breaks a rule of R283 on tags or LOOP links. -/
def nodeTagsOk (u : FUnit) (n : Nat) : Bool :=
  let sl := u.slot n
  !sl.en ||
  (let others := u.slots.flatMap fun e => if e.1 = n then [] else slotTags e.2
   let mine := slotTags sl
   mine.all (fun t => !(u.slot t).en && !(others.contains t)) && mine.length == mine.eraseDups.length &&
   (!sl.loops || (nodeRoute u sl.nxt).isSome) && loopEnds u 9 n)

/-- The op list (R339): the first offending position. -/
def listBad (img : List Byte) : Option Nat :=
  let ws := (List.range 64).map fun i => (i, (BitVec.ofNat 32 (imgNat img (listOff img + 4 * i) 4) : W32))
  let used := (listWords img).length
  let op := fun (w : W32) => match decodeOp w with
    | .ok (.mxMma a g _ _ _ _ _ c _) => some (a.toNat, g.toNat, c == 1)
    | .ok (.mxMmas a g _ _ _ _ _ c _) => some (a.toNat, g.toNat, c == 1)
    | _ => none
  let groups := (ws.take used).filterMap fun e => op e.2
  (ws.find? fun e =>
    if e.1 < used then
      match op e.2 with
      | none => true
      | some (a, g, _) => a / 4 == g || !(groups.any fun q => q.2.1 == g && !q.2.2)
    else e.2 ≠ 0).map (·.1)

/-- The relay record (R428): the offending port. -/
def relayBad (img : List Byte) : Option UnitId :=
  let nu := relayWords img 0; let nd := relayWords img 1
  let w := fun (l : List W32) k => (nthD l k 0).toNat
  let ctl := fun (l : List W32) (scan : Bool) => w l 3 &&& 0xFFFFFFF3 = 0 && (w l 3 / 4 ≤ 1 || (scan && w l 3 / 4 = 2))
  let scan := match decodeOp (nthD nd 0 0) with | .ok (.nbScan _ _ _) => true | _ => false
  let nuOk := if w nu 0 = 0 then w nu 1 = 0 && w nu 2 = 0 && ctl nu false
    else w nu 0 = 0x80800100 && w nu 1 / 2 ^ 17 = 0 && w nu 1 % 4096 + w nu 1 / 2 ^ 12 % 32 ≤ 4095 && ctl nu false && !scan
  let ndOk := if w nd 0 = 0 then w nd 1 = 0 && w nd 2 = 0 && ctl nd false
    else match decodeOp (nthD nd 0 0) with
      | .ok .nbFwd => w nd 1 = 0 && w nd 2 = 0 && ctl nd false
      | .ok (.nbScan _ _ _) => w nd 1 / 2 = 0 && ctl nd true
      | _ => false
  if !nuOk then some .nu else if !ndOk || imgNat img (relayOff img + 32) 32 ≠ 0 then some .nd else none

-- checks of a configuration ---------------------------------------------------------------------------------------

/-- A region as the loader places it (R176). -/
def newRegion (cfg : Config) (looped : Bool) : Region :=
  { phase := .live, cfg := cfg, census := 0,
    sources := (cfg.edges.filter fun e => !epOut e).map fun e =>
      { ep := epPort e, round := 0, done := false, q := [], marked := false },
    stitches := [], drained := false, looped := looped, depth := 0, signalling := false, succ := none }

/-- Some switch word of the image is a carry gate (R211). -/
def hasGate (img : List Byte) : Bool :=
  (List.range (hdrH img)).any fun y => (List.range (hdrW img)).any fun x =>
    (siteSlots img x y 0).any fun e => e.2.words.any fun w => match w with | .swGate _ _ _ _ => true | _ => false

/-- A core that holds only this configuration, in region 0, under rounding mode `mode`: what the loader reads of a whole macro.
-/
def probeCore (img : List Byte) (cfg : Config) (mode : Nat) : Core :=
  let sites := (List.range cfg.h).flatMap fun y => (List.range cfg.w).map fun x =>
    (siteKey (cfg.x0 + x) (cfg.y0 + y), { FUnit.reset with place := cfg.place, slots := siteSlots img x y mode })
  let nodes := if cfg.anchor.getLsbD 0 then (List.range cfg.w).map fun x =>
      (cfg.x0 + x, { Node.reset with u := { FUnit.reset with place := cfg.place, slots := nodeSlots img x } }) else []
  { Core.reset with regions := [(0, newRegion cfg (hasGate img))]
                    sites := sites.foldl (fun m e => mapSet m e.1 e.2) [], nodes := nodes }

/-- The words of slot `n` of site (x, y) break a rule on channels: a source that is not beside its edge port or is named
twice (R202), an identity that cannot be fixed (R209), a stateful node on a path into itself (R218). -/
def channelBad (p : Core) (cfg : Config) (x y n : Nat) : Bool :=
  let u := siteAt p x y
  let sl := u.slot n
  let ins := cfg.edges.filter fun e => !epOut e
  let named := fun q => (p.sites.flatMap fun e => e.2.words.filterMap fun w => wordSource w.2).filter (· == q) |>.length
  sl.en &&
  ((sl.words.any fun w =>
    match w with
    | .swSrc _ q _ =>
      (match ins[q.toNat]? with
       | some e => let b := edgeSite cfg (epPort e); b.1 ≠ x || b.2.1 ≠ y
       | none => true) || named q.toNat > 1
    | .swNull i o pol k => pol == 2 && (receiverIdentity p x y i.toNat o.toNat k.toNat).isNone
    | _ => false) ||
   (stateful (.site x y) sl && (reachSlots p cfg 500 [(x, y, n)] []).contains (x, y, n)))

/-- The first offending site and slot, in ascending order of y, x and slot, then the anchors' records (R121). -/
def imageBad (c : Core) (img : List Byte) (cfg : Config) : Option (Nat × Nat × Nat) :=
  let p := probeCore img cfg 0
  let sites := (List.range cfg.h).flatMap fun y => (List.range cfg.w).flatMap fun x => (List.range 8).map fun n => (x, y, n)
  match sites.find? fun e =>
      let x := e.1; let y := e.2.1; let n := e.2.2
      !(siteSlotOk c img x y n ((x + y) % 2 = 0)) || channelBad p cfg (cfg.x0 + x) (cfg.y0 + y) n with
  | some e => some (1, cfg.x0 + e.1 + 8 * (cfg.y0 + e.2.1), e.2.2)
  | none =>
    let nodes := if cfg.anchor.getLsbD 0 then (List.range cfg.w).flatMap fun x => (List.range 8).map fun n => (x, n) else []
    match nodes.find? fun e => !(nodeSlotOk img e.1 e.2) || !(nodeTagsOk (nodeAt p (cfg.x0 + e.1)).u e.2) with
    | some e => some (2, cfg.x0 + e.1, e.2)
    | none =>
      match (if cfg.anchor.getLsbD 1 then listBad img else none) with
      | some i => some (3, i, 0)
      | none => (if cfg.anchor.getLsbD 3 then relayBad img else none).map fun u => ((unitCode u).1, 0, 0)

/-- The words of a macro's slots that take from a source or from a slot's results: each output, with its site. -/
def originOuts (p : Core) (stop : Instr → Bool) (f : Instr → Bool) : List (Nat × Nat × Nat × Nat) :=
  p.sites.flatMap fun e => e.2.words.flatMap fun w =>
    if f w.2 && !stop w.2 then (wordOuts w.1 w.2).map fun o => (e.1 % 8, e.1 / 8, o) else []

/-- What a channel leaves by, from `outs` and from stands `vs`, with no word on the way that `stop` picks. -/
def unstopped (p : Core) (cfg : Config) (stop : Instr → Bool) (outs : List (Nat × Nat × Nat × Nat)) (vs : List Stand) :
    List (Nat × Nat × Nat × Nat) :=
  let vs := (vs ++ outs.flatMap fun o => leaveTo p cfg o.1 o.2.1 o.2.2).eraseDups
  outs ++ standOuts p stop (flow p cfg stop 2000 vs vs)

/-- The output delivers to a unit, to a memory node or out of the macro. -/
def delivers (cfg : Config) (z : Nat × Nat × Nat × Nat) : Bool :=
  z.2.2.1 ≥ 4 || (leaveEdge cfg z.1 z.2.1 z.2.2).isSome || match linkDest cfg z.1 z.2.1 z.2.2.1 with | .mn _ => true | _ => false

/-- Some channel of an edge port with B = 1 crosses no `sw.bound` node of its scope inside the macro (R97, R165, R176): tokens
of the port's source that reach a unit or an edge without one, or tokens of a slot, node or source that reach the port. -/
def boundMissing (img : List Byte) (cfg : Config) : Bool :=
  let p := probeCore img cfg 0
  let ins := cfg.edges.filter fun e => !epOut e
  cfg.edges.any fun e => epB e &&
    let stop := fun (w : Instr) => match w with | .swBound _ _ sc _ => sc.toNat == epScope e | _ => false
    if epOut e then
      let nodes : List Stand := p.nodes.flatMap fun q => (q.2.u.slots.filter fun z => z.2.en && !z.2.loops).map fun z => (q.1, cfg.y0, 0, z.2.nxt)
      let outs := originOuts p stop fun w => (wordIns w).contains 4 || (wordSource w).isSome
      (unstopped p cfg stop outs nodes).any fun z => leaveEdge cfg z.1 z.2.1 z.2.2 == some (epPort e)
    else
      let outs := originOuts p stop fun w => match wordSource w with | some k => ins[k]? == some e | none => false
      (unstopped p cfg stop outs []).any (delivers cfg)

end Sys2Proof.Machine
end

