-- ==== Sys2Proof/Machine/Loader.lean ====
section
/-! DEFINITION. The configuration loader's commands (R166 to R183, R189, R194, R195): names and waits, checks, fetch and
binding, placement, stitches and lanes, start, drain, evict, patch, invalidation. -/

namespace Sys2Proof.Machine

-- names and waits -------------------------------------------------------------------------------------------------

/-- Store entries that a loader command names (R170). -/
def namedEntry (m : Cmd) : Option Nat :=
  match m.op with
  | .cfgFetch _ _ _ _ => some (m.fld 2 0 4)
  | .cfgPlace _ _ _ _ => some (m.fld 1 0 4)
  | .cfgSplice _ _ _ _ => some (m.fld 1 0 4)
  | _ => none

/-- Regions that a loader command names. -/
def namedRegions (m : Cmd) : List Nat :=
  match m.op with
  | .cfgPlace _ _ _ _ => [m.fld 1 8 3]
  | .cfgSplice _ _ _ _ => [m.fld 1 8 3]
  | .cfgStitch _ _ _ _ => m.fld 1 0 3 :: if m.fld 2 0 3 = 4 then [m.fld 2 4 3] else []
  | .cfgDrain _ _ _ => [m.fld 1 0 3]
  | .cfgEvict _ _ => [m.fld 1 0 3]
  | .cfgPatch _ _ _ => [m.fld 1 0 3]
  | _ => []

/-- Earlier loader commands of the core that have not completed. -/
def earlierLoader (c : Core) (m : Cmd) : List Cmd := (c.cmds.takeWhile fun k => k.id != m.id).filter fun k => engineOf k.op == 0

/-- The wait of R170, R180, R372 and, for a chained start, R453. -/
def loaderWaits (c : Core) (m : Cmd) : Bool :=
  let es := earlierLoader c m
  match m.op with
  | .cfgStart _ _ _ =>
    !es.isEmpty || c.prev.isSome ||
    ((c.cmds.takeWhile fun k => k.id != m.id).any fun k => engineOf k.op == 3 && k.rdWait) ||
    c.flights.any (fun f => isNode f.unit) || c.parked.any fun p => match p.who with | .piece _ _ => true | _ => false
  | _ => es.any fun k =>
      (match namedEntry m, namedEntry k with | some a, some b => a == b | _, _ => false) ||
      (namedRegions m).any fun r => (namedRegions k).contains r

/-- `cfg.start` of a chained start waits until every cohort of the predecessor has retired (R452, R453). -/
def chainWaits (s : State) (c : Core) (m : Cmd) : Bool :=
  match m.op, c.coh with
  | .cfgStart _ _ _, some h =>
    (match (s.launches.find? fun l => l.id == h.launch).bind (·.lastPred) with
     | some p => s.launches.any fun l => l.id == p && l.live ≠ 0
     | none => false)
  | _, _ => false

/-- A command's operands break R169. Of a `cfg.stitch`, the index and the target's edge port are not looked at where the target
kind has none (log entry 99). A row 6 or 7 in `cfg.splice` or `cfg.patch` is outside its range (log entry 106). -/
def loaderOperandBad (m : Cmd) : Bool :=
  match m.op with
  | .cfgFetch _ _ _ _ => !canonical (m.opnd 1) || (m.opnd 1).toNat % 8 ≠ 0 || !m.only 2 0xF
  | .cfgPlace _ _ _ _ => !m.only 1 0x70F || !m.only 2 0x707 || m.fld 2 8 3 > 5
  | .cfgSplice _ _ _ _ => !m.only 1 0x70F || !m.only 2 0x707 || m.fld 2 8 3 > 5
  | .cfgStitch _ _ _ _ =>
    let k := m.fld 2 0 3
    !m.only 1 0x1F07 || !m.only 2 0x1F77 || k = 5 || k = 6 || (k ≤ 1 && m.fld 2 4 3 > 1)
  | .cfgStart _ _ _ => !m.only 1 0xFFF || !m.only 2 0x7F || m.fld 2 0 6 < 10 || m.fld 2 0 6 > 43
  | .cfgDrain _ _ _ => !m.only 1 7
  | .cfgEvict _ _ => !m.only 1 7
  | .cfgPatch _ _ _ => !m.only 1 0x17777 || !m.only 2 0xFFFFFFFF || m.fld 1 8 3 > 5
  | .cfgInv _ _ _ _ => !canonical (m.opnd 1) || (m.opnd 1).toNat % 65536 ≠ 0 || (m.opnd 2).toNat % 65536 ≠ 0
  | _ => false

/-- The core with the tables of a command's cohort: those that its placements are checked against (R112, R228). -/
def asCohort (c : Core) (m : Cmd) : Core := { c with coh := cmdCohort c m }

-- geometry --------------------------------------------------------------------------------------------------------

/-- Site (x, y) lies in a configuration's rectangle. -/
def inRect (g : Config) (x y : Nat) : Bool := g.x0 ≤ x && x < g.x0 + g.w && g.y0 ≤ y && y < g.y0 + g.h
/-- Sites of a rectangle. -/
def rectSites (g : Config) : List (Nat × Nat) :=
  (List.range g.h).flatMap fun y => (List.range g.w).map fun x => (g.x0 + x, g.y0 + y)
/-- Columns of the stream ports below a rectangle (R22, R305). -/
def portColumns (g : Config) : List Nat := (List.range 8).filter fun x => inRect g x 5
/-- Configurations of a region: its own and its successor's. -/
def regionCfgs (g : Region) : List Config := g.cfg :: match g.succ with | some p => [p.cfg] | none => []
/-- Regions other than `r`. -/
def otherRegions (c : Core) (r : Nat) : List Region := (c.regions.filter fun e => e.1 != r).map (·.2)

/-- The checks of R171 that `cfg.place` and `cfg.splice` share, from BLOCK_RESIDENT on, for image `img` at (x0, y0) in
region `r`. -/
def placeRefused (c : Core) (r : Nat) (img : List Byte) (x0 y0 : Nat) : Option Nat :=
  let g := imgConfig img 0 x0 y0
  let os := (otherRegions c r).flatMap regionCfgs
  let held := (rectSites g).any fun p => os.any fun o => inRect o p.1 p.2
  let edge := fun k => g.anchor.getLsbD k
  if os.any fun o => o.block == g.block then some 0x13
  else if (x0 + y0) % 2 ≠ 0 then some 0x14
  else if x0 + g.w > 8 || y0 + g.h > 6 || held then some 0x15
  else if (edge 0 && y0 ≠ 0) || (edge 1 && x0 + g.w ≠ 8) || (edge 2 && y0 + g.h ≠ 6) || (edge 3 && x0 ≠ 0) ||
      os.any (fun o => (edge 1 && o.anchor.getLsbD 1) || (edge 3 && o.anchor.getLsbD 3)) then some 0x16
  else none

/-- Phase end (R43, R220, R218). -/
def atPhaseEnd (g : Region) : Bool := g.census = 0 && g.sources.all fun q => q.done && !q.marked

-- stitches --------------------------------------------------------------------------------------------------------

/-- Key of the stitch at edge port `m`: outputs by number, inputs above 32. -/
def stitchKey (out : Bool) (m : Nat) : Nat := if out then m else 32 + m
/-- What feeds source edge port `m` of a region. -/
def fedBy (g : Region) (m : Nat) : Option Target := mapGet g.stitches (32 + m)
/-- Row of a west unit beside column 0 (R22). -/
def westRow : Target → Nat
  | .entry i => i | .exit i => 2 + i | .nu => 4 | _ => 5

/-- Lanes of a path first along x, then along y: one for each direction of each site passed (R178). 0 N, 1 E, 2 S, 3 W. The path
runs from where the tokens come from to where they go (log entry 98). Where both are one site it is empty, also for an edge port on a
side of that site which does not face the target (log entry 108). -/
def lanePath (a b : Nat × Nat) : List (Nat × Nat × Nat) :=
  let span := fun (p q : Nat) => (List.range (max p q - min p q + 1)).map (· + min p q)
  (if a.1 = b.1 then [] else (span a.1 b.1).map fun x => (x, a.2, if a.1 < b.1 then 1 else 3)) ++
  (if a.2 = b.2 then [] else (span a.2 b.2).map fun y => (b.1, y, if a.2 < b.2 then 2 else 0))

/-- The facing sides of neighbouring sites. -/
def facing (a b : Nat × Nat × Nat) : Bool :=
  match a.2.2 with
  | 0 => b.2.2 = 2 && b.1 = a.1 && b.2.1 + 1 = a.2.1
  | 1 => b.2.2 = 3 && b.1 = a.1 + 1 && b.2.1 = a.2.1
  | 2 => b.2.2 = 0 && b.1 = a.1 && b.2.1 = a.2.1 + 1
  | _ => b.2.2 = 1 && b.1 + 1 = a.1 && b.2.1 = a.2.1

/-- Lanes of one stitch: of edge port `m` of configuration `g` to `t` (for a region, the position of its port). The route goes east
or west first from the end at which its tokens start, for an inbound stitch too (R178; log entry 98). -/
def stitchLanes (c : Core) (g : Config) (m : Nat) (out : Bool) (t : Target) : List (Nat × Nat × Nat) :=
  let a := edgeSite g m
  match t with
  | .region r ep =>
    match mapGet c.regions r with
    | none => []
    | some h =>
      let b := edgeSite h.cfg ep
      if facing a b then [] else if out then lanePath (a.1, a.2.1) (b.1, b.2.1) else lanePath (b.1, b.2.1) (a.1, a.2.1)
  | t =>
    let row := westRow t
    if a.1 = 0 && a.2.1 = row && a.2.2 = 3 then []
    else if out then lanePath (a.1, a.2.1) (0, row) else lanePath (0, row) (a.1, a.2.1)

/-- Lanes in use on a core: those of every stitch, a region's stitch counted at its output end (R178). -/
def lanesUsed (c : Core) : List (Nat × Nat × Nat) :=
  c.regions.flatMap fun e => e.2.stitches.flatMap fun q =>
    match q.2 with
    | .region _ _ => if q.1 < 32 then stitchLanes c e.2.cfg q.1 true q.2 else []
    | t => stitchLanes c e.2.cfg (q.1 % 32) (q.1 < 32) t

/-- Scope of a stitch target (R179). -/
def targetScope (c : Core) : Target → Nat
  | .entry _ => 1 | .exit _ => 1 | .nu => 3 | .nd => 3
  | .region r _ => match mapGet c.regions r with | some h => h.cfg.scope | none => 1

/-- The target that `cfg.stitch` names; none for an unstitch. -/
def stitchTarget (m : Cmd) : Option Target :=
  match m.fld 2 0 3 with
  | 0 => some (.entry (m.fld 2 4 3)) | 1 => some (.exit (m.fld 2 4 3)) | 2 => some .nu | 3 => some .nd
  | 4 => some (.region (m.fld 2 4 3) (m.fld 2 8 5))
  | _ => none

/-- A target takes tokens out of the region. -/
def targetOut : Target → Bool
  | .exit _ => true | .nd => true | .region _ _ => true | _ => false

/-- Removes the stitch with key `k` of region `r`, at both ends (R177, R182). -/
def unstitch (c : Core) (r k : Nat) : Core :=
  match (mapGet c.regions r).bind fun g => mapGet g.stitches k with
  | none => c
  | some t =>
    let c := updRegion c r fun g => { g with stitches := mapDel g.stitches k }
    match t with
    | .region h ep => updRegion c h fun g => { g with stitches := mapDel g.stitches (if k < 32 then 32 + ep else ep) }
    | _ => c

-- sources that end by their own rule ------------------------------------------------------------------------------

/-- A round marker stands in the unit on every channel of some consumer: it can still leave (R215). -/
def markDue (isMn : Bool) (u : FUnit) : Bool := (consumersOf isMn u).any fun k => (roundDue isMn u k).isSome

/-- No round marker of placement `p` is still on its way; one that waits for a marker that will not come stays (R215,
R220), unless `strict` asks for those too. -/
def marksGone (c : Core) (p : Nat) (strict : Bool) : Bool :=
  let mine := fun (t : Tok) => t.place == p && t.kind == .marker
  let clear := fun (isMn : Bool) (u : FUnit) => !(u.inq.any fun e => e.2.any mine) && !(u.out.any fun e => mine e.2) &&
    !(u.place == p && if strict then u.marks.any fun m => m.kind == .marker else markDue isMn u)
  (c.sites.all fun e => clear false e.2) && (c.nodes.all fun e => clear true e.2.u) &&
  (c.mx.ports.all fun e => !(e.2.any mine)) &&
  c.regions.all fun e => e.2.cfg.place != p || e.2.sources.all fun q => !(q.q.any mine)

/-- The sources of region `up` are exhausted and its last marker has left (R213, R214); where one waits for a marker that will not
come, its census is zero as well. -/
def upstreamEnds (c : Core) (up : Region) : Bool :=
  let left := fun (strict : Bool) => marksGone c up.cfg.place strict &&
    !(c.sites.any fun e => e.2.place == up.cfg.place && e.2.out.any fun o => o.2.isMark)
  (up.sources.all fun q => q.done && !q.marked) && (left true || (up.census = 0 && left false))

/-- Source `k` of region `r` ends now by the rule of its kind, once the region is drained or spliced over (R213). -/
def sourceEnds (c : Core) (g : Region) (q : Source) : Bool :=
  match fedBy g q.ep with
  | some (.entry _) => g.drained
  | some (.region h _) =>
    match mapGet c.regions h with
    | none => true
    | some up => upstreamEnds c up
  | some _ => false
  | none =>
    match streamPortOf g.cfg q.ep with
    | some x => g.drained && !(portBusy c x)
    | none => g.drained

/-- Closes every source of region `r` that ends now, if it may make its final marker (R214, R459), and lets the wavefront of a
splice in where it has still to enter (R221). -/
def settleSources (c : Core) (r : Nat) : Core :=
  match mapGet c.regions r with
  | none => c
  | some g => pushWaves ((List.range g.sources.length).foldl (fun c k =>
      match sourceAt c r k with
      | some q => if !q.done && sourceEnds c g q && sourceFree c r k then closeSource c r k else c
      | none => c) c) r

-- faults ----------------------------------------------------------------------------------------------------------

/-- A loader request of the block scheduler fails (R367): fault 0x04 with a status or a configuration cause. -/
def demandFails (s : State) (n : Nat) (m : Cmd) (info : Nat) : State :=
  if (coreAt s n).bs.demand.contains m.id then
    faultAt s n (!m.prev) { Record.mk' 0x0F 8 (0x04 + 256 * info) true with base := 0 }
  else s

/-- A configuration fault of a command (R195), which ends the command. -/
def cfgFault (s : State) (n : Nat) (m : Cmd) (cause : Nat) (fatal : Bool) (at' : Nat × Nat × Nat) : State :=
  let s := cmdFault s n m { Record.mk' 0x03 at'.1 cause fatal with pos := at'.2.1, slot := at'.2.2 }
  demandFails (finishCmd s n m.id) n m (cause + 256)

/-- A fault that names no site. -/
def noSite : Nat × Nat × Nat := (9, 0, 0)

-- fetch -----------------------------------------------------------------------------------------------------------

/-- Sets store entry `e`. -/
def setEntry (s : State) (n e : Nat) (v : Option Entry) : State :=
  updCore s n fun c => { c with entries := match v with | some x => mapSet c.entries e x | none => mapDel c.entries e }

/-- Reads the image a bound word names (R173): the image, or the cause of a configuration fault. All its bytes are read at one moment,
so none of R122's mixes of old and new words arises (log entry 105). -/
def readImage (s : State) (w : Word) : Except Nat (List Byte) :=
  let a := (w.extractLsb' 6 46).toNat * 64
  if placeBad s a 256 then .error 0x07
  else
    let h := memRead s.mem a 256
    if !headerOk h then .error 0x03
    else if placeBad s a (64 * hdrLen h) then .error 0x07 else .ok (memRead s.mem a (64 * hdrLen h))

/-- Goes on with binding word `w` of STATE bound or failed (R173). -/
def fetchBound (s : State) (n : Nat) (m : Cmd) (w : Word) : State :=
  if w.toNat % 4 = 3 then cfgFault s n m 0x06 true noSite
  else match readImage s w with
    | .error e => cfgFault s n m e false noSite
    | .ok img => finishCmd (setEntry s n (m.fld 2 0 4) (some { img := img, bva := m.opnd 1, gen := w.toNat / 2 ^ 52 })) n m.id

/-- The event of R173 on the binding word: bind request, watch, or the bound word's image. A word that is neither bound nor
failed and lies in the capacity tier, whose lines cannot be watched (R381, R410), ends the command with configuration fault
0x06 (log entry 66). Where the walk or the write ends the command's cohort nothing registers (R399, R401). -/
def fetchWord (s : State) (n : Nat) (m : Cmd) : State :=
  match cmdTranslate s n (m.opnd 1) .both with
  | (s, .error e) => parkCmd s n m (m.opnd 1) e
  | (s, .ok pa) =>
    if placeBad s pa 8 then cfgFault s n m 0x07 false noSite
    else
      let w : Word := BitVec.ofNat 64 (memNat s.mem pa 8)
      if w.toNat % 4 ≥ 2 then fetchBound s n m w
      else if isCap pa then cfgFault s n m 0x06 true noSite
      else match cmdCohort (coreAt s n) m with
        | none => s
        | some h =>
          let w1 := w ||| 1
          let unbound := w.toNat % 4 = 0
          let s := if unbound then placeWrite s pa (leBytes 8 w1.toNat) else s
          if h.fatal || ((cmdCohort (coreAt s n) m).any (·.fatal)) then s
          else
          let s := if unbound then putRecord s h.ctx h.lid (some h.launch)
                { Record.mk' 0x04 9 0 false with core := n, addr := m.opnd 1, sp := match m.pen with | some p => p | none => 0 }
            else s
          let e : Watch :=
            { cmp := 1, w := true, scope := 5, agent := 3, ctx := h.ctx, cont := 0, tmo := 0, cohort := cohortIndex h,
              launch := h.launch, tb := 0, dead := 0, pa := pa, opnd := w1, mask := 0, mq := 0 }
          (registerRetry (updCmd s n m.id fun m => { m with phase := .watching, value := BitVec.ofNat 64 pa }) e).1

/-- CFG_FETCH_WAKE: a woken `cfg.fetch` goes on with the value that the wake reports (R173, R175). -/
def execCfgFetchWake (cmd : Nat) (s : State) : Host.Outcome State Fault Refusal :=
  .next (
    match cmdAt (cur s) cmd with
    | none => s
    | some m =>
      match m.op, m.phase, m.ops[2]? with
      | .cfgFetch _ _ _ _, .running, some cause =>
        let s := updCur s fun c => { c with cmds := mapWhere c.cmds (fun k => k.id == cmd) fun k => { k with ops := k.ops.take 2 } }
        let m := { m with ops := m.ops.take 2 }
        if cause ≠ 0x10 && cause ≠ 0x11 then cfgFault s s.core m 0x06 true noSite
        else if m.value.toNat % 4 ≥ 2 then fetchBound s s.core m m.value
        else fetchWord s s.core m
      | _, _, _ => s)

-- place and splice ------------------------------------------------------------------------------------------------

/-- The entry of a placing command, fetched again when its binding word has a new GEN (R194); none when the command has
parked or ended. -/
def refreshEntry (s : State) (n : Nat) (m : Cmd) (e : Nat) (x : Entry) : State × Option Entry :=
  match cmdTranslate s n x.bva .read with
  | (s, .error z) => (parkCmd s n m x.bva z, none)
  | (s, .ok pa) =>
    if placeBad s pa 8 then (cfgFault (setEntry s n e none) n m 0x07 false noSite, none)
    else
      let w : Word := BitVec.ofNat 64 (memNat s.mem pa 8)
      if w.toNat / 2 ^ 52 = x.gen || w.toNat % 4 ≠ 2 then (s, some x)
      else match readImage s w with
        | .error z => (cfgFault (setEntry s n e none) n m z false noSite, none)
        | .ok img =>
          if !(sameFrame img x.img) then (cfgFault (setEntry s n e none) n m 0x04 false noSite, none)
          else let y : Entry := { x with img := img, gen := w.toNat / 2 ^ 52 }; (setEntry s n e (some y), some y)

/-- A region as it is placed; one placed while a save is on has its sources' pre-emption markers from the start (R459). -/
def placedRegion (c : Core) (g : Config) (looped : Bool) : Region :=
  let h := newRegion g looped
  if c.saving then
    { h with sources := h.sources.map fun q => { q with q := q.q ++ [preemptTok g.place] } }
  else h

/-- The words of site (x, y) under a configuration (R164), with what the loader fixes from the whole macro, held by core `p`
(R209, R212). -/
def wordsIn (p : Core) (img : List Byte) (g : Config) (mode x y : Nat) : SMap Slot :=
  (siteSlots img (x - g.x0) (y - g.y0) mode).map fun e => (e.1, fixSlot p g x y e.1 e.2)
/-- The words of one site on their own. -/
def siteWords (img : List Byte) (g : Config) (mode x y : Nat) : SMap Slot := wordsIn (probeCore img g mode) img g mode x y

/-- Loads the op list (R339, R353): positions not fired. -/
def loadList (c : Core) (img : List Byte) (place : Nat) : Core :=
  { c with mx := { c.mx with oplist := listWords img, fired := [], running := none, place := place } }
/-- Loads the relay record (R428); nd starts afresh, and what stands on the links stays. -/
def loadRelay (c : Core) (img : List Byte) (place : Nat) : Core :=
  let k := c.relay
  { c with relay := { Relay.reset with
      place := place, nu := relayWords img 0, nd := relayWords img 1, nuBuf := k.nuBuf, ndq := k.ndq, linkOut := k.linkOut,
      results := k.results, ndSent := k.ndSent, taken := k.taken, nuDue := k.nuDue } }
/-- nd holds `nb.scan`. -/
def scanning (c : Core) : Bool := match decodeOp (nthD c.relay.nd 0 0) with | .ok (.nbScan _ _ _) => true | _ => false

/-- Loads a whole configuration (R176). -/
def loadAll (c : Core) (img : List Byte) (g : Config) (mode : Nat) : Core :=
  let m := probeCore img g mode
  let c := (rectSites g).foldl (fun c p =>
    setSite c p.1 p.2 { FUnit.reset with place := g.place, slots := wordsIn m img g mode p.1 p.2 }) c
  let c := if g.anchor.getLsbD 0 then (List.range g.w).foldl (fun c x =>
      setNode c (g.x0 + x) { nodeAt c (g.x0 + x) with u := { FUnit.reset with place := g.place, slots := nodeSlots img x } }) c
    else c
  let c := if g.anchor.getLsbD 1 then loadList c img g.place else c
  if g.anchor.getLsbD 3 then loadRelay c img g.place else c

/-- The successor's words that a splice still has to load go at once where the predecessor has nothing (R181). -/
def loadFresh (c : Core) (img : List Byte) (old g : Config) (mode : Nat) : Core :=
  let m := probeCore img g mode
  let c := (rectSites g).foldl (fun c p =>
    if inRect old p.1 p.2 then c
    else setSite c p.1 p.2 { FUnit.reset with place := g.place, slots := wordsIn m img g mode p.1 p.2 }) c
  let c := if g.anchor.getLsbD 0 then (List.range g.w).foldl (fun c x =>
      if old.anchor.getLsbD 0 && old.x0 ≤ g.x0 + x && g.x0 + x < old.x0 + old.w then c
      else setNode c (g.x0 + x) { nodeAt c (g.x0 + x) with u := { FUnit.reset with place := g.place, slots := nodeSlots img x } }) c
    else c
  let c := if g.anchor.getLsbD 1 && !old.anchor.getLsbD 1 then loadList c img g.place else c
  if g.anchor.getLsbD 3 && !old.anchor.getLsbD 3 then loadRelay c img g.place else c

/-- Edge units that must take the successor's records on their own (R181). -/
def pendingUnits (old g : Config) : List EdgeUnit :=
  (if g.anchor.getLsbD 0 && old.anchor.getLsbD 0 then ((List.range g.w).filter fun x => old.x0 ≤ g.x0 + x && g.x0 + x < old.x0 + old.w).map
      fun x => EdgeUnit.mn (g.x0 + x) else []) ++
  (if g.anchor.getLsbD 1 && old.anchor.getLsbD 1 then [.opList] else []) ++
  (if g.anchor.getLsbD 3 && old.anchor.getLsbD 3 then [.relay] else [])

/-- The scopes that a stitch joins differ and the entry has no wide enough bound (R97, R179), towards nu and nd in a region wider
than .d too (log entry 96). -/
def stitchScopeBad (c : Core) (g : Region) (p : Nat) (t : Target) : Bool :=
  let ts := targetScope c t
  g.cfg.scope ≠ ts && !(match epEntry g.cfg p (targetOut t) with
    | some e => epB e && epScope e ≥ max g.cfg.scope ts
    | none => false)

/-- A stitch of region `r` that a splice keeps would join scopes under configuration `g` without the bound that R97 and R179 ask
for: one to another region is checked at its output end. -/
def keptScopeBad (c : Core) (r : Nat) (old : Region) (g : Config) : Bool :=
  let c := updRegion c r fun h => { h with cfg := g }
  old.stitches.any fun e =>
    let p := e.1 % 32
    (epEntry g p (e.1 < 32)).isSome &&
    match decide (e.1 < 32), e.2 with
    | false, .region h q => (mapGet c.regions h).any fun up => stitchScopeBad c up q (.region r p)
    | _, t => stitchScopeBad c { old with cfg := g } p t

/-- Runs an accepted `cfg.place` or `cfg.splice` (R176, R181). A configuration fault 0x02 names no site (log entry 97). -/
def runPlace (s : State) (n : Nat) (m : Cmd) (splice : Bool) : State :=
  let e := m.fld 1 0 4; let r := m.fld 1 8 3
  let x0 := m.fld 2 0 3; let y0 := m.fld 2 8 3
  match mapGet (coreAt s n).entries e with
  | none => finishCmd s n m.id
  | some x =>
    match refreshEntry s n m e x with
    | (s, none) => s
    | (s, some x) =>
      let c := coreAt s n
      let g := { imgConfig x.img s.nextId x0 y0 with launch := match cmdCohort c m with | some h => h.launch | none => 0 }
      match imageBad (asCohort c m) x.img g with
      | some p => cfgFault s n m 0x01 false p
      | none =>
        if boundMissing x.img g || (splice && (mapGet c.regions r).any fun old => keptScopeBad c r old g) then
          cfgFault s n m 0x02 false noSite
        else
          let s := { s with nextId := s.nextId + 1 }
          if !splice then
            let c := loadAll c x.img g m.mode
            let c := { c with regions := mapSet c.regions r (placedRegion c g (hasGate x.img)), flags := c.flags.set r 0 }
            finishCmd ((portColumns g).foldl (checkPort n) (setCore s n c)) n m.id
          else
            match mapGet c.regions r with
            | none => finishCmd s n m.id
            | some old =>
              let c := loadFresh c x.img old.cfg g m.mode
              let sp : Splice := { cfg := g, img := x.img, mode := m.mode, census := 0, cmd := m.id, units := pendingUnits old.cfg g }
              let c := updRegion c r fun h => { h with phase := .splicing, succ := some sp, drained := true }
              let fresh := (portColumns g).filter fun x => !(inRect old.cfg x 5)
              fresh.foldl (checkPort n) (setCore s n (settleSources c r))

-- start, drain, evict, patch, invalidate --------------------------------------------------------------------------

/-- `cfg.start` (R180, R81, R232): the bank map, zeroed live values and predicates, the waiting bits. -/
def startCohort (c : Core) (block : Nat) (map : Word) : Core :=
  match c.coh with
  | none => c
  | some h =>
    { c with
      coh := some { h with bankMap := map, started := true }
      lv := [], pfile := []
      bs := { c.bs with waiting := addTags c.bs.waiting block (List.range h.nthr) } }

/-- A group left OPEN becomes closed: its tiles become Full (R353). -/
def closeGroups (m : Matrix) : Matrix :=
  { setTags m (m.opened.flatMap groupOf) .full with opened := [] }
/-- The matrix engine without an op list (R353). -/
def dropList (m : Matrix) : Matrix := { closeGroups m with oplist := [], fired := [], place := 0 }

/-- Frees the sites and edge units of a configuration that still hold its words (R182). -/
def freeUnits (c : Core) (g : Config) : Core :=
  let c := (rectSites g).foldl (fun c p => if (siteAt c p.1 p.2).place = g.place then setSite c p.1 p.2 FUnit.reset else c) c
  let c := (List.range 8).foldl (fun c x =>
    if (nodeAt c x).u.place = g.place then setNode c x { nodeAt c x with u := FUnit.reset } else c) c
  let c := if c.mx.place = g.place && g.anchor.getLsbD 1 then { c with mx := dropList c.mx } else c
  if c.relay.place = g.place && g.anchor.getLsbD 3 then { c with relay := { c.relay with place := 0, nu := [], nd := [] } } else c

/-- Drops the markers and wavefronts of placement `p` from a queue. -/
def dropMarks (p : Nat) (q : List Tok) : List Tok := q.filter fun t => !(t.isMark && t.place == p)

/-- A unit without them. -/
def FUnit.dropMarks (p : Nat) (u : FUnit) : FUnit :=
  { u with
    inq := u.inq.filterMap fun e => let q := Machine.dropMarks p e.2; if q.isEmpty then none else some (e.1, q)
    out := u.out.filter fun e => !(e.2.isMark && e.2.place == p) }

/-- The core without the markers and wavefronts of placement `p` on links, at tile ports, at exit ports and at nd (R220). -/
def dropPlace (c : Core) (p : Nat) : Core :=
  { c with
    sites := c.sites.map fun e => (e.1, e.2.dropMarks p)
    nodes := c.nodes.map fun e => (e.1, { e.2 with u := e.2.u.dropMarks p })
    mx := { c.mx with ports := c.mx.ports.map fun e => (e.1, dropMarks p e.2) }
    relay := { c.relay with ndq := dropMarks p c.relay.ndq }
    bs := { c.bs with exits := c.bs.exits.map fun e => (e.1, e.2.dropMarks p) } }

/-- `cfg.evict` (R182); the markers that still stand on the region's links are discarded (R220). -/
def evictRegion (c : Core) (r : Nat) : Core :=
  match mapGet c.regions r with
  | none => c
  | some g =>
    let c := (g.stitches.map (·.1)).foldl (fun c k => unstitch c r k) c
    let c := freeUnits c g.cfg
    { dropPlace c g.cfg.place with
      regions := mapDel c.regions r, bs := { c.bs with cached := mapDel c.bs.cached g.cfg.block } }

/-- The slot of site (x, y) with constants `k0` and `k1` passes the checks of R121 on constants (R183). -/
def patchedOk (c : Core) (x y : Nat) (sl : Slot) : Bool :=
  if (x + y) % 2 = 0 then
    let live := match c.coh with | some h => 8 * h.live | none => 0
    (List.range sl.nst).all fun k => stageOk sl live k (nthD sl.stages k 0)
  else scratchSlotOk c sl

/-- `cfg.patch` (R183): the core with the constant written, or none when it is refused. -/
def patchSlot (c : Core) (g : Region) (m : Cmd) : Option Core :=
  let x := m.fld 1 4 3; let y := m.fld 1 8 3; let n := m.fld 1 12 3
  let v : W32 := (m.opnd 2).setWidth 32
  if x ≥ g.cfg.w || y ≥ g.cfg.h then none
  else
    let u := siteAt c (g.cfg.x0 + x) (g.cfg.y0 + y)
    let sl := u.slot n
    let sl' := if m.fld 1 16 1 = 1 then { sl with k1 := v, lfsr := lfsrSeed v } else { sl with k0 := v }
    if !sl.en || !patchedOk (asCohort c m) (g.cfg.x0 + x) (g.cfg.y0 + y) sl' then none
    else some (setSite c (g.cfg.x0 + x) (g.cfg.y0 + y) { u with slots := mapSet u.slots n sl' })

/-- Two ranges of virtual addresses meet; length 0 stands for the whole space (R169). -/
def rangeMeets (base len va size : Nat) : Bool := len = 0 || decide (va < base + len ∧ base < va + size)

/-- Capacity command `k` has row accesses to make: a faulted bag of `emb.scatadd` makes none (R418, R422). -/
def owesRows (c : Core) (k : Cap) : Bool :=
  let skip := match cmdAt c k.id with | some m => (match m.op with | .embScatadd _ _ _ _ => true | _ => false) | none => true
  match k.bags with
  | [] => false
  | b :: r => (!(skip && b.bad) && k.row < b.rows.length) || r.any fun b => !(skip && b.bad) && !b.rows.isEmpty

/-- What an invalidation of the range that `hit` picks has to wait for (R189, R418): firings of memory nodes with accesses under
way, remote elements on their way, and capacity commands whose binding it covers. A fence that waits makes no access. -/
def invWait (hit : Nat → Nat → Bool) (c : Core) (key : Nat) : InvWait :=
  { key := key, runs := (c.flights.filter fun f => isNode f.unit && (nodeLanes c).any fun a => a.flight == f.id).map (·.id)
    acks := (c.gens.filter fun e => e.2.waitAck).map fun e => (e.2.cmd, e.2.pos)
    caps := (c.caps.filter fun k => k.bound && owesRows c k && k.pages.any fun e => hit (e.1 * 65536 % 2 ^ 57) 65536).map (·.id) }

/-- A generator after an invalidation of the ranges that `hit` picks: extents marked; a running one that has one pauses. -/
def invGen (hit : Nat → Nat → Bool) (g : Gen) : Gen :=
  let xs := g.extents.map fun x => if hit (x.va % 2 ^ 57) x.size then { x with ok := false } else x
  { g with extents := xs, st := if g.st = .running && xs.any (fun x => !x.ok) then .paused else g.st }

/-- Invalidation `key` on a core (R189): extents marked, TLBs and fetch translations dropped, the walk cache emptied; running
generators with a marked extent pause, the two of a sparse pair together (R306). -/
def invalidate (c : Core) (key base len : Nat) : Core :=
  let b := base % 2 ^ 57
  let hit := rangeMeets b len
  let c : Core := { c with
    invs := (c.invs.filter fun w => w.key != key) ++ [invWait hit c key]
    walk := []
    tlb2 := c.tlb2.filter fun t => !hit t.va t.size
    nodes := c.nodes.map fun e => (e.1, { e.2 with tlb := e.2.tlb.filter fun t => !hit t.va t.size })
    seq := { c.seq with itlb := c.seq.itlb.filter fun t => !hit t.1 t.2.1 }
  }
  ((c.gens.map (·.1)).filter fun g => lead c g == g).foldl (fun c g => putGen c g (invGen hit (genAt c g))) c

/-- Every access that used a translation made before invalidation `key` has performed, parked or been cancelled (R189, R418), and
no generator waits for its pages to be walked again. -/
def invDone (c : Core) (key : Nat) : Bool :=
  (match c.invs.find? fun w => w.key == key with
   | some w => w.runs.all (fun i => !(c.flights.any fun f => f.id == i)) &&
       w.acks.all (fun a => !(c.gens.any fun e => e.2.cmd == a.1 && e.2.waitAck && e.2.pos == a.2)) &&
       w.caps.all fun i => !(c.caps.any fun k => k.id == i && k.bound && owesRows c k)
   | none => true) &&
  !(c.gens.any fun e => e.2.st == .paused)

-- stitching -------------------------------------------------------------------------------------------------------

/-- The status with which `cfg.stitch` is refused, in the order of R177. An unstitch of an edge port that has no stitch is accepted
and does nothing (log entry 107). -/
def stitchRefused (c : Core) (m : Cmd) : Option Nat :=
  let r := m.fld 1 0 3; let p := m.fld 1 8 5
  match mapGet c.regions r, stitchTarget m with
  | none, _ => some 0x11
  | some g, none => if g.cfg.edges.any fun e => epPort e == p then none else some 0x02
  | some g, some t =>
    let out := targetOut t
    let freeT := match t with | .region h _ => (mapGet c.regions h).isNone | _ => false
    let wrong := (epEntry g.cfg p out).isNone || match t with
      | .region h ep => (match mapGet c.regions h with | some x => (epEntry x.cfg ep false).isNone | none => true)
      | .nd => g.cfg.nd = 0
      | _ => false
    let taken := (mapGet g.stitches (stitchKey out p)).isSome || match t with
      | .region h ep => (match mapGet c.regions h with | some x => (fedBy x ep).isSome | none => false)
      | t => c.regions.any fun e => e.2.stitches.any fun q => q.2 == t
    if freeT then some 0x11 else if wrong then some 0x02 else if taken then some 0x18
    else if (stitchLanes c g.cfg p out t).any fun l => (lanesUsed c).contains l then some 0x19
    else none

/-- What the nu of a chain's head makes at its first stitch, into source `k` of region `r`: the run of `nb.carry`, if its record
holds one, and its final round marker (R429, R432). While its round may not start, or behind its pre-emption marker in a save,
it is still due (R214, R459). -/
def nuFirst (c : Core) (ctx r k : Nat) : Core :=
  if !(sourceFree c r k) then { c with relay := { c.relay with nuDue := true } }
  else
    let w := fun i => (nthD c.relay.nu i 0).toNat
    let n := w 1 / 2 ^ 12 % 32 + 1
    let c := if w 0 = 0x80800100 then
        sourceMake c r k { bareTok .run 0 0 ctx 0 with
          tags := (List.range n).map (· + w 1 % 4096)
          lanes := List.replicate n ⟨nthD c.relay.nu 2 0, false⟩ }
      else c
    closeSource { c with relay := { c.relay with nuDue := false } } r k

/-- nu is stitched to source `k` of region `r` (R429, R432, R435): its round, and at the head of a chain that holds no scan
what it makes at its first stitch after the start of cohort `h`, which issued the command. -/
def stitchNu (c : Core) (h : Option Cohort) (prev : Bool) (r k : Nat) : Core :=
  match h, sourceAt c r k, mapGet c.regions r with
  | some h, some q, some g =>
    let other := (g.sources.find? fun x => x.ep != q.ep && !x.done).getD q
    let c := updSource c r k fun x => { x with round := other.round, turns := other.turns }
    let used := fun (x : Cohort) => { x with nuUsed := true }
    let c := if prev then { c with prev := c.prev.map used } else { c with coh := c.coh.map used }
    if h.pos ≠ 0 || scanning c then c
    else if h.nuUsed && !c.relay.nuDue then updSource c r k fun x => { x with done := true }
    else nuFirst c h.ctx r k
  | _, _, _ => c

/-- Makes or removes a stitch (R177). An unstitch on an edge port whose table has entries of both directions removes the
stitches of both (log entry 62). -/
def runStitch (s : State) (n : Nat) (m : Cmd) : State :=
  let c := coreAt s n
  let r := m.fld 1 0 3; let p := m.fld 1 8 5
  match mapGet c.regions r, stitchTarget m with
  | some _, none => finishCmd (setCore s n (unstitch (unstitch c r p) r (32 + p))) n m.id
  | some g, some t =>
    if stitchScopeBad c g p t then cfgFault s n m 0x02 false noSite
    else
      let c := updRegion c r fun g => { g with stitches := mapSet g.stitches (stitchKey (targetOut t) p) t }
      let c := match t with
        | .region h ep => updRegion c h fun x => { x with stitches := mapSet x.stitches (32 + ep) (.region r p) }
        | .nu => (match sourceOf g p with | some k => stitchNu c (cmdCohort c m) (m.prev && c.prev.isSome) r k | none => c)
        | .nd => { c with relay := { c.relay with endSent := false } }
        | _ => c
      finishCmd (setCore s n c) n m.id
  | _, _ => finishCmd s n m.id

-- the loader as an engine -----------------------------------------------------------------------------------------

/-- A placing command whose checks have passed reads its entry's binding word before it is accepted: a translation fault parks
it (R187, R194; log entry 68). -/
def placeVerdict (s : State) (n : Nat) (e : Entry) : State × Verdict :=
  match cmdTranslate s n e.bva .read with
  | (s, .error z) => (s, .park e.bva z)
  | (s, .ok _) => (s, .ok)

/-- A `cfg.fetch` looks at its binding word before it is accepted: its entry is EMPTY, a fault parks it (R173, R187), and a non-zero
bit of [5:2] refuses it (R10, R121, R172; log entry 67). A word with an error is met once it is accepted. -/
def fetchVerdict (s : State) (n : Nat) (m : Cmd) : State × Verdict :=
  match cmdTranslate s n (m.opnd 1) .both with
  | (s, .error z) => (setEntry s n (m.fld 2 0 4) none, .park (m.opnd 1) z)
  | (t, .ok pa) => if !(placeBad t pa 8) && memNat t.mem pa 8 / 4 % 16 ≠ 0 then (s, .refuse 0x01) else (t, .ok)

/-- An unstitch takes nd from a region that has come to phase end, and whose end mark is still to leave (R430). -/
def endMarkDue (c : Core) (m : Cmd) : Bool :=
  match mapGet c.regions (m.fld 1 0 3), stitchTarget m with
  | some g, none => mapGet g.stitches (m.fld 1 8 5) == some .nd && atPhaseEnd g && g.phase != .splicing && !c.relay.endSent
  | _, _ => false

/-- The loader's answer to the command at the head of its queue (R170, R171). `cfg.patch` makes its own checks last, on x, y,
EN and the value (log entry 63). -/
def judgeLoader (s : State) (n : Nat) (m : Cmd) : State × Verdict :=
  let c := coreAt s n
  let region := mapGet c.regions (m.fld 1 0 3)
  if loaderWaits c m || chainWaits s c m then (s, .wait)
  else if loaderOperandBad m then (s, .refuse 0x02)
  else match m.op with
    | .cfgPlace _ _ _ _ =>
      if (mapGet c.regions (m.fld 1 8 3)).isSome then (s, .refuse 0x10)
      else match mapGet c.entries (m.fld 1 0 4) with
        | none => (s, .refuse 0x12)
        | some e => match placeRefused c (m.fld 1 8 3) e.img (m.fld 2 0 3) (m.fld 2 8 3) with
          | some z => (s, .refuse z)
          | none => placeVerdict s n e
    | .cfgSplice _ _ _ _ =>
      match mapGet c.regions (m.fld 1 8 3) with
      | none => (s, .refuse 0x11)
      | some g =>
        if g.phase == .splicing then (s, .wait)
        else match mapGet c.entries (m.fld 1 0 4) with
          | none => (s, .refuse 0x12)
          | some e => match placeRefused c (m.fld 1 8 3) e.img (m.fld 2 0 3) (m.fld 2 8 3) with
            | some z => (s, .refuse z)
            | none => placeVerdict s n e
    | .cfgStitch _ _ _ _ =>
      match stitchRefused c m with
      | some z => (s, .refuse z)
      | none => if endMarkDue c m then (s, .wait) else (s, .ok)
    | .cfgFetch _ _ _ _ => fetchVerdict s n m
    | .cfgStart _ _ _ =>
      match c.coh with
      | some h =>
        if h.started then (s, .refuse 0x1A)
        else if !(c.regions.any fun e => (regionCfgs e.2).any fun g => g.block == m.fld 1 0 12) then
          (cfgFault s n m 0x05 true noSite, .wait)
        else (s, .ok)
      | none => (s, .refuse 0x02)
    | .cfgDrain _ _ _ => match region with
      | some g => if g.phase == .splicing then (s, .wait) else (s, .ok)
      | none => (s, .refuse 0x11)
    | .cfgEvict _ _ => match region with
      | none => (s, .refuse 0x11)
      | some g => if g.phase == .splicing || !atPhaseEnd g then (s, .refuse 0x17)
                  else if g.cfg.anchor.getLsbD 1 && c.mx.place == g.cfg.place && c.mx.running.isSome then (s, .wait)
                  else if (g.stitches.any fun e => e.2 == .nd) && !c.relay.endSent then (s, .wait) else (s, .ok)
    | .cfgPatch _ _ _ => match region with
      | none => (s, .refuse 0x11)
      | some g => if g.phase == .splicing || !atPhaseEnd g then (s, .refuse 0x17)
                  else match patchSlot c g m with | some c' => (setCore s n c', .ok) | none => (s, .refuse 0x02)
    | _ => (s, .ok)

/-- The work of an accepted loader command. -/
def runLoader (s : State) (n : Nat) (m : Cmd) : State :=
  let c := coreAt s n
  match m.op with
  | .cfgFetch _ _ _ _ => fetchWord (setEntry s n (m.fld 2 0 4) none) n m
  | .cfgPlace _ _ _ _ => runPlace s n m false
  | .cfgSplice _ _ _ _ => runPlace s n m true
  | .cfgStitch _ _ _ _ => runStitch s n m
  | .cfgStart _ _ _ => finishCmd (updCore (emptyBanks s n) n fun c => startCohort c (m.fld 1 0 12) (m.opnd 2)) n m.id
  | .cfgDrain _ _ _ =>
    let r := m.fld 1 0 3
    setCore s n (settleSources (updRegion c r fun g => { g with drained := true, phase := if g.phase == .live then .closed else g.phase }) r)
  | .cfgEvict _ _ => finishCmd (setCore s n (evictRegion c (m.fld 1 0 3))) n m.id
  | .cfgPatch _ _ _ => finishCmd s n m.id
  | .cfgInv _ _ _ _ => updCore (performStore s n) n fun c => invalidate c m.id (m.opnd 1).toNat (m.opnd 2).toNat
  | _ => s

/-- An accepted loader command that has reached its end (R182, R189): it finishes. -/
def pollLoader (s : State) (n : Nat) (m : Cmd) : State :=
  let c := coreAt s n
  match m.op, m.phase with
  | .cfgDrain _ _ _, .running =>
    (match mapGet c.regions (m.fld 1 0 3) with
     | some g => if atPhaseEnd g then finishCmd s n m.id else s
     | none => finishCmd s n m.id)
  | .cfgInv _ _ _ _, .running =>
    if invDone c m.id then finishCmd (updCore s n fun c => { c with invs := c.invs.filter fun w => w.key != m.id }) n m.id else s
  | _, _ => s

end Sys2Proof.Machine
end

