-- ==== Sys2Proof/Machine/Splice.lean ====
section
/-! DEFINITION. Splices (R44, R181, R221, R304, R353): the wavefront through sites and memory nodes, the successor's words at
sites and edge units, the end of a splice, and phase end (R220). -/

namespace Sys2Proof.Machine

-- links between sites ---------------------------------------------------------------------------------------------

/-- Some word of the unit sends by port `p`. -/
def usesOut (u : FUnit) (p : Nat) : Bool := u.words.any fun e => (wordOuts e.1 e.2).any fun o => o.1 == p

/-- The site across port `p`. -/
def across (x y p : Nat) : Nat × Nat :=
  match p with
  | 0 => (x, y - 1) | 1 => (x + 1, y) | 2 => (x, y + 1) | _ => (x - 1, y)

/-- Sites that the links of site (x, y) lead to. -/
def linkNext (c : Core) (x y : Nat) : List (Nat × Nat) :=
  let u := siteAt c x y
  match cfgOfPlace c u.place with
  | none => []
  | some g => [0, 1, 2, 3].filterMap fun p =>
      if usesOut u p then (match linkDest g x y p with | .site a b _ => some (a, b) | _ => none) else none

/-- Sites that links lead to from those in `work`. -/
def linkReach (c : Core) : Nat → List (Nat × Nat) → List (Nat × Nat) → List (Nat × Nat)
  | 0, _, seen => seen
  | _ + 1, [], seen => seen
  | f + 1, p :: work, seen =>
    if seen.contains p then linkReach c f work seen else linkReach c f (linkNext c p.1 p.2 ++ work) (p :: seen)

/-- Port `p` of site (x, y) is a forward input (R460): a neighbour sends there, and no path of links leads back to it from
the site's outputs. -/
def forwardInput (c : Core) (x y p : Nat) : Bool :=
  let a := across x y p
  (linkNext c a.1 a.2).contains (x, y) && !((linkReach c 300 (linkNext c x y) []).contains a)

-- wavefronts ------------------------------------------------------------------------------------------------------

/-- The wavefront has arrived on channel `ch`. -/
def waveOn (u : FUnit) (ch : Nat) : Bool := u.marks.any fun m => m.kind == .wavefront && m.chan == ch && m.cons == 0

/-- Input ports of a word that the wavefront comes by before the word's outputs: a gate's back input lies on the loop that it
closes (R211, R218). -/
def waveIns (looped : Bool) : Instr → List Nat
  | .swGate i _ b _ => if looped then [i.toNat] else [i.toNat, b.toNat]
  | w => wordIns w

/-- Channels of a word in slot `n`: links, the slot's own channel 8 + n, sources 16 + k. -/
def waveChans (looped : Bool) (n : Nat) (w : Instr) : List Nat :=
  match wordSource w with
  | some k => [16 + k]
  | none => (waveIns looped w).map fun i => if i = 4 then 8 + n else i

/-- Channels that feed consumer `cons` of a site: a port 0 to 3, or 8 + n for slot n. -/
def waveFeeds (looped : Bool) (u : FUnit) (cons : Nat) : List Nat :=
  u.words.flatMap fun e =>
    if (wordOuts e.1 e.2).any fun o => if cons < 8 then o.1 == cons else o.1 == 4 && o.2 + 8 == cons
    then waveChans looped e.1 e.2 else []

/-- Slot `n` of a unit holds no token, set, result or accumulator. -/
def slotIdle (c : Core) (id : UnitId) (n : Nat) : Bool :=
  let u := unitAt c id
  !(u.unitq.any fun q => q.slot == n) && !(u.store.any fun q => q.slot == n) && !(u.ready.any fun f => f.slot == n) &&
  !(u.accs.any fun a => a.slot == n) && !((u.queue 4).any fun t => t.slot == n) &&
  !(c.flights.any fun f => f.unit == id && f.slot == n)

/-- The wavefront has passed channel `ch`; a slot's own channel carries it once all its inputs do and the slot is idle. -/
def chanWave (c : Core) (id : UnitId) (looped : Bool) : Nat → Nat → Bool
  | 0, _ => false
  | f + 1, ch =>
    let u := unitAt c id
    if 8 ≤ ch && ch < 16 then slotIdle c id (ch - 8) && (waveFeeds looped u ch).all (chanWave c id looped f)
    else waveOn u ch

/-- The record that the wavefront has left by port `p`. -/
def sentMark (p : Nat) : Mark := { kind := .wavefront, chan := 200 + p, cons := 1, round := 0 }

/-- Port `p` of a site sends to an edge unit that answers by the same port: a memory node or a tile port. -/
def returns (c : Core) (x y p : Nat) : Bool :=
  let u := siteAt c x y
  usesOut u p && match (cfgOfPlace c u.place).map fun g => linkDest g x y p with
    | some (.mn _) => true
    | some (.me _) => true
    | _ => false

/-- Some channel into site (x, y) stands on a cycle of links through the site, an edge unit's included, so that the wavefront
cannot be on every input before it has left by an output (log entry 33). -/
def onCycle (c : Core) (x y : Nat) : Bool :=
  [0, 1, 2, 3].any fun p =>
    let a := across x y p
    (siteAt c x y).words.any (fun e => (wordIns e.2).contains p) &&
      (returns c x y p || ((linkNext c a.1 a.2).contains (x, y) && !(forwardInput c x y p)))

/-- Port `p` of site (x, y) stands on a cycle of links: a path leads from it back to the site, or an edge unit answers by it. -/
def cycleOut (c : Core) (x y p : Nat) : Bool :=
  returns c x y p || (usesOut (siteAt c x y) p && match (cfgOfPlace c (siteAt c x y).place).map fun g => linkDest g x y p with
    | some (.site a b _) => (linkReach c 300 [(a, b)] []).contains (x, y)
    | _ => false)

/-- At a site on a cycle of links: sends the wavefront by a port `p` of the cycle once every channel that feeds the port has it
(R44, R221; log entry 33). -/
def forwardWave (looped : Bool) (x y : Nat) (c : Core) (p : Nat) : Core :=
  let u := siteAt c x y
  let feeds := waveFeeds looped u p
  let held := (roundDue false u p).isSome
  if !(cycleOut c x y p) || feeds.isEmpty || u.marks.contains (sentMark p) || held || (mapGet u.out p).isSome ||
      !(feeds.all (chanWave c (.site x y) looped 9)) then c
  else setSite c x y { u with out := mapSet u.out p (bareTok .wavefront 0 0 0 u.place), marks := u.marks ++ [sentMark p] }

/-- Site (x, y) holds no predecessor token, and the wavefront has come on every input that the predecessor's words use
(R221). -/
def siteDrained (looped : Bool) (c : Core) (x y : Nat) : Bool :=
  let u := siteAt c x y
  (u.words.all fun e => (waveChans false e.1 e.2).all (chanWave c (.site x y) looped 9)) &&
  u.store.isEmpty && u.ready.isEmpty && u.unitq.isEmpty && u.side.isEmpty && u.accs.isEmpty && (u.queue 4).isEmpty &&
  !(c.flights.any fun f => f.unit == .site x y)

/-- Output ports of a site by which the wavefront has still to leave. -/
def waveOuts (looped : Bool) (u : FUnit) : List Nat :=
  [0, 1, 2, 3].filter fun p => !(waveFeeds looped u p).isEmpty && !(u.marks.contains (sentMark p))

/-- Site (x, y) may take its successor's words (R221): drained, no round marker still to leave by a port or to release a node and
pass a slot (R215, R281), and the ports by which the wavefront leaves are free. -/
def siteDone (looped : Bool) (c : Core) (x y : Nat) : Bool :=
  let u := siteAt c x y
  siteDrained looped c x y && !(markDue false u) && (waveOuts looped u).all fun p => (mapGet u.out p).isNone

/-- The mark of a site outside the successor that has no more to do. -/
def goneMark : Mark := { kind := .wavefront, chan := 250, cons := 1, round := 0 }

/-- A site takes its successor's words and sends the wavefront on every output of the predecessor's words (R221); one outside
the successor gives up its own. A memory node that the site never sent to gets the wavefront here. -/
def switchSite (c : Core) (looped : Bool) (g : Config) (sp : Splice) (x y : Nat) : Core :=
  let u := siteAt c x y
  let inside := inRect sp.cfg x y
  let out := (waveOuts looped u).foldl (fun o p => mapSet o p (bareTok .wavefront 0 0 0 u.place)) u.out
  let fresh := { FUnit.reset with inq := u.inq, out := out }
  let quiet := g.anchor.getLsbD 0 && y = g.y0 && (waveFeeds false u 0).isEmpty
  let c := setSite c x y
    (if inside then { fresh with place := sp.cfg.place, slots := siteWords sp.img sp.cfg sp.mode x y }
     else { fresh with place := u.place, marks := [goneMark] })
  if quiet then setNode c x { nodeAt c x with u := (nodeAt c x).u.push 0 (bareTok .wavefront 0 0 0 g.place) } else c

/-- The region that holds placement `p`, while a splice goes through it. -/
def splicing (c : Core) (p : Nat) : Option (Nat × Region × Splice) :=
  (regionOfPlace c p).bind fun r => (mapGet c.regions r).bind fun g => g.succ.map fun sp => (r, g, sp)

/-- The stitches that stay: the successor has an edge port of the same number and direction (R181). -/
def keepStitches (c : Core) (r : Nat) (g : Config) : Core :=
  match mapGet c.regions r with
  | none => c
  | some h => (h.stitches.map (·.1)).foldl (fun c k =>
      if (epEntry g (k % 32) (k < 32)).isSome then c else unstitch c r k) c

/-- The end of a splice (R181): the region is LIVE under the successor, with its census, its stitches and fresh sources;
units that only the predecessor used are free. -/
def endSplice (c : Core) (r : Nat) (g : Region) (sp : Splice) : Core :=
  let c := keepStitches c r sp.cfg
  let c := freeUnits c g.cfg
  let old := g.cfg.place
  let c := dropPlace c old
  let c := { c with bs := { c.bs with cached := mapDel c.bs.cached g.cfg.block } }
  let c := if g.stitches.any fun e => e.2 == .nd then { c with relay := { c.relay with endSent := false } } else c
  let scan := match decodeOp sp.cfg.nd with | .ok (.nbScan _ _ _) => true | _ => false
  let owner := [c.coh, c.prev].find? fun h => h.any fun h => h.launch == sp.cfg.launch
  let spent := !scan && (owner.bind id).any fun h => h.pos == 0 && h.nuUsed
  updRegion c r fun h =>
    let n := newRegion sp.cfg (hasGate sp.img)
    { n with
      census := sp.census, stitches := h.stitches
      sources := n.sources.map fun q => { q with done := spent && fedBy h q.ep == some .nu } }

/-- A splice completes once every site of the successor and every edge unit holds its words and the predecessor's census is
zero; where the predecessor held the op list, no firing of it runs (R181, R353). A save keeps it in SPLICING (R460). -/
def trySpliceDone (s : State) (n r : Nat) : State :=
  let c := coreAt s n
  match (mapGet c.regions r).bind fun g => g.succ.map fun sp => (g, sp) with
  | none => s
  | some (g, sp) =>
    if (rectSites sp.cfg).all (fun p => (siteAt c p.1 p.2).place = sp.cfg.place) && sp.units.isEmpty && g.census = 0 &&
        !(g.cfg.anchor.getLsbD 1 && c.mx.place = g.cfg.place && c.mx.running.isSome) && !c.saving then
      finishCmd (setCore s n (endSplice c r g sp)) n sp.cmd
    else s

/-- The tokens of input queue `p` of a unit, ahead of a wavefront that will bring it other words, which find no input that `ok`
knows. -/
def strays (u : FUnit) (p : Nat) (ok : Tok → Bool) : List Tok :=
  ((u.queue p).takeWhile fun t => !(t.kind == .wavefront && t.place == u.place)).filter fun t => !t.isMark && !ok t

/-- Tokens that stood behind a wavefront meet the successor's words: one that finds no input there is a route fault (R202, R222,
R283). -/
def faultStrays (s : State) (k : Nat) (id : UnitId) (p : Nat) (ok : Tok → Bool) : State :=
  let c := coreAt s k
  let u := unitAt c id
  let bad := strays u p ok
  bad.foldl (fun s t => routeFault s k id t) (setCore s k (setUnit c id (u.setQueue p ((u.queue p).filter fun t => !bad.contains t))))

/-- The stray tokens of a site that has taken its words. -/
def siteStrays (s : State) (x y : Nat) : State :=
  [0, 1, 2, 3].foldl (fun s p => faultStrays s s.core (.site x y) p fun t => ((siteAt (cur s) x y).wordFor t.slot p).isSome) s
/-- The stray tokens of a memory node that has taken its words. -/
def nodeStrays (s : State) (x : Nat) : State :=
  faultStrays s s.core (.mn x) 0 fun t => (nodeRoute (unitAt (cur s) (.mn x)) t.slot).isSome && t.kind != .control

/-- SITE_TAKE_SUCCESSOR: site (x, y), when it is done, takes the successor's words and forwards the wavefront (R221); on a
cycle of links the wavefront leaves port by port ahead of that. -/
def execSiteTakeSuccessor (x y : Nat) (s : State) : Host.Outcome State Fault Refusal :=
  if !(x < 8 && y < 6) then .fault .noSuchUnit
  else .next (
    let c := cur s
    let u := siteAt c x y
    match splicing c u.place with
    | none => s
    | some (r, g, sp) =>
      if u.place ≠ g.cfg.place || u.saved || u.marks.contains goneMark then s
      else
        let c := if onCycle c x y then [0, 1, 2, 3].foldl (forwardWave g.looped x y) c else c
        if siteDone g.looped c x y then
          let s := siteStrays (setCur s (switchSite c g.looped g.cfg sp x y)) x y
          trySpliceDone (if y = 5 && inRect sp.cfg x 5 then checkPort s.core s x else s) s.core r
        else setCur s c)

/-- Memory node `x` is done with its predecessor: the wavefront has come from site (x, 0) and every lane it accepted has
performed (R181, R304). -/
def nodeDone (c : Core) (x : Nat) : Bool :=
  let u := (nodeAt c x).u
  waveOn u 0 && u.store.isEmpty && u.ready.isEmpty && (u.queue 5).isEmpty && !(markDue true u) &&
  !(c.flights.any fun f => f.unit == .mn x) && !(c.parked.any fun p => match p.who with | .piece a _ => a == x | _ => false)

/-- Tile port `y` has its wavefront: it stands there, or has returned to site (7, y), or that site has its new words. -/
def tileWave (c : Core) (g : Region) (y : Nat) : Bool :=
  let u := siteAt c 7 y
  let has := fun (q : List Tok) => q.any fun t => t.kind == .wavefront && t.place == g.cfg.place
  !inRect g.cfg 7 y || u.place ≠ g.cfg.place || u.marks.contains goneMark || (waveFeeds g.looped u 1).isEmpty ||
  has (mapGetD c.mx.ports y []) || waveOn u 1 || has (u.queue 1)

/-- nd has finished every run it has begun: no value waits, and every closed local round is sent and delivered (R435). -/
def ndIdle (k : Relay) : Bool := k.runs.isEmpty && k.store.isEmpty && k.results.isEmpty && k.localClosed == k.sentClosed

/-- The relay ports are done with their predecessor (R181): the wavefront has entered at nu and stands at nd, where they
are stitched, and nd is idle. -/
def relayDone (c : Core) (g : Region) : Bool :=
  (g.sources.all fun q => fedBy g q.ep != some .nu || q.done) &&
  (!(g.stitches.any fun e => e.2 == .nd) || (c.relay.ndq.head?).any fun t => t.kind == .wavefront) && ndIdle c.relay

/-- The region whose splice edge unit `e` has still to follow. -/
def unitSplice (c : Core) (e : EdgeUnit) : Option (Nat × Region × Splice) :=
  splicing c (match e with | .mn x => (nodeAt c x).u.place | .opList => c.mx.place | .relay => c.relay.place)

/-- EDGE_UNIT_TAKE_SUCCESSOR: an edge unit takes its successor's records once its predecessor work is done (R181). -/
def execEdgeUnitTakeSuccessor (unit : EdgeUnit) (s : State) : Host.Outcome State Fault Refusal :=
  .next (
    let c := cur s
    match unitSplice c unit with
    | none => s
    | some (r, g, sp) =>
      let took := fun (c : Core) => updRegion c r fun h =>
        { h with succ := h.succ.map fun p => { p with units := p.units.filter (· != unit) } }
      let mine := sp.units.contains unit
      match unit with
      | .mn x =>
        let u := (nodeAt c x).u
        if u.place ≠ g.cfg.place || u.saved || u.marks.contains goneMark || !(nodeDone c x) then s
        else
          let fresh := { FUnit.reset with inq := u.inq, place := u.place, marks := [goneMark] }
          let fresh := if mine then { fresh with place := sp.cfg.place, slots := nodeSlots sp.img (x - sp.cfg.x0), marks := [] } else fresh
          let v := fresh.push 4 (bareTok .wavefront 0 0 0 g.cfg.place)
          trySpliceDone (nodeStrays (setCur s (took (setNode c x { nodeAt c x with u := v }))) x) s.core r
      | .opList =>
        if !mine || c.mx.running.isSome || !([0, 1, 2, 3, 4, 5].all (tileWave c g)) then s
        else trySpliceDone (setCur s (took (loadList { c with mx := closeGroups c.mx } sp.img sp.cfg.place))) s.core r
      | .relay =>
        if !mine || !(relayDone c g) then s
        else
          let q := match c.relay.ndq with | t :: l => if t.kind == .wavefront then l else t :: l | [] => []
          trySpliceDone (setCur s (took (loadRelay { c with relay := { c.relay with ndq := q } } sp.img sp.cfg.place))) s.core r)

/-- The accumulators of slot `n` of site (x, y) round their sums, oldest round first, with the slot's LFSR, and raise the flags of
that (R55, R67, R71). -/
def settleSlot (x y : Nat) (c : Core) (n : Nat) : Core :=
  let mine := fun (a : Acc) => a.slot == n && a.res.isNone && !a.vals.isEmpty
  let as := (siteAt c x y).accs.filter mine
  match as with
  | [] => c
  | a :: _ =>
    let age := fun (b : Acc) => (b.round - a.round + 128).toNat
    (sortTags (as.map age)).foldl (fun c k =>
      let u := siteAt c x y
      let sl := u.slot n
      match u.accs.find? fun b => mine b && age b == k with
      | none => c
      | some b =>
        let (v, fl, lf) := accValue sl b.vals
        let accs := mapWhere u.accs (fun d => d.slot == n && d.round == b.round) fun d => { d with res := some v }
        raisePlace (setSite c x y { u with slots := mapSet u.slots n { sl with lfsr := lf }, accs := accs }) u.place fl) c

/-- A region at phase end takes no more values, so each accumulator whose release is still to come holds its whole sum: its flags are
raised now, ahead of any read that follows the phase end (R67, R220). -/
def settleSums (c : Core) : Core :=
  c.regions.foldl (fun c e =>
    if e.2.looped || !(atPhaseEnd e.2) then c
    else c.sites.foldl (fun c u =>
      if u.2.place ≠ e.2.cfg.place || u.2.accs.isEmpty then c
      else (List.range 8).foldl (fun c n => if (u.2.slot n).acc then settleSlot (u.1 % 8) (u.1 / 8) c n else c) c) c) c

/-- PHASE_END of a region (R213, R220): sources that end by their own rule close, a drain or a splice that has come to its
end finishes. -/
def execPhaseEnd (region : Nat) (s : State) : Host.Outcome State Fault Refusal :=
  .next (
    let s := trySpliceDone (updCur s fun c => settleSources c region) s.core region
    (cur s).cmds.foldl (fun s m => if m.phase == .running then pollLoader s s.core m else s) s)

end Sys2Proof.Machine
end

