-- ==== Sys2Proof/Machine/Scheduler.lean ====
section
/-! DEFINITION. The block scheduler (section 14): the block directory, exits and the call stack, decisions, turns and their
runs, demand splices, barriers and round points, commands. -/

namespace Sys2Proof.Machine

-- the block directory ---------------------------------------------------------------------------------------------

/-- What a look into the directory answers. -/
inductive DirGot where
  | words (w : List Word) | wait | bad
  deriving DecidableEq, Repr

/-- Exit entry X`i` of a directory entry (R357). -/
def exitEntry (w : List Word) (i : Nat) : W32 := BitVec.ofNat 32 ((nthD w (1 + i / 2) 0).toNat / 2 ^ (32 * (i % 2)))
/-- KIND of an exit entry (R358). -/
def xKind (x : W32) : Nat := x.toNat / 2 ^ 12 % 4
/-- TARGET. -/
def xTarget (x : W32) : Nat := x.toNat % 4096
/-- RET. -/
def xRet (x : W32) : Nat := x.toNat / 2 ^ 16 % 4096
/-- The res0 fields of an entry are zero (R357, R358). -/
def dirOk (w : List Word) : Bool :=
  nthD w 3 0 == 0 && (List.range 4).all fun i =>
    let x := exitEntry w i
    x.toNat / 2 ^ 28 = 0 && (xKind x = 1 || xRet x = 0)

/-- Directory entry of block `b`: kept while its placement lasts, else read at home; a translation fault parks (R357). -/
def dirEntry (s : State) (n b : Nat) : State × DirGot :=
  let c := coreAt s n
  match mapGet c.bs.cached b with
  | some w => (s, .words w)
  | none =>
    if c.parked.any fun p => p.who == .directory b then (s, .wait)
    else
      let va := c.bs.dir + BitVec.ofNat 64 (32 * b)
      match translateAt s n va .read with
      | (s, .error e) =>
        (match fabricCohort c with
         | none => (s, .wait)
         | some h =>
           let q := (ctxAt s h.ctx).seq
           let s := updCore s n fun c => { c with parked := c.parked ++
             [{ seq := q, who := .directory b, va := va, inRing := false, answer := 0 }] }
           (putRecord s h.ctx h.lid (some h.launch)
             { Record.mk' 0x0A 8 e false with park := true, core := n, addr := va }, .wait))
      | (s, .ok t) =>
        let pa := t.phys va
        if placeBad s pa 32 then (s, .bad)
        else
          let w := wordsOf 4 (memRead s.mem pa 32)
          if !(dirOk w) then (s, .bad)
          else (updCore s n fun c => { c with bs := { c.bs with cached := mapSet c.bs.cached b w } }, .words w)

/-- A scheduler fault of core `n` (R376). -/
def bsFault (s : State) (n cause tag : Nat) : State := faultAt s n false { Record.mk' 0x0F 8 cause true with base := tag }

-- regions and turns -----------------------------------------------------------------------------------------------

/-- The region that holds block `b` (R168, R366). -/
def blockRegion (c : Core) (b : Nat) : Option (Nat × Region) :=
  c.regions.find? fun e => (regionCfgs e.2).any fun g => g.block == b
/-- The source of a region that an entry port feeds (R356). -/
def entrySource (g : Region) : Option Nat := findIdx g.sources fun q => match fedBy g q.ep with | some (.entry _) => true | _ => false
/-- The LIVE region and open entry source of a block. -/
def openEntry (c : Core) (b : Nat) : Option (Nat × Nat) :=
  (blockRegion c b).bind fun e =>
    if e.2.phase != .live || e.2.cfg.block != b then none
    else (entrySource e.2).bind fun k => (sourceAt c e.1 k).bind fun q => if q.done then none else some (e.1, k)

/-- A hold is in force (R371): it ends when the sequencer enters DONE. -/
def holdOn (c : Core) : Bool :=
  c.bs.hold && !(c.prev.isSome || c.seq.st == .done || (c.seq.st == .saved && c.seq.held == .done))
/-- The cohort that the scheduler serves lives and no save stops it. -/
def bsRuns (c : Core) : Bool := (match fabricCohort c with | some h => !h.fatal | none => false) && !c.saving
/-- Waiting bits of block `b`. -/
def waitingOf (c : Core) (b : Nat) : List Nat := mapGetD c.bs.waiting b []

/-- The block that a decision chooses (R364). -/
def chooseBlock (c : Core) : Option Nat :=
  let cs := c.bs.waiting.filter fun e => !e.2.isEmpty
  match cs.find? fun e => mapGetD c.bs.ages e.1 0 ≥ 8 with
  | some e => some e.1
  | none =>
    if c.bs.sel then cs.head?.map (·.1)
    else (cs.foldl (fun (best : Option (Nat × Nat)) e =>
      match best with
      | some b => if e.2.length > b.2 then some (e.1, e.2.length) else some b
      | none => some (e.1, e.2.length)) none).map (·.1)

/-- Ages after a decision for block `b` (R364). -/
def newAges (c : Core) (b : Nat) : SMap Nat :=
  (c.bs.waiting.foldl (fun m e => if e.2.isEmpty || e.1 == b then m else mapSet m e.1 (min 15 (mapGetD m e.1 0 + 1))) c.bs.ages)
    |> fun m => mapDel m b

/-- `bs.policy` comes into force at a decision; a directory that changes drops the cached entries (R373). Its rounding mode is
that of every demand splice from its acceptance on (R56). -/
def applyPolicy (b : Sched) : Sched :=
  match b.policy with
  | none => b
  | some (sel, nopack, dir) =>
    { b with sel := sel, nopack := nopack, dir := dir, policy := none, cached := if dir = b.dir then b.cached else [] }

/-- The entry source of region `r` opens for a turn: a CLOSED region becomes LIVE (R167, R363). -/
def reopen (c : Core) (r k : Nat) : Core :=
  updSource (updRegion c r fun g => { g with phase := if g.phase == .closed then .live else g.phase, drained := false }) r k
    fun q => { q with done := false }

/-- The scheduler closes the entry source of region `r`: the final marker, and the region is CLOSED (R363). -/
def closeEntry (c : Core) (r k : Nat) : Core :=
  updRegion (closeSource c r k) r fun g => { g with phase := if g.phase == .live then .closed else g.phase }

/-- The region that gives way to a demanded block: stitched to an entry port, with the fewest waiting bits (R367); the one chosen
already, while the turn waits for a store entry. -/
def victim (c : Core) : Option (Nat × Region) :=
  (c.bs.gives.bind fun r => (mapGet c.regions r).map fun g => (r, g)) <|>
  (c.regions.filter fun e => (entrySource e.2).isSome).foldl (fun (best : Option (Nat × Region)) e =>
    match best with
    | some b => if (waitingOf c e.2.cfg.block).length < (waitingOf c b.2.cfg.block).length then some e else some b
    | none => some e) none

/-- The store entry that a demand fetch takes (R367): the lowest EMPTY one, else the lowest HELD one that no pending command
names. -/
def demandEntry (c : Core) : Option Nat :=
  let named := c.cmds.filterMap fun m => if m.phase == .finished then none else if engineOf m.op == 0 then namedEntry m else none
  ((List.range 16).find? fun e => (mapGet c.entries e).isNone) <|> (List.range 16).find? fun e => !named.contains e

/-- A loader request of the scheduler. -/
def demandCmd (c : Core) (id : Nat) (op : Instr) (a b : Nat) : Cmd :=
  { id := id, op := op, ops := [BitVec.ofNat 64 a, BitVec.ofNat 64 b], rd := 0, rdWait := true, pen := none,
    mode := c.bs.defMode, phase := .issued, record := false, value := 0, prev := c.prev.isSome }

/-- The stages of R367 for block `b`, which no region holds. A source that has still to wait for its round (R214) closes later. -/
def demandBlock (s : State) (n b : Nat) : State :=
  let c := coreAt s n
  if !c.bs.demand.isEmpty then
    if c.cmds.any fun m => c.bs.demand.contains m.id then s
    else setCore s n { c with bs := { c.bs with demand := [] } }
  else if c.bs.dir = 0 then bsFault s n 0x04 0
  else match dirEntry s n b with
    | (s, .wait) => s
    | (s, .bad) => bsFault s n 0x05 0
    | (s, .words w) =>
      let c := coreAt s n
      if nthD w 0 0 = 0 then bsFault s n 0x04 0
      else match victim c with
        | none => bsFault s n 0x04 0
        | some (r, g) =>
        let held : Bool := match entrySource g with | some k => g.phase == .live && !(sourceFree c r k) | none => false
        let c := match entrySource g with | some k => if g.phase == .live && !held then closeEntry c r k else c | none => c
        match (if held then none else demandEntry c) with
        | none => setCore s n { c with bs := { c.bs with gives := some r } }
        | some e =>
          let id := s.nextId
          let fetch := demandCmd c id (.cfgFetch 0 0 0 0) (nthD w 0 0).toNat e
          let place := demandCmd c (id + 1) (.cfgSplice 0 0 0 0) (e + 256 * r) (g.cfg.x0 + 256 * g.cfg.y0)
          { setCore s n { c with cmds := c.cmds ++ [fetch, place], bs := { c.bs with demand := [id, id + 1], gives := none } } with
            nextId := id + 2 }

/-- A turn that has been decided gets its region: LIVE under the block with its entry source open (R363, R366, R367). -/
def stepTurn (s : State) (n b : Nat) : State :=
  let c := coreAt s n
  match blockRegion c b with
  | none => demandBlock s n b
  | some (r, g) =>
    if g.cfg.block ≠ b || g.phase == .splicing || c.cmds.any (fun m => c.bs.demand.contains m.id) then s
    else match entrySource g with
      | none => s
      | some k =>
        match sourceAt c r k with
        | none => s
        | some q =>
          if q.marked then s
          else
            let c := if q.done || g.phase == .closed then reopen c r k else c
            setCore s n { c with bs := { c.bs with turnReady := true, demand := [] } }

/-- BS_DECISION (R364): with no turn held a block is chosen and its turn begins; a turn that waits for its region goes on. -/
def execBsDecision (s : State) : Host.Outcome State Fault Refusal :=
  .next (
    let n := s.core
    let c := cur s
    if !(bsRuns c) then s
    else match c.bs.turn with
      | some (b, _, _) => if c.bs.turnReady then s else stepTurn s n b
      | none =>
        if holdOn c then s
        else
          let c := { c with bs := applyPolicy c.bs }
          match chooseBlock c with
          | none => s
          | some b =>
            stepTurn (setCur s { c with bs := { c.bs with
              turn := some (b, waitingOf c b, 0), turnReady := false, ages := newAges c b } }) n b)

-- forming runs ----------------------------------------------------------------------------------------------------

/-- Length of the stretch of consecutive tags at the head, at most 32. -/
def stretch : Nat → List Nat → Nat
  | 0, _ => 0
  | _, [] => 0
  | _, [_] => 1
  | f + 1, a :: b :: r => if b = a + 1 then 1 + stretch f (b :: r) else 1

/-- P of R362: one tag a bank, ascending, at most 32. -/
def packBanks : List Nat → List Nat → List Nat
  | [], p => p
  | u :: r, p => if p.length < 32 && !(p.any fun q => q % 32 = u % 32) then packBanks r (p ++ [u]) else packBanks r p

/-- The tags of the next run of snapshot `s` (R362). -/
def formRun (nopack : Bool) (s : List Nat) : List Nat :=
  let l := stretch 32 s
  if l ≥ 16 || nopack then s.take l else packBanks s []

/-- The token of a run as it enters: each lane holds its tag (R356). -/
def entryRun (ctx : Nat) (kind : TokKind) (tags : List Nat) : Tok :=
  { bareTok kind 0 0 ctx 0 with tags := tags, lanes := tags.map fun t => ⟨BitVec.ofNat 32 t, false⟩ }

/-- The waiting vectors without some tags of block `b`. -/
def dropWaiting (m : SMap (List Nat)) (b : Nat) (tags : List Nat) : SMap (List Nat) :=
  putTags m b ((mapGetD m b []).filter fun t => !tags.contains t)

/-- BS_INJECT_RUN (R356, R362, R363): the next run of the turn enters by its region's entry source, or the turn ends. -/
def execBsInjectRun (s : State) : Host.Outcome State Fault Refusal :=
  .next (
    let n := s.core
    let c := cur s
    match c.bs.turn with
    | none => s
    | some (b, snap, k) =>
      if !(bsRuns c) then s
      else if !c.bs.turnReady then stepTurn s n b
      else
        let ends := fun (c : Core) => setCur s { c with bs := { c.bs with turn := none, turnReady := false } }
        match openEntry c b with
        | none => ends c
        | some (r, i) =>
          if snap.isEmpty then
            if sourceTakes c r i (markTok 0) then ends (closeEntry c r i) else s
          else
            let tags := formRun c.bs.nopack snap
            let ctx := match fabricCohort c with | some h => h.ctx | none => 0
            let t := entryRun ctx (runKind tags) tags
            if !(sourceOpen c r i t) then s
            else
              let c := sourceMake c r i t
              setCur s { c with bs := { c.bs with
                turn := some (b, snap.filter (fun u => !tags.contains u), k), waiting := dropWaiting c.bs.waiting b tags } })

-- exits -----------------------------------------------------------------------------------------------------------

/-- Live-value count of the cohort. -/
def liveCount (c : Core) : Nat := match fabricCohort c with | some h => 8 * h.live | none => 0
/-- The core and scratchpad offset of stack entry `d` ≥ 8 of thread `t` in window wn7 (R360). -/
def stackPlace (s : State) (n d t : Nat) (wr : Bool) : Option (Nat × Nat) :=
  let nthr := match fabricCohort (coreAt s n) with | some h => h.nthr | none => 0
  let o := 2 * ((d - 8) * nthr + t)
  if o ≥ 2 ^ 21 then none
  else match resolveWin s n (fabricCohort (coreAt s n)) (BitVec.ofNat 32 (o + n % 4 * 2 ^ 22)) 7 2 (!wr) wr with
    | .ok (r, a) => some (peer n r, a)
    | .error _ => none

/-- `push(t, r)` of R360; none when the window fails. -/
def pushStack (s : State) (n t r : Nat) : Option State :=
  let c := coreAt s n
  let v := liveCount c
  let d := (lvGet c t (v - 5)).toNat
  let bump := fun s => updCore s n fun c => lvSet c t (v - 5) (BitVec.ofNat 32 (d + 1))
  if d < 8 then
    let i := v - 4 + d / 2
    let w := lvGet c t i
    let w' : W32 := if d % 2 = 0 then (w &&& 0xFFFF0000) ||| BitVec.ofNat 32 r else (w &&& 0xFFFF) ||| BitVec.ofNat 32 (r * 65536)
    some (bump (updCore s n fun c => lvSet c t i w'))
  else (stackPlace s n d t true).map fun p =>
    bump (updCore s p.1 fun c => { c with scratch := memWrite c.scratch p.2 (leBytes 2 r) })

/-- `pop(t)` of R360: the block, or a fault's cause. -/
def popStack (s : State) (n t : Nat) : Except Nat (State × Nat) :=
  let c := coreAt s n
  let v := liveCount c
  let d := (lvGet c t (v - 5)).toNat
  let put := fun (e : Nat) => Except.ok (updCore s n fun c => lvSet c t (v - 5) (BitVec.ofNat 32 (d - 1)), e % 4096)
  if d = 0 then .error 0x03
  else if d - 1 < 8 then put ((lvGet c t (v - 4 + (d - 1) / 2)).toNat / 2 ^ (16 * ((d - 1) % 2)))
  else match stackPlace s n (d - 1) t false with
    | some p => put (memNat (coreAt s p.1).scratch p.2 2)
    | none => .error 0x02

/-- Applies exit entry `x` to thread `t` (R360); `straight` keeps the bit out of the waiting vector. A fault ends the rest. -/
def applyExit (s : State) (n : Nat) (x : W32) (straight : Bool) (t : Nat) : Except State State :=
  let deposit := fun (s : State) (b : Nat) =>
    if straight then s else updCore s n fun c => { c with bs := { c.bs with waiting := addTags c.bs.waiting b [t] } }
  if (coreAt s n).bs.dir = 0 || !x.getLsbD 15 then .error (bsFault s n 0x01 t)
  else if inVector (coreAt s n) t then .error (bsFault s n 0x06 t)
  else match xKind x with
    | 0 => .ok (deposit s (xTarget x))
    | 1 => match pushStack s n t (xRet x) with
      | some s => .ok (deposit s (xTarget x))
      | none => .error (bsFault s n 0x02 t)
    | 2 => match popStack s n t with
      | .ok (s, b) => .ok (deposit s b)
      | .error e => .error (bsFault s n e t)
    | _ => .ok (updCore s n fun c => { c with bs := { c.bs with barred := addTags c.bs.barred (xTarget x) [t] } })

/-- Applies to each thread, in order, its exit entry, until a fault. -/
def applyExits (n : Nat) (x : Nat → W32) (straight : Bool) : List Nat → State → Except State State
  | [], s => .ok s
  | t :: r, s => match applyExit s n (x t) straight t with
    | .ok s => applyExits n x straight r s
    | .error s => .error s

/-- Edge ports of a region with DIR 1 that are stitched to exit ports, in table order (R359). -/
def exitPorts (g : Region) (cfg : Config) : List Nat :=
  cfg.edges.filterMap fun e =>
    if epOut e then (match mapGet g.stitches (epPort e) with | some (.exit i) => some i | _ => none) else none
/-- Number k of exit port `i` for the placement of a token. -/
def exitNumber (c : Core) (place i : Nat) : Nat :=
  match (regionOfPlace c place).bind (mapGet c.regions), cfgOfPlace c place with
  | some g, some cfg => (findIdx (exitPorts g cfg) (· == i)).getD 0
  | _, _ => 0
/-- Live values that the value tokens of a placement stand for (R359). -/
def outValues (c : Core) (place : Nat) : List Nat := match cfgOfPlace c place with | some g => liveBits g.liveout | none => []

/-- The entry source through which an exit set passes straight into the current turn (R368). -/
def straightInto (c : Core) (x : W32) : Option (Nat × Nat) :=
  match c.bs.turn with
  | some (b, _, k) =>
    if c.bs.st && x.getLsbD 14 && xKind x ≤ 1 && x.getLsbD 15 && xTarget x = b && c.bs.turnReady && k < 64 then openEntry c b else none
  | none => none

/-- Writes the value tokens of thread `t`, unless a lane of it is null (R200, R359). -/
def writeOuts (c : Core) (outs : List Nat) (toks : List Tok) (t : Nat) : Core :=
  if toks.any fun k => match k.lane t with | some l => l.null | none => true then c
  else (outs.zip (toks.drop 1)).foldl (fun c e =>
    lvSet c t e.1 (if e.2.kind == .ordering then 0 else match e.2.lane t with | some l => l.v | none => 0)) c

/-- The slot that selects the exit entry of thread `a` of a fired set (R359): that of the exit token which gave it. -/
def exitSlot (f : Fire) (t : Tok) (a : Nat) : Nat := ((f.exits.find? fun e => e.1 == a).map (·.2)).getD t.slot

/-- The first fired set of exit port `i` takes effect (R359, R360, R368). A packed set whose threads exit by both entries passes no
run straight on (log entry 102). Live-value and predicate writes are made as their stages fire; the exit is not held for those of
tokens of its threads that have not fired yet, which R361 lets go on (R233; log entry 103). -/
def fireExit (s : State) (n i : Nat) (f : Fire) : State :=
  let c := coreAt s n
  let u := unitAt c (.exit i)
  match f.toks with
  | [] => s
  | t :: _ =>
    if unperformed c t.tags then s
    else
      let block := match cfgOfPlace c t.place with | some g => g.block | none => 0
      let taken := fun (s : State) => updCore s n fun c =>
        census (setUnit c (.exit i) { u with ready := u.ready.drop 1 }) t.place (-(f.toks.length : Int))
      let write := fun (s : State) => updCore s n fun c => t.tags.foldl (fun c a => writeOuts c (outValues c t.place) f.toks a) c
      if c.bs.dir = 0 then bsFault (taken (write s)) n 0x01 t.base
      else match dirEntry s n block with
        | (s, .wait) => s
        | (s, .bad) => bsFault (taken s) n 0x05 t.base
        | (s, .words w) =>
          let x := fun a => exitEntry w (2 * exitNumber c t.place i + exitSlot f t a)
          let ctx := match fabricCohort c with | some h => h.ctx | none => 0
          let kind := if t.kind == .ordering then runKind t.tags else t.kind
          let run := entryRun ctx kind t.tags
          match (if f.exits.isEmpty then straightInto (coreAt s n) (x t.base) else none) with
          | none => match applyExits n x false t.tags (write s) with | .ok s => taken s | .error s => taken s
          | some (r, k) =>
            if !(sourceOpen (coreAt s n) r k run) then s
            else match applyExits n x true t.tags (write s) with
              | .error s => taken s
              | .ok s => updCore (taken s) n fun c =>
                { sourceMake c r k run with bs := { c.bs with
                    turn := c.bs.turn.map fun q => (q.1, q.2.1, q.2.2 + 1), straight := c.bs.straight + 1 } }

/-- An exit port takes the token at its head into its matching store of 64 entries (R206, R359). -/
def takeExit (s : State) (n i : Nat) : State :=
  let c := coreAt s n
  let u := unitAt c (.exit i)
  match u.queue 0 with
  | [] => s
  | t :: rest =>
    let u := u.setQueue 0 rest
    let popped := setCore s n (setUnit c (.exit i) u)
    let outs := outValues c t.place
    let inp := if t.slot ≤ 1 then 0 else t.slot - 1
    if t.isMark then popped
    else if t.kind == .stop then updCore popped n fun c => census c t.place (-1)
    else if t.kind == .control || inp > outs.length then routeFault popped n (.exit i) t
    else
      let m := matchAll 200 u 0 (List.range (outs.length + 1)) [(inp, t)] 0
      match m.bad with
      | some a =>
        let (v, gone) := dropThread m.u a t
        fabricFault (updCore s n fun c =>
          gone.foldl (fun c w => census c w.place (-1)) (census (setUnit c (.exit i) v) t.place m.delta)) n (.exit i) t.slot 0x02 true a 1
      | none =>
        if m.u.ready.length == u.ready.length && u.store.length ≥ 64 then s
        else updCore s n fun c => census (setUnit c (.exit i) m.u) t.place m.delta

/-- EXIT_PORT_FIRE: the port's oldest fired set takes effect, or the port takes a token (R359). -/
def execExitPortFire (port : Nat) (s : State) : Host.Outcome State Fault Refusal :=
  if port ≥ 2 then .fault .noSuchUnit
  else .next (
    let c := cur s
    let u := unitAt c (.exit port)
    if (match fabricCohort c with | some h => h.fatal | none => true) then s
    else match u.ready with
      | f :: _ => fireExit s s.core port f
      | [] => takeExit s s.core port)

-- round points ----------------------------------------------------------------------------------------------------

/-- An exit port holds a token. -/
def exitsBusy (c : Core) : Bool := c.bs.exits.any fun e => !((e.2.queue 0).all Tok.isMark) || !e.2.store.isEmpty || !e.2.ready.isEmpty

/-- A region that launch `l` holds, its successor's configuration included, is at phase end (R370); what a chained successor
holds in it is not counted (R453). -/
def cohortPhaseEnd (l : Nat) (g : Region) : Bool :=
  (g.cfg.launch != l || atPhaseEnd g) && !(g.succ.any fun p => p.cfg.launch == l)

/-- The cohort is at a round point (R370). -/
def atRoundPoint (c : Core) : Bool :=
  (c.regions.all fun e => match fabricCohort c with | some h => cohortPhaseEnd h.launch e.2 | none => true) && c.bs.watch.isEmpty &&
  (c.bs.waiting.all fun e => e.2.isEmpty) && !(exitsBusy c)

/-- Opens every barrier vector (R370). -/
def openBarriers (b : Sched) : Sched :=
  { b with waiting := b.barred.foldl (fun m e => addTags m e.1 e.2) b.waiting, barred := [] }

/-- ROUND_POINT (R370, R371): armed commands complete, an armed hold comes into force, or the barriers open. -/
def execRoundPoint (s : State) : Host.Outcome State Fault Refusal :=
  .next (
    let c := cur s
    if !(bsRuns c) || !(atRoundPoint c) then s
    else
      let ids := c.bs.armed
      let b := { c.bs with hold := c.bs.hold || c.bs.armHold, armHold := false, armed := [] }
      let c := { c with bs := b }
      let c := if holdOn c then c else { c with bs := openBarriers { c.bs with hold := false } }
      ids.foldl (fun s id => completeCmd s s.core id) (setCur s c))

-- commands --------------------------------------------------------------------------------------------------------

/-- `bs.query`'s word (R374). -/
def bsWord (c : Core) (b : Nat) : Word :=
  let r := blockRegion c b
  BitVec.ofNat 64 ((waitingOf c b).length % 2 ^ 13 + (mapGetD c.bs.barred b []).length % 2 ^ 13 * 2 ^ 13 +
    r.isSome.toNat * 2 ^ 26 + (match r with | some e => e.1 | none => 0) % 8 * 2 ^ 27 +
    (match c.bs.turn with | some (t, _, _) => t == b | none => false).toNat * 2 ^ 30 +
    mapGetD c.bs.ages b 0 % 16 * 2 ^ 31 + (holdOn c).toNat * 2 ^ 35)

/-- The operands break R372. -/
def bsOperandBad (c : Core) (m : Cmd) : Bool :=
  let nthr := match cmdCohort c m with | some h => h.nthr | none => 0
  match m.op with
  | .bsQuery _ _ => !m.only 1 0xFFF
  | .bsSeed _ _ _ =>
    !m.only 1 0xFFF || !m.only 2 0x1FFF1FFF || m.fld 2 16 13 = 0 || m.fld 2 16 13 > 4096 || m.fld 2 0 13 + m.fld 2 16 13 > nthr
  | .bsPolicy _ _ _ => !canonical (m.opnd 1) || (m.opnd 1).toNat % 32 ≠ 0 || !m.only 2 3
  | _ => !m.only 1 1

/-- The scheduler's answer (R372 to R375). A successor's commands wait until its predecessor has retired (R453). -/
def judgeSched (s : State) (n : Nat) (m : Cmd) : State × Verdict :=
  let c := coreAt s n
  if c.prev.isSome && !m.prev then (s, .wait)
  else if bsOperandBad c m then (s, .refuse 0x02)
  else match m.op with
    | .bsQuery _ _ => (s, .take (bsWord c (m.fld 1 0 12)))
    | .bsSeed _ _ _ =>
      let b := m.fld 1 0 12
      let tags := (List.range (m.fld 2 16 13)).map (· + m.fld 2 0 13)
      let started := match cmdCohort c m with | some h => h.started | none => false
      if !started then (s, .refuse 0x12)
      else if !(holdOn c) then (s, .refuse 0x10)
      else if c.bs.barred.any fun e => tags.any fun t => e.2.contains t then (s, .refuse 0x11)
      else if c.bs.waiting.any fun e => e.1 != b && tags.any fun t => e.2.contains t then (s, .refuse 0x13)
      else (setCore s n { c with bs := { c.bs with waiting := addTags c.bs.waiting b tags } }, .ok)
    | .bsPolicy _ _ _ =>
      (setCore s n { c with bs := { c.bs with policy := some (m.fld 2 0 1 = 1, m.fld 2 1 1 = 1, m.opnd 1), defMode := m.mode } }, .ok)
    | .bsUniform _ _ =>
      (setCore s n { c with bs := { c.bs with st := m.fld 1 0 1 = 1 } }, .take (BitVec.ofNat 64 (c.bs.straight.toNat * 2 ^ 32)))
    | _ => (s, .ok)

/-- The work of an accepted scheduler command (R371, R373). -/
def runSched (s : State) (n : Nat) (m : Cmd) : State :=
  match m.op with
  | .bsRound _ _ _ =>
    if m.fld 1 0 1 = 1 then updCore s n fun c => { c with bs := { c.bs with armed := c.bs.armed ++ [m.id], armHold := true } }
    else finishCmd (updCore s n fun c => { c with bs := { c.bs with hold := false, armHold := false } }) n m.id
  | _ => finishCmd s n m.id

end Sys2Proof.Machine
end

