-- ==== Sys2Proof/Machine/Relay.lean ====
section
/-! DEFINITION. The relay (section 17): nu, nd, forwarding, cross-core scans, `nb.drain`. -/

namespace Sys2Proof.Machine

-- links -----------------------------------------------------------------------------------------------------------

/-- A token on a link as it is. -/
def plainLink (t : Tok) : LinkTok := { tok := t, carry := none, as := [], last := false }
/-- A round marker on a link, or the end mark. -/
def linkMark (ctx : Nat) (last : Bool) : LinkTok := { plainLink (markTok ctx) with last := last }

/-- The cohort stands at the head of its chain (R427). -/
def chainHead (c : Core) : Bool := match fabricCohort c with | some h => h.pos == 0 | none => true
/-- Context of the core's fabric. -/
def fabricCtx (c : Core) : Nat := match fabricCohort c with | some h => h.ctx | none => 0

/-- nd sends entries to its link; at the tail nothing leaves (R426, R430). A pre-emption marker is none of the tokens that a drain
counts (R437). -/
def sendLink (s : State) (n : Nat) (ls : List LinkTok) : State :=
  if (chainCore s n 1).isNone then s
  else updCore s n fun c => { c with relay := { c.relay with
    linkOut := c.relay.linkOut ++ ls, ndSent := c.relay.ndSent + (ls.filter fun t => t.tok.kind != .preempt).length } }

/-- A relay fault at nu (unit 5) or nd (unit 6): it ends the cohort (R438). -/
def relayFault (s : State) (n unit cause : Nat) (t : Tok) : State :=
  let c := coreAt s n
  faultAt s n false { Record.mk' 0x12 unit cause true with
    flags := placeFlags c c.relay.place, base := t.base, len := t.tags.length }

-- scan values -----------------------------------------------------------------------------------------------------

/-- An element as the scan holds it: (a, b), a scalar as b. -/
abbrev Pair := W32 × W32

/-- Operator and type of `nb.scan` as one number. -/
def scanSig (t m : Nat) : Nat := t + 8 * m
/-- Type and operator of the nd word, with sat: `nb.scan` only. -/
def scanWord (c : Core) : Option (Nat × Nat × Bool) :=
  match decodeOp (nthD c.relay.nd 0 0) with
  | .ok (.nbScan t q m) => some (t.toNat, m.toNat, q == 1)
  | _ => none

/-- Widens a lane of type `t` to FP32 exactly, with the invalid flag of a signalling NaN (R433). -/
def widen (t : Nat) (v : W32) : W32 × Flags :=
  if t = 4 || t = 5 then
    let x := decodeF (typeFmt t) v.toNat
    (BitVec.ofNat 32 (roundTo f32 0 false 0 x).1, nvOf [x])
  else (v, 0)

/-- c ⊕ v of R72: the carry is the left operand. -/
def scanOp (t m : Nat) (sat : Bool) (c v : Pair) : Pair × Flags :=
  let f := fun (x : W32) => decodeF f32 x.toNat
  if m = 3 then
    let a := toF32 (mulV (f v.1) (f c.1))
    let b := toF32 (fmaV false (f v.1) (f c.2) (f v.2))
    ((BitVec.ofNat 32 a.1, BitVec.ofNat 32 b.1), a.2 ||| b.2)
  else if isInt t then
    let x := ival t c.2; let y := ival t v.2
    let r := if m = 0 then fitT t sat (x + y) else if m = 1 then (if x ≤ y then c.2 else v.2) else (if x ≥ y then c.2 else v.2)
    ((0, r), 0)
  else if m = 0 then
    let r := toF32 (addV false (f c.2) (f v.2))
    ((0, BitVec.ofNat 32 r.1), r.2)
  else
    let r := fminmax f32 (m = 2) c.2.toNat v.2.toNat
    ((0, BitVec.ofNat 32 r.1), r.2)

/-- The identity that replaces a null value (R204, R434). -/
def scanIdentity (t m : Nat) : Pair :=
  if m = 3 then (0x3F800000, 0x80000000)
  else if t = 0 then (0, if m = 0 then 0 else if m = 1 then 0x7FFFFFFF else 0x80000000)
  else if t = 1 then (0, if m = 1 then 0xFFFFFFFF else 0)
  else (0, if m = 0 then 0x80000000 else if m = 1 then 0x7F800000 else 0xFF800000)

/-- The init element (R433). -/
def scanInit (c : Core) (m : Nat) : Pair := (if m = 3 then 0x3F800000 else 0, nthD c.relay.nd 2 0)
/-- INCL. -/
def scanIncl (c : Core) : Bool := (nthD c.relay.nd 1 0).getLsbD 0
/-- NUL of nd's control word. -/
def ndNul (c : Core) : Nat := (nthD c.relay.nd 3 0).toNat / 4 % 4

/-- The value of a lane: one token, or the tokens of a and b (R433). -/
def laneValue (t m : Nat) (x : W32) (y : Option W32) : Pair × Flags :=
  if m = 3 then
    match y with
    | some b => ((x, b), 0)
    | none =>
      let a := widen t (x.setWidth 16).toNat
      let b := widen t (x >>> 16)
      ((a.1, b.1), a.2 ||| b.2)
  else
    let a := widen t x
    ((0, a.1), a.2)

/-- A local run reaches the scan: its lanes as values of the current local round (R434). -/
def addLocal (s : State) (n t m : Nat) (ts : List Tok) : State :=
  match ts with
  | [] => s
  | base :: more =>
    let c := coreAt s n
    let k := c.relay
    let now := k.localClosed
    if base.tags.any fun g => k.locals.any fun v => v.round == now && v.tag == g then relayFault s n 6 0x03 base
    else
      let nul := ndNul c
      let lanes := base.tags.map fun g =>
        let x := (base.lane g).getD ⟨0, true⟩
        let y := more.head?.map fun u => (u.lane g).getD ⟨0, true⟩
        let null := x.null || (y.map (·.null)).getD false
        if null && nul ≠ 2 then
          (({ round := now, tag := g, a := 0, b := 0, null := true, res := if nul = 1 then (y.getD x).v else 0 } : ScanV), (0 : Flags))
        else
          let e := if null then (scanIdentity t m, 0) else laneValue t m x.v (y.map (·.v))
          ({ round := now, tag := g, a := e.1.1, b := e.1.2, null := false, res := 0 }, e.2)
      let k := { k with
        locals := k.locals ++ lanes.map (·.1)
        solved := k.solved ++ (lanes.map (·.1)).filter (·.null)
        runs := k.runs ++ [(now, base)] }
      setCore s n (raisePlace { c with relay := k } k.place (lanes.foldl (fun f e => f ||| e.2) 0))

/-- The result of tag `g` in round `r`, once it stands. -/
def solvedAt (k : Relay) (r g : Nat) : Option ScanV := k.solved.find? fun v => v.round == r && v.tag == g

/-- Carries on a link: a run of elements. -/
def carryLink (sig ctx : Nat) (vs : List ScanV) : LinkTok :=
  let tags := vs.map (·.tag)
  { plainLink { bareTok (runKind tags) 0 0 ctx 0 with tags := tags, lanes := vs.map fun v => ⟨v.b, false⟩ } with
    carry := some sig, as := vs.map (·.a) }

/-- Splits sorted tags into the runs of R362 with NOPACK = 0; `f` bounds the runs. -/
def passRuns : Nat → List Nat → List (List Nat)
  | 0, _ => []
  | f + 1, tags => if tags.isEmpty then [] else
    let p := formRun false tags
    p :: passRuns f (tags.filter fun g => !p.contains g)

/-- Every carry of the round that scan work has reached has arrived: the head, or upstream's marker (R434). -/
def carryDone (c : Core) : Bool := chainHead c || c.relay.sentClosed < c.relay.carryClosed

/-- Sends what is resolved: whole local runs, and at the end of a round the carries that pass through, the marker
downstream and nu's own (R434, R435); `f` bounds the acts. A value or a carry that cannot be read is a memory error (R438). -/
def settleScan (n sig : Nat) : Nat → State → State
  | 0, s => s
  | f + 1, s =>
    let c := coreAt s n
    let k := c.relay
    let now := k.sentClosed
    let ctx := fabricCtx c
    let whole := fun (e : Nat × Tok) => e.1 == now && e.2.tags.all fun g => (solvedAt k now g).isSome
    match findIdx k.runs whole with
    | some i =>
      let t := ((k.runs[i]?).map (·.2)).getD (bareTok .run 0 0 ctx 0)
      let vs := t.tags.filterMap fun g => solvedAt k now g
      let out := vs.filter fun v => !v.null
      if t.tags.any c.badScan.contains then relayFault (setCore s n { c with relay := { k with runs := dropNth k.runs i } }) n 6 0x04 t
      else
      let s := setCore s n { c with relay := { k with
        runs := dropNth k.runs i
        results := k.results ++ [{ t with lanes := vs.map fun v => ⟨v.res, v.null⟩ }] } }
      settleScan n sig f (if out.isEmpty then s else sendLink s n [carryLink sig ctx out])
    | none =>
      if now ≥ k.localClosed || !(carryDone c) || k.runs.any (fun e => e.1 == now) then s
      else
        let valued := k.solved.filter fun v => v.round == now && !v.null
        let rest := k.carries.filter fun v => v.round == now && !(valued.any fun w => w.tag == v.tag)
        let tags := sortTags (rest.map (·.tag))
        let pass := (passRuns tags.length tags).map fun ts => carryLink sig ctx (ts.filterMap fun g => rest.find? fun v => v.tag == g)
        let others := fun (l : List ScanV) => l.filter fun v => v.round != now
        match tags.find? c.badScan.contains with
        | some g => relayFault (setCore s n { c with relay := { k with carries := others k.carries } }) n 6 0x04
            { bareTok .run 0 0 ctx 0 with tags := [g], lanes := [⟨0, true⟩] }
        | none =>
        let s := setCore s n { c with relay := { k with
          locals := others k.locals, carries := others k.carries, solved := others k.solved
          results := k.results ++ [markTok ctx], sentClosed := now + 1 } }
        settleScan n sig f (sendLink s n (pass ++ [linkMark ctx false]))

/-- The value tokens that nd has taken are consumed once every value of theirs is resolved, so that its flags are set (R67). -/
def payOwed (s : State) (n : Nat) : State :=
  let c := coreAt s n
  if c.relay.runs.isEmpty && c.relay.store.isEmpty then
    setCore s n { c.relay.owed.foldl (fun c p => census c p (-1)) c with relay := { c.relay with owed := [] } }
  else s

/-- Settles the scan that nd holds. -/
def scanSettle (s : State) (n : Nat) : State :=
  let c := coreAt s n
  match scanWord c with
  | some (t, m, _) => payOwed (settleScan n (scanSig t m) (c.relay.runs.length + c.relay.localClosed + 1) s) n
  | none => s

-- nd --------------------------------------------------------------------------------------------------------------

/-- A unit that pairs the two tokens of an `lrec` element: one slot of two inputs over nd's 16 entries (R433). -/
def pairUnit (k : Relay) : FUnit :=
  { FUnit.reset with slots := [(0, { Slot.off with en := true, nst := 1, stages := [0], k0 := 0x800 })], store := k.store }

/-- A value token of `nb.scan` at nd (R433): none when it has to wait for an entry. -/
def takeValue (s : State) (n t m : Nat) (tok : Tok) : Option State :=
  let pair := m = 3 && t = 3
  let c := coreAt s n
  if tok.slot > (if pair then 1 else 0) then some (relayFault s n 6 0x01 tok)
  else if !pair then some (addLocal s n t m [tok])
  else
    let u := pairUnit c.relay
    let one := { tok with slot := 0 }
    if !(storeTakes true u 0 tok.slot one) then none
    else
      let r := matchIn true u 0 tok.slot one
      let s := setCore s n { c with relay := { c.relay with store := r.u.store } }
      match r.bad with
      | some _ => some (relayFault s n 6 0x03 tok)
      | none => some (r.u.ready.foldl (fun s f => addLocal s n t m f.toks) s)

/-- The core with the head of nd's queue taken; a token without flags to come is consumed with that (R67, R430). -/
def popNd (c : Core) (t : Tok) (owes : Bool) : Core :=
  let c := { c with relay := { c.relay with ndq := c.relay.ndq.drop 1, owed := if owes then c.relay.owed ++ [t.place] else c.relay.owed } }
  if t.isMark || owes then c else census c t.place (-1)

/-- The head of nd's queue waits: it belongs to a successor whose predecessor has not retired, so that its token would cross the
link in the predecessor's launch (R427, R453). -/
def ndWaits (c : Core) (t : Tok) : Bool := t.kind != .preempt && successorWaits c t.place

/-- In a save the pre-emption marker goes on past a head of nd's queue that cannot be taken (R439, R459). -/
def passNdMark (s : State) (n : Nat) : State :=
  let c := coreAt s n
  match (if c.saving then findIdx c.relay.ndq fun t => t.kind == .preempt else none) with
  | some i => sendLink (setCore s n { c with relay := { c.relay with ndq := dropNth c.relay.ndq i } }) n [plainLink (preemptTok 0)]
  | none => s

/-- The link downstream of core `n` can take token `t` (R426, R431): none stands on it still, and its beats fit the buffer of the
neighbour's nu; in a save that buffer records what comes (R439). -/
def linkRoom (s : State) (n : Nat) (t : Tok) : Bool :=
  (coreAt s n).relay.linkOut.isEmpty && match chainCore s n 1 with
    | some m => (coreAt s m).saving || qBeats ((coreAt s m).relay.nuBuf.map (·.tok)) + t.beats ≤ 32
    | none => true

/-- `nb.fwd` at nd: the next token of the stitched region goes to the link once the link can take it (R430, R431). -/
def execNbFwd (s : State) : Host.Outcome State Fault Refusal :=
  .next (
    let n := s.core
    let c := cur s
    match c.relay.ndq with
    | [] => s
    | t :: _ =>
      let took := setCur s (popNd c t false)
      if t.kind == .wavefront || ndWaits c t then passNdMark s n
      else if t.kind == .control || t.kind == .ordering then relayFault took n 6 0x01 t
      else if !(linkRoom s n t) then s
      else sendLink took n [if t.kind == .marker then linkMark (fabricCtx c) false else plainLink t])

/-- `nb.scan` at nd: the next token of the stitched region gives local values, or closes the local round (R430, R433). -/
def execNbScan (t : BitVec 3) (_q : BitVec 1) (m : BitVec 3) (s : State) : Host.Outcome State Fault Refusal :=
  .next (
    let n := s.core
    let c := cur s
    let sig := scanSig t.toNat m.toNat
    let settle := fun (s : State) =>
      payOwed (settleScan n sig ((coreAt s n).relay.runs.length + (coreAt s n).relay.localClosed + 1) s) n
    match c.relay.ndq with
    | [] => s
    | tok :: _ =>
      let took := setCur s (popNd c tok false)
      if tok.kind == .wavefront || ndWaits c tok then passNdMark s n
      else if tok.kind == .marker then
        settle (updCore took n fun c => { c with relay := { c.relay with localClosed := c.relay.localClosed + 1 } })
      else if tok.kind == .preempt then sendLink took n [plainLink tok]
      else if tok.kind == .stop then took
      else if !tok.isRun then relayFault took n 6 0x01 tok
      else match takeValue (setCur s (popNd c tok true)) n t.toNat m.toNat tok with
        | some s => settle s
        | none => passNdMark s n)

/-- SCAN_COMBINE: the carry of a tag, or init once no carry can come, meets the local value (R72, R434);
scan state that cannot be read is a memory error (R438). -/
def execScanCombine (tag : Nat) (s : State) : Host.Outcome State Fault Refusal :=
  .next (
    let n := s.core
    let c := cur s
    let k := c.relay
    let now := k.sentClosed
    match scanWord c, k.locals.find? fun v => v.round == now && v.tag == tag && !v.null with
    | some (t, m, sat), some v =>
      if (solvedAt k now tag).isSome then s
      else if c.badScan.contains tag then
        relayFault s n 6 0x04 (((k.runs.find? fun e => e.1 == now && e.2.tags.contains tag).map (·.2)).getD (bareTok .run 0 0 (fabricCtx c) 0))
      else
        let arrived := (k.carries.find? fun x => x.round == now && x.tag == tag).map fun x => (x.a, x.b)
        match (if arrived.isSome then arrived else if carryDone c then some (scanInit c m) else none) with
        | none => s
        | some p =>
          let (o, f) := scanOp t m sat p (v.a, v.b)
          let r : ScanV := { v with a := o.1, b := o.2, res := if scanIncl c then o.2 else p.2 }
          scanSettle (setCur s (raisePlace { c with relay := { k with solved := k.solved ++ [r] } } k.place f)) n
    | _, _ => s)

-- nu --------------------------------------------------------------------------------------------------------------

/-- Region and source that nu feeds. -/
def nuSource (c : Core) : Option (Nat × Nat) :=
  c.regions.findSome? fun e => (findIdx e.2.sources fun q => fedBy e.2 q.ep == some .nu).map fun k => (e.1, k)

/-- nu delivers a token into its region, if the region takes it: a marker closes nu's round (R429). In a save it goes on until
its source has the pre-emption marker (R459). -/
def nuDeliver (c : Core) (t : Tok) : Option Core :=
  match nuSource c with
  | none => none
  | some (r, k) =>
    if (c.saving && preemptMade c r k) || !(sourceTakes { c with saving := false } r k t) then none
    else if t.isMark then some (sourceMark c r k false)
    else some (sourceMake c r k { t with ctx := fabricCtx c })

/-- In a save the pre-emption marker that has come over nu's link goes into the source at once; what stands before it in the buffer
and has not been delivered is channel state of nu (R439, R459). -/
def nuMarker (c : Core) : Option Core :=
  match (if c.saving then findIdx c.relay.nuBuf fun t => t.tok.kind == .preempt else none), nuSource c with
  | some i, some (r, k) =>
    let c' := { c with relay := { c.relay with nuBuf := dropNth c.relay.nuBuf i } }
    some (if preemptMade c r k then c' else updSource c' r k fun q => { q with q := q.q ++ [preemptTok (match mapGet c.regions r with | some g => g.cfg.place | none => 0)] })
  | _, _ => none

/-- The core with the head of nu's buffer taken. -/
def popNu (c : Core) : Core :=
  { c with relay := { c.relay with nuBuf := c.relay.nuBuf.drop 1, taken := c.relay.taken + 1 } }

/-- No marker of the placement is still on its way to nd (R430). -/
def ndMarksGone (c : Core) (p : Nat) : Bool := marksGone c p false && c.relay.ndq.all fun t => t.kind == .wavefront

/-- The nu of a scan core is exhausted (R435); in a save, not behind its pre-emption marker (R459). -/
def nuEnds (c : Core) : Option (Nat × Nat) :=
  (nuSource c).bind fun e => (mapGet c.regions e.1).bind fun g =>
    let others := (List.range g.sources.length).all fun i =>
      i == e.2 || (match g.sources[i]? with | some q => q.done && q.q.isEmpty | none => true)
    if others && g.census = 0 && ndMarksGone c g.cfg.place && ndIdle c.relay && (c.relay.endSeen || chainHead c) &&
        sourceFree c e.1 e.2 then some e else none

/-- The place of the link buffer that holds nu's next entry has an uncorrectable error (R98, R438): its 32 places fill in
turn. -/
def linkBad (c : Core) : Bool := c.badLink.contains (c.relay.taken % 32)

/-- A link entry at the nu of a scan core (R434, R435); one that cannot be read is lost (R438). -/
def scanArrive (s : State) (n sig : Nat) (e : LinkTok) : State :=
  let took := updCore s n popNu
  let c := coreAt took n
  let k := c.relay
  if linkBad (coreAt s n) then relayFault took n 5 0x04 e.tok
  else if e.last then setCore took n { c with relay := { k with endSeen := true } }
  else if e.tok.kind == .marker then
    scanSettle (setCore took n { c with relay := { k with carryClosed := k.carryClosed + 1 } }) n
  else if e.carry != some sig then relayFault took n 5 0x02 e.tok
  else
    let vs := (List.range e.tok.tags.length).map fun i =>
      ({ round := k.carryClosed, tag := nthD e.tok.tags i 0, a := nthD e.as i 0, b := (nthD e.tok.lanes i ⟨0, false⟩).v,
         null := false, res := 0 } : ScanV)
    setCore took n { c with relay := { k with carries := k.carries ++ vs } }

/-- nu takes the next entry of its link, or ends: on a core that holds `nb.scan` an entry goes to the scan until the end mark
has come; on any other it goes into the region (R429, R435, R439). -/
def nuTake (s : State) (n : Nat) (scan : Option Nat) : State :=
  let c := coreAt s n
  match scan, c.relay.nuBuf with
  | some sig, e :: _ =>
    if !c.relay.endSeen then scanArrive s n sig e
    else (match nuEnds c with | some q => setCore s n (closeSource c q.1 q.2) | none => s)
  | some _, [] => (match nuEnds c with | some q => setCore s n (closeSource c q.1 q.2) | none => s)
  | none, [] => s
  | none, e :: _ =>
    let took := popNu c
    if linkBad c then relayFault (setCore s n took) n 5 0x04 e.tok
    else if e.carry.isSome then relayFault (setCore s n took) n 5 0x02 e.tok
    else if e.last then
      (match nuSource took with
       | some (r, k) => if sourceTakes took r k e.tok then setCore s n (closeSource took r k) else s
       | none => s)
    else match nuDeliver took e.tok with
      | some c => setCore s n c
      | none => s

/-- The region stitched to nu belongs to a successor whose predecessor has not retired: what stands in nu's buffer is of the
predecessor's launch and does not enter it (R427, R453). -/
def nuWaits (c : Core) : Bool :=
  (nuSource c).any fun q => (mapGet c.regions q.1).any fun g => successorWaits c g.cfg.place

/-- NU_RECEIVE: nu makes what its first stitch still owes, delivers a result of the scan, or takes the next entry from its link, or
ends (R429, R432, R434, R435). Where no region is stitched to nu, entries wait (R429). -/
def execNuReceive (s : State) : Host.Outcome State Fault Refusal :=
  .next (
    let n := s.core
    let c := cur s
    let scan := (scanWord c).map fun w => scanSig w.1 w.2.1
    if (nuSource c).isNone then s
    else match nuMarker c with
    | some c => setCur s c
    | none =>
    if nuWaits c then s
    else if c.relay.nuDue then
      (match nuSource c with | some q => setCur s (nuFirst c (fabricCtx c) q.1 q.2) | none => s)
    else match scan, c.relay.results with
      | some _, x :: rest =>
        (match nuDeliver c x with
         | some c => setCur s { c with relay := { c.relay with results := rest } }
         | none => nuTake s n scan)
      | _, _ => nuTake s n scan)

-- the end of nd's region ------------------------------------------------------------------------------------------

/-- The region that is stitched to nd. -/
def ndRegion (c : Core) : Option Region := (c.regions.find? fun e => e.2.stitches.any fun x => x.2 == .nd).map (·.2)

/-- ND_END_MARK: at phase end with every source exhausted, nd sends one end mark (R430). -/
def execNdEndMark (s : State) : Host.Outcome State Fault Refusal :=
  .next (
    let c := cur s
    match ndRegion c with
    | none => s
    | some g =>
      if c.relay.endSent || successorWaits c g.cfg.place || g.phase == .splicing || !(atPhaseEnd g) || !(g.sources.all fun q => q.q.isEmpty) || !(ndMarksGone c g.cfg.place) || !(ndIdle c.relay) then s
      else sendLink (setCur s { c with relay := { c.relay with endSent := true } }) s.core [linkMark (fabricCtx c) true])

-- nb.drain --------------------------------------------------------------------------------------------------------

/-- An accepted `nb.drain` notes what nd has sent for its cohort (R437). -/
def runRelay (s : State) (n : Nat) (m : Cmd) : State :=
  let c := coreAt s n
  let mine := (cmdCohort c m).map (·.launch) == (fabricCohort c).map (·.launch)
  updCmd s n m.id fun m => { m with value := if mine then BitVec.ofNat 64 c.relay.ndSent else 0 }

/-- Core `k` still has a cohort of launch `l` to run, or runs one. -/
def launchHere (s : State) (k l : Nat) : Bool :=
  ([(coreAt s k).coh, (coreAt s k).prev].any fun h => h.any fun h => h.launch == l) || !(linkGone s l k)

/-- It is done once nu downstream has taken that much for the launch, or the cohort there is gone; a core without a neighbour
has sent nothing (R437). -/
def pollRelay (s : State) (n : Nat) (m : Cmd) : State :=
  match chainCore s n 1, cmdCohort (coreAt s n) m with
  | some k, some h =>
    let d := coreAt s k
    let taken := if (fabricCohort d).any fun a => a.launch == h.launch then d.relay.taken else 0
    if m.value.toNat ≤ taken || !(launchHere s k h.launch) then finishCmd s n m.id else s
  | _, _ => finishCmd s n m.id

end Sys2Proof.Machine
end

