-- ==== Sys2Proof/Machine/Save.lean ====
section
/-! DEFINITION. Saving a context (R161, R443, R459 to R464): the markers that begin a save, the save of sites, sequencer and
cores, and the save area: token headers and channel records (R119, R120, R463), the sections of a core block (R462), the wake
list (R464). What R462 calls device layout stands in the context (log entry 22). -/

namespace Sys2Proof.Machine

/-- Cores that hold a cohort of context `x`. -/
def ctxCores (s : State) (x : Nat) : List Nat := (s.cores.filter fun e => holdsCohort e.2 fun h => h.ctx == x).map (·.1)
/-- A cohort of the core has ended fatally. -/
def coreFatal (c : Core) : Bool := holdsCohort c (·.fatal)

/-- A core without a cohort (R453): flag sets (R66), scratchpad contents and error marks stay; every unit is as at reset. -/
def freedCore (c : Core) : Core :=
  { Core.reset with
    flags := c.flags, scratch := c.scratch, badScratch := c.badScratch, badTile := c.badTile, badWeight := c.badWeight,
    badBank := c.badBank, badLink := c.badLink, badScan := c.badScan, seq := { Seq.reset with cycle := c.seq.cycle } }

/-- The state of context `x` once its last resident cohort has gone (R443): IDLE, or SAVED after a save. -/
def settleCtx (s : State) (x : Nat) : State :=
  let k := ctxAt s x
  if !(ctxCores s x).isEmpty then s
  else match k.st with
    | .running =>
      if s.launches.any fun l => l.ctx == x && l.live ≠ 0 then s else setCtx s x { k with st := .idle }
    | .saving =>
      if k.saved.isEmpty then setCtx s x { k with st := .idle }
      else setCtx { s with nextId := s.nextId + 1 } x { k with st := .saved, order := s.nextId }
    | _ => s

-- the save area (R462 to R464) ------------------------------------------------------------------------------------

/-- Bytes of a core block. -/
def blockBytes : Nat := 5312 * 1024
/-- Bytes of a save area with `n` core blocks (R462). -/
def saveBytes (n : Nat) : Nat := 65536 + n * blockBytes
/-- Base of core block `k` of the save area at `a`. -/
def blockBase (a k : Nat) : Nat := a + 65536 + k * blockBytes

/-- MODEL and STEPPING of SQ_FEAT (R140). -/
def deviceModel : Nat := 1

/-- Kind codes of R119. -/
def kindCode : TokKind → Nat
  | .run => 0 | .packed => 1 | .marker => 2 | .stop => 3 | .control => 4 | .preempt => 5 | .wavefront => 6 | .ordering => 7

/-- The data words of a token: a run's lane values; of an ordering token the tags in use (R199); of a control token beat 0. -/
def tokWords (t : Tok) : List W32 :=
  match t.kind with
  | .ordering => t.tags.map fun a => BitVec.ofNat 32 (a % 4096 + 2 ^ 31)
  | .run => t.lanes.map (·.v)
  | .packed => t.lanes.map (·.v)
  | .control => (t.lanes.map (·.v)).take 16
  | _ => []

/-- The header of a token (R119). -/
def tokHeader (t : Tok) : Word :=
  let n := (tokWords t).length
  BitVec.ofNat 64 (kindCode t.kind * 2 ^ 61 + t.slot % 8 * 2 ^ 58 + t.round.toNat * 2 ^ 50 +
    (if t.kind == .run then t.base % 4096 * 2 ^ 38 else 0) + (if t.isRun then t.tags.length % 64 * 2 ^ 32 else 0) +
    (if t.kind == .stop then t.level % 16 * 2 ^ 28 else 0) + t.frame.toNat * 2 ^ 20 + t.ctx % 64 * 2 ^ 14 +
    (if n > 16 then 3 else if n > 0 then 1 else 0) * 2 ^ 12)

/-- The bytes of a beat: sixteen words, zero where the list ends. -/
def beatBytes (ws : List W32) : List Byte := (List.range 16).flatMap fun i => leBytes 4 (nthD ws i 0).toNat
/-- The header beat of a packed run (R199): entry j and entry j + 16 in lane j. -/
def headerBeat (tags : List Nat) : List Byte :=
  beatBytes ((List.range 16).map fun j => BitVec.ofNat 32 (nthD tags j 0 % 4096 + nthD tags (j + 16) 0 % 4096 * 2 ^ 16))
/-- The null bits of beat `b`. -/
def nullBits (t : Tok) (b : Nat) : Nat :=
  ((List.range 16).map fun i => if (t.lanes[16 * b + i]?).any (·.null) then 2 ^ i else 0).sum

/-- A channel record (R463): header, receiving unit with its position and port, null bits, beats. -/
def channelRecord (unit pos port : Nat) (t : Tok) : List Byte :=
  let ws := tokWords t
  let nb := (if ws.length > 16 then 2 else if ws.length > 0 then 1 else 0) + if t.kind == .packed then 1 else 0
  leBytes 8 (tokHeader t).toNat ++
  leBytes 8 (unit % 16 + pos % 64 * 2 ^ 4 + port % 8 * 2 ^ 10 + nb * 2 ^ 16 + nullBits t 0 * 2 ^ 32 + nullBits t 1 * 2 ^ 48) ++
  (if t.kind == .packed then headerBeat t.tags else []) ++
  (if ws.length > 0 then beatBytes ws else []) ++ (if ws.length > 16 then beatBytes (ws.drop 16) else [])

/-- The tokens of a core that a save keeps as channel state, each with UNIT, POS and PORT of its input, in arrival order at
every input: held control tokens, what waits at input registers, queues (R253, R329, R377, R460, R463; log entry 79 has the codes
of edge units). Pre-emption markers are none of them. -/
def channelToks (c : Core) : List (Nat × Nat × Nat × Tok) :=
  let unit := fun (k pos : Nat) (u : FUnit) =>
    (u.side.map fun e => (k, pos, e.1, e.2)) ++ (u.unitq.map fun q => (k, pos, (u.slot q.slot).inPort q.inp, q.tok)) ++
    (u.inq.flatMap fun e => e.2.map fun t => (k, pos, e.1, t)) ++ u.out.map fun e => (k, pos, e.1, e.2)
  let exit := fun (i : Nat) (u : FUnit) =>
    ((u.ready.flatMap (·.toks)) ++ u.store.map (·.tok) ++ u.queue 0).map fun t => (8, 0, i, t)
  let all : List (Nat × Nat × Nat × Tok) :=
  (c.sites.flatMap fun e => unit 1 (e.1 % 8 + 8 * (e.1 / 8)) e.2) ++ (c.nodes.flatMap fun e => unit 2 e.1 e.2.u) ++
  (c.regions.flatMap fun e => e.2.sources.flatMap fun q =>
    let a := edgeSite e.2.cfg q.ep
    q.q.map fun t => (1, a.1 + 8 * a.2.1, a.2.2, t)) ++
  (c.ports.flatMap fun e => (e.2.q ++ e.2.outq).map fun t => (4, e.1, 0, t)) ++
  (c.gens.flatMap fun e => if e.2.fn = 6 then
      (e.2.q.map fun t => (4, nthD e.2.ports 0 0, 0, t)) ++ e.2.q2.map fun t => (4, nthD e.2.ports 1 0, 0, t)
    else e.2.ports.flatMap fun x => e.2.q.map fun t => (4, x, 0, t)) ++
  (c.mx.ports.flatMap fun e => e.2.map fun t => (3, e.1, 3, t)) ++
  (c.bs.exits.flatMap fun e => exit e.1 e.2) ++
  (c.relay.nuBuf.map fun t => (5, 0, 1, t.tok)) ++ (c.relay.ndq.map fun t => (6, 0, 1, t)) ++
  c.relay.linkOut.map fun t => (6, 0, 3, t.tok)
  all.filter fun e => e.2.2.2.kind != .preempt

/-- The channel state of a core: its records, ended by a zero double. -/
def channelBytes (c : Core) : List Byte :=
  ((channelToks c).flatMap fun e => channelRecord e.1 e.2.1 e.2.2.1 e.2.2.2) ++ List.replicate 8 0

/-- Live values a thread of the core's cohort has, at most 256 (R447). -/
def liveOf (c : Core) : Nat := match fabricCohort c with | some h => 8 * min 32 h.live | none => 0
/-- The live-value section: lv(t, v) at 4·(t·L + v) for L live values a thread (log entry 79). -/
def liveSection (live : Nat) (m : Mem) : Mem :=
  (m.filter fun e => e.1 / 4 % 256 < live).map fun e => (4 * (e.1 / 1024 * live + e.1 / 4 % 256) + e.1 % 4, e.2)
/-- The live-value store that a section holds. -/
def liveStore (live : Nat) (m : Mem) : Mem :=
  if live = 0 then [] else m.map fun e => (4 * (e.1 / 4 / live * 256 + e.1 / 4 % live) + e.1 % 4, e.2)
/-- The predicate section: entry i of thread t is bit i of sixteen bytes at 16·t (log entry 79). -/
def predSection (m : Mem) : Mem :=
  m.foldl (fun a e => memPut a (e.1 / 8) (memGet a (e.1 / 8) ||| (1#8 <<< (e.1 % 8)))) []
/-- The predicate file that a section holds. -/
def predFile (m : Mem) : Mem :=
  m.flatMap fun e => (List.range 8).filterMap fun i => if e.2.getLsbD i then some (8 * e.1 + i, (1 : Byte)) else none

/-- Memory with the core block at `a` written from a core (R462). -/
def writeBlock (m : Mem) (a : Nat) (c : Core) : Mem :=
  let m := memSection m (a + 0x040000) 0xC0000 (bytesMem 0 (channelBytes c))
  let m := memSection m (a + 0x100000) 0x100000 (liveSection (liveOf c) c.lv)
  let m := memSection m (a + 0x200000) 0x10000 (predSection c.pfile)
  let m := memSection m (a + 0x210000) 0x120000 c.scratch
  let m := memSection m (a + 0x330000) 0x100000 c.mx.tile
  memSection m (a + 0x430000) 0x100000 c.mx.weight

/-- A core with the stores of the core block at `a` (R462, R467). -/
def readBlock (m : Mem) (a : Nat) (c : Core) : Core :=
  { c with
    lv := liveStore (liveOf c) (memPart m (a + 0x100000) 0x100000)
    pfile := predFile (memPart m (a + 0x200000) 0x10000)
    scratch := memPart m (a + 0x210000) 0x120000
    mx := { c.mx with tile := memPart m (a + 0x330000) 0x100000, weight := memPart m (a + 0x430000) 0x100000 } }

/-- The check of R120 on a saved header and, for a packed run, its tag list: a run of no thread or of more than 32, two tags
equal modulo 32, or a res0 bit of the 64-bit header; other reserved bits of a record are ignored (log entry 86). -/
def headerBad (h : Word) (tags : List Nat) : Bool :=
  let kind := h.toNat / 2 ^ 61
  let len := h.toNat / 2 ^ 32 % 64
  (kind ≤ 1 && (len = 0 || len > 32)) || (kind = 1 && !decide ((tags.take len).map (· % 32)).Nodup) || h.toNat % 2 ^ 12 ≠ 0

/-- The tag list of a header beat at `a`; its reserved bits and the entries past the run's length are ignored (log entry 86). -/
def beatTags (m : Mem) (a : Nat) : List Nat :=
  (List.range 32).map fun j => if j < 16 then memNat m (a + 4 * j) 4 % 4096 else memNat m (a + 4 * (j - 16)) 4 / 2 ^ 16 % 4096

/-- Some record of the channel state from `a` on has a bad header (R120); bits [15:13] of its second word and the reserved bits of
an ordering token are ignored (log entry 86). -/
def channelsBad (m : Mem) : Nat → Nat → Bool
  | 0, _ => false
  | f + 1, a =>
    let h : Word := BitVec.ofNat 64 (memNat m a 8)
    if h = 0 then false
    else headerBad h (beatTags m (a + 16)) || channelsBad m f (a + 16 + 64 * (memNat m (a + 10) 2))

-- beginning a save ------------------------------------------------------------------------------------------------

/-- The nu of core `n` gets its marker over its link: the core before it in its chain sends there (R459). -/
def linkFed (s : State) (n : Nat) : Bool :=
  match chainCore s n (-1) with
  | some k =>
    (match fabricCohort (coreAt s k), fabricCohort (coreAt s n) with
     | some a, some b => a.launch == b.launch && !a.fatal
     | _, _ => false) && (ndRegion (coreAt s k)).isSome
  | none => false

/-- Source `q` of region `g` makes its own marker (R459); one that another region or a link feeds passes theirs on. -/
def makesMarker (c : Core) (fed : Bool) (g : Region) (q : Source) : Bool :=
  match fedBy g q.ep with
  | some (.region h ep) =>
    (match mapGet c.regions h with
     | some up => let a := edgeSite up.cfg ep; !(usesOut (siteAt c a.1 a.2.1) a.2.2)
     | none => true)
  | some .nu => !fed
  | _ => true

/-- A save begins on one core: its sources make their markers (R459). -/
def beginSaveCore (fed : Bool) (c : Core) : Core :=
  let mark := fun (g : Region) (q : Source) =>
    if makesMarker c fed g q then { q with q := q.q ++ [preemptTok g.cfg.place] } else q
  let rs := c.regions.map fun e => (e.1, { e.2 with sources := e.2.sources.map (mark e.2) })
  { c with saving := true, seqSaved := false, quiet := false, regions := rs, relay := { c.relay with nuMarked := false } }

/-- Launches of context `x` that have cohorts, in order of acceptance. -/
def liveLaunches (s : State) (x : Nat) : List Launch := s.launches.filter fun l => l.ctx == x && l.live ≠ 0

/-- The live cohorts of context `x`, each as its launch and its core, in the order in which they take core blocks: launches as
accepted, then DG, CG and COH (R462). -/
def blockOrder (s : State) (x : Nat) : List (Nat × Nat) :=
  (liveLaunches s x).flatMap fun l =>
    (l.cores.filter fun n => holdsCohort (coreAt s n) fun h => h.launch == l.id).map fun n => (l.id, n)

/-- The core block of core `n`: that of its cohort, or of the later one of a chained start. -/
def blockOf (s : State) (x n : Nat) : Nat :=
  (findIdx (blockOrder s x) fun e => e.2 == n && (coreAt s n).coh.any fun h => h.launch == e.1).getD 0

/-- A save of a RUNNING context begins (R459): its live cohorts take core blocks, and its wake list is empty. -/
def beginSave (s : State) (x : Nat) : State :=
  let k := ctxAt s x
  if k.st != .running then s
  else
    let t := setCtx { s with mem := memSection s.mem k.save 65536 [] } x { k with st := .saving, saved := [], wakes := [] }
    (ctxCores s x).foldl (fun t n => updCore t n fun c => { beginSaveCore (linkFed s n) c with block := blockOf s x n }) t

-- sites -----------------------------------------------------------------------------------------------------------

/-- A flight that a save keeps as it stands: queued at a buffer's home (R281), or a fence that waits. -/
def keptFlight (c : Core) (f : Flight) : Bool :=
  (c.fences.any fun w => w.flight == f.id) || c.cbs.any fun b => b.2.prod.contains f.id || b.2.cons.contains f.id

/-- The token at output `p` cannot leave, because nothing is stitched there (R177). -/
def outStuck (c : Core) (g : Config) (x y p : Nat) : Bool :=
  match linkDest g x y p with
  | .edge m => ((regionOfPlace c g.place).bind fun r => (mapGet c.regions r).bind fun h => mapGet h.stitches m).isNone
  | _ => false

/-- The token at the input register of a slot can be taken: matched, accumulated, or handled as a stop token. -/
def regTakes (c : Core) (x y : Nat) (q : Waiting) : Bool :=
  let u := siteAt c x y
  let busy := (u.store.any fun w => w.slot == q.slot && w.inp == q.inp) || (u.ready.any fun f => f.slot == q.slot) ||
    c.flights.any fun f => f.unit == .site x y && f.slot == q.slot
  if q.tok.isData then !heldByControl u q else q.tok.kind == .stop && !busy && resultSpace c (.site x y) q.slot

/-- The copy `o` of a token that came on port `i` cannot go where it should, and will not before the save: an unstitched edge
port is full, the input register holds a token that waits, or the matching store is full (R177, R460). -/
def copyStuck (c : Core) (g : Config) (x y i : Nat) (o : Nat × Tok) : Bool :=
  let u := siteAt c x y
  match o.1 with
  | 4 =>
    (match localInput u o.2.slot i with
     | some k => (u.unitq.any fun q => q.slot == o.2.slot && q.inp == k && !regTakes c x y q) || !(storeTakes false u o.2.slot k o.2)
     | none => false)
  | 5 => !(portFree u i o)
  | p => (mapGet u.out p).isSome && outStuck c g x y p

/-- The token that word `w` of slot `n` would take at input `i` cannot move before the save (R460): a copy is stuck, or it
waits at a `sw.bound` for an access that is parked. -/
def headStuck (c : Core) (g : Config) (x y n : Nat) (w : Instr) (i : Nat) : Bool :=
  let u := siteAt c x y
  match headOf c u n w i with
  | none => false
  | some (ch, t) =>
    let side := if ch < 16 then ch else sourceSide c u (ch - 16)
    ((wordActs n w 0 i t).1.any fun o => !(u.sent.contains (sentKey ch n, o.1)) && copyStuck c g x y side o) ||
    (match w with | .swBound _ _ _ _ => parkedLane c t.tags fun _ => true | _ => false)

/-- The pre-emption marker has arrived on link `p`: taken there, or behind a wavefront or a token that the site cannot
accept (R44, R460). -/
def preemptOn (c : Core) (g : Config) (x y p : Nat) : Bool :=
  let u := siteAt c x y
  (u.marks.any fun m => m.kind == .preempt && m.chan == p) ||
  (((u.queue p).any fun t => t.kind == .preempt) &&
    ((u.marks.any fun m => m.kind == .wavefront && m.chan == p) ||
     match (u.queue p).head?.bind fun t => (u.wordFor t.slot p).map fun w => (t.slot, w) with
     | some (n, w) => headStuck c g x y n w p
     | none => false))

/-- The marker has come to source `k` that word `w` of slot `n` takes from. -/
def preemptAtSource (c : Core) (g : Config) (x y n : Nat) (w : Instr) (k : Nat) : Bool :=
  let u := siteAt c x y
  match srcOf c u k with
  | some (_, q) =>
    (u.marks.any fun m => m.kind == .preempt && m.chan == 16 + k) ||
    ((q.q.any fun t => t.kind == .preempt) &&
      ((u.marks.any fun m => m.kind == .wavefront && m.chan == 16 + k) || headStuck c g x y n w 0))
  | none => true

/-- Markers have arrived on every forward input of site (x, y). -/
def forwardMarked (c : Core) (g : Config) (x y : Nat) : Bool :=
  let u := siteAt c x y
  ([0, 1, 2, 3].all fun p => !(forwardInput c x y p) || preemptOn c g x y p) &&
  u.words.all fun e => match wordSource e.2 with | some k => preemptAtSource c g x y e.1 e.2 k | none => true

/-- Site (x, y) has no work left that a save waits for (R234, R253, R460): no set that can start, no token at an input
register that can be taken, no result that can leave, no control token that is due, no access under way. -/
def siteSettled (c : Core) (g : Config) (x y : Nat) : Bool :=
  let u := siteAt c x y
  (readySlots c (.site x y)).isEmpty && !(u.unitq.any (regTakes c x y)) &&
  (u.words.all fun e => !((wordIns e.2).contains 4) || !((u.headFor 4 e.1).any fun t => !t.isMark) || headStuck c g x y e.1 e.2 4) &&
  !((List.range u.side.length).any fun i => (u.side[i]?).any fun e =>
      findIdx u.side (fun z => z.1 == e.1) == some i &&
      (!pendingFrom u ((ctlWord e.2).toNat % 8) e.1 || ctlBad u (ctlWord e.2))) &&
  !(c.flights.any fun f => f.unit == .site x y && !(keptFlight c f))

/-- SITE_SAVE (R460): with markers on every forward input and its started runs finished, the site saves and sends a marker on
each output that its words use. -/
def execSiteSave (x y : Nat) (s : State) : Host.Outcome State Fault Refusal :=
  if !(x < 8 && y < 6) then .fault .noSuchUnit
  else .next (
    let c := cur s
    let u := siteAt c x y
    match cfgOfPlace c u.place with
    | none => s
    | some g =>
      let outs := [0, 1, 2, 3].filter (usesOut u)
      if !c.saving || u.saved || u.marks.contains goneMark || !(forwardMarked c g x y) || !(siteSettled c g x y) ||
          !(outs.all fun p => (mapGet u.out p).isNone || outStuck c g x y p) then s
      else
        let out := outs.foldl (fun o p => if (mapGet o p).isSome then o else mapSet o p (preemptTok u.place)) u.out
        setCur s (setSite c x y { u with out := out, saved := true }))

-- sequencer and core ----------------------------------------------------------------------------------------------

/-- SEQUENCER_SAVE (R161): once every command has written rd, the sequencer stops at an instruction boundary. -/
def execSequencerSave (s : State) : Host.Outcome State Fault Refusal :=
  .next (
    let c := cur s
    let q := c.seq
    if !c.saving || c.seqSaved || q.st == .dead || q.st == .idle || q.st == .saved ||
        (c.cmds.any fun m => m.rdWait && !(c.bs.demand.contains m.id)) then s
    else setCur s { c with seqSaved := true, seq := { q with st := .saved, held := q.st } })

-- retirement (R35) ------------------------------------------------------------------------------------------------

/-- A parked fault is the predecessor's in a chained start. -/
def parkedPrev (c : Core) (p : Parked) : Bool :=
  let ids := (c.cmds.filter (·.prev)).map (·.id)
  match p.who with
  | .sequencer => false
  | .command i => ids.contains i
  | .generator g => ids.contains (genAt c g).cmd
  | _ => true

/-- A flight works for launch `l`. -/
def flightOf (c : Core) (l : Nat) (f : Flight) : Bool :=
  match cfgOfPlace c (firePlace f.fire) with | some g => g.launch == l | none => true

/-- nd has sent all that it still has to send for cohort `h`, the end mark of its region included (R430; log entry 8). -/
def ndQuiet (c : Core) (h : Cohort) : Bool :=
  c.relay.linkOut.isEmpty &&
  match c.regions.find? fun e => e.2.stitches.any fun x => x.2 == .nd with
  | some (_, g) => g.cfg.launch != h.launch || (c.relay.endSent && c.relay.ndq.isEmpty)
  | none => true

/-- Cohort `h` of the core may retire: every condition of R35, and nd has nothing left to send. -/
def mayRetire (c : Core) (h : Cohort) : Bool :=
  let prev := c.prev.isSome
  c.bs.waiting.isEmpty && c.bs.barred.isEmpty && c.bs.watch.isEmpty && c.bs.turn.isNone &&
  c.regions.all (fun e => e.2.cfg.launch != h.launch || atPhaseEnd e.2) &&
  !(c.cmds.any fun m => m.prev == prev && (m.rdWait || m.pen.isSome)) && !(c.flights.any (flightOf c h.launch)) &&
  c.parked.all (fun p => prev && !(parkedPrev c p)) &&
  (prev || c.seq.st == .done || (c.seq.st == .saved && c.seq.held == .done)) && ndQuiet c h

-- a core has saved ------------------------------------------------------------------------------------------------

/-- Every site of the core has saved (R460). -/
def sitesSaved (c : Core) : Bool :=
  c.regions.all fun e => (regionCfgs e.2).all fun g => (rectSites g).all fun p =>
    let u := siteAt c p.1 p.2
    u.saved || u.marks.contains goneMark || u.place = 0

/-- A pre-emption marker of the core still stands at an output or at nd, so that it has not come to the unit or the core that it is
for (R439, R460). -/
def markerLeft (c : Core) : Bool :=
  (c.relay.ndq.any fun t => t.kind == .preempt) || c.sites.any fun e => e.2.out.any fun o => o.2.kind == .preempt &&
    !((cfgOfPlace c o.2.place).any fun g => outStuck c g (e.1 % 8) (e.1 / 8) o.1)

/-- Every unit of a core has come to its save, and none makes an access any more: sites, holding units, memory nodes, matrix engine,
streams, capacity commands, sequencer (R161, R281, R304, R329, R354, R425, R460). -/
def unitsSaved (c : Core) : Bool :=
  sitesSaved c && c.flights.all (keptFlight c) && c.hold.all (fun e => e.2.isEmpty) &&
  c.nodes.all (fun e => e.2.compare.isEmpty && e.2.cross.isEmpty) && c.mx.running.isNone &&
  c.gens.all (fun e => !e.2.waitAck && (!(isStore e.2) || e.2.q.isEmpty || e.2.st == .parked)) && c.caps.all (fun k => !k.begun) &&
  c.seqSaved && c.unstored.isNone

/-- Core `n` has no access of a cluster peer still to perform in its scratchpad (R99, R264, R281): in each other core of its cluster
that saves a cohort of the same launch, every unit has come to its save, its sequencer and its streams included. -/
def peersDone (s : State) (n : Nat) : Bool :=
  (List.range 4).all fun r =>
    let d := coreAt s (peer n r)
    peer n r = n || !d.saving || coreFatal d || (fabricCohort d).map (·.launch) != (fabricCohort (coreAt s n)).map (·.launch) ||
      unitsSaved d

/-- Nothing stands on the link into core `n` any more: it is recorded at nu (R439). -/
def linkDrained (s : State) (n : Nat) : Bool :=
  match chainCore s n (-1) with
  | some k =>
    (coreAt s k).relay.linkOut.isEmpty || (fabricCohort (coreAt s k)).map (·.launch) != (fabricCohort (coreAt s n)).map (·.launch)
  | none => true

/-- Every unit of core `n` has come to its save (R281, R304, R329, R354, R377, R425, R439, R460): what its neighbours in the
chain send it before their markers has arrived, and what it sends has left. -/
def coreQuietToSave (s : State) (n : Nat) : Bool :=
  let c := coreAt s n
  unitsSaved { c with unstored := none } && peersDone s n && !(markerLeft c) && (!(linkFed s n) || c.relay.nuMarked) && linkDrained s n && (c.relay.linkOut.isEmpty || (chainCore s n 1).isNone)

/-- CORE_SAVED (R461, R99): once every unit of the core has come to its save and the loader has reported the core quiescent (R192),
the banks are emptied, the core's state is written to its core block and the core is free. -/
def execCoreSaved (s : State) : Host.Outcome State Fault Refusal :=
  .next (
    let n := s.core
    let c := cur s
    match fabricCohort c with
    | none => s
    | some h =>
      if !c.saving || coreFatal c || !c.quiet || !(coreQuietToSave s n) then s
      else
        let s := emptyBanks (performStore s n) n
        let c := coreAt s n
        let x := ctxAt s h.ctx
        if coreFatal c then s
        else
          let s := { s with mem := writeBlock s.mem (blockBase x.save c.block) c }
          let v : SavedCore := { core := c, old := n, model := deviceModel }
          settleCtx (setCore (setCtx s h.ctx { x with saved := x.saved ++ [v] }) n (freedCore c)) h.ctx)

end Sys2Proof.Machine
end

