-- ==== Sys2Proof/Machine/Launch.lean ====
section
/-! DEFINITION. The launch unit (R31, R32, R445 to R457): queues, launch records, dependences, the choice and the start of
launches, retirement and completion, the fault ring. -/

namespace Sys2Proof.Machine

-- launch records (R447) -------------------------------------------------------------------------------------------

/-- NDG. -/
def lNdg (r : List Word) : Nat := rfld r 0 16 5
/-- NCG. -/
def lNcg (r : List Word) : Nat := rfld r 0 21 3
/-- NCOH. -/
def lNcoh (r : List Word) : Nat := rfld r 0 24 3
/-- CHAIN. -/
def lChain (r : List Word) : Bool := rfld r 0 8 1 == 1
/-- NDEP. -/
def lNdep (r : List Word) : Nat := rfld r 0 10 2
/-- NTHR. -/
def lNthr (r : List Word) : Nat := rfld r 0 32 13
/-- LIVE. -/
def lLive (r : List Word) : Nat := rfld r 0 48 6
/-- LID. -/
def lLid (r : List Word) : W32 := BitVec.ofNat 32 (rfld r 6 0 32)
/-- Cores of the launch. -/
def lCores (r : List Word) : Nat := lNdg r * (lNcg r * lNcoh r)
/-- Die `d` may hold a die group. -/
def lDie (r : List Word) (d : Nat) : Bool := rfld r 7 0 16 == 0 || (nthD r 7 0).getLsbD d
/-- An address is canonical and aligned. -/
def addrOk (a : Word) (align : Nat) : Bool := canonical a && a.toNat % align == 0

/-- The words of dependence `i` keep R447; those beyond NDEP are res0. -/
def depOk (r : List Word) (i : Nat) : Bool :=
  let a := nthD r (8 + 3 * i) 0; let k := nthD r (10 + 3 * i) 0
  if i < lNdep r then addrOk a (if k.getLsbD 3 then 8 else 4) && k.toNat < 16 && k.toNat % 8 ≤ 5
  else a == 0 && nthD r (9 + 3 * i) 0 == 0 && k == 0

/-- Cause 0x01 of R448 does not hold. -/
def recordOk (r : List Word) : Bool :=
  rfld r 0 0 8 == 1 && lNdep r ≤ 2 && rfld r 0 12 4 == 0 && 1 ≤ lNdg r && lNdg r ≤ 16 && 1 ≤ lNcg r && lNcg r ≤ 6 &&
  1 ≤ lNcoh r && lNcoh r ≤ 4 && rfld r 0 27 5 == 0 && 1 ≤ lNthr r && lNthr r ≤ 4096 && rfld r 0 45 3 == 0 &&
  1 ≤ lLive r && lLive r ≤ 32 && rfld r 0 54 10 == 0 && addrOk (nthD r 1 0) 4 && canonical (nthD r 2 0) &&
  addrOk (nthD r 3 0) 64 && addrOk (nthD r 4 0) 64 && addrOk (nthD r 5 0) 16 && (rfld r 0 9 1 == 1 || rfld r 6 32 32 == 0) &&
  rfld r 7 16 48 == 0 && depOk r 0 && depOk r 1 && nthD r 14 0 == 0 && nthD r 15 0 == 0

/-- The launch can never fit a context with `nblk` core blocks (R448). -/
def neverFits (r : List Word) (nblk : Nat) : Bool :=
  decide (((List.range 16).filter (lDie r)).length < lNdg r) || (lChain r && lNcg r > 1 && lNcoh r < 4) || decide (lCores r > nblk)

/-- A window record keeps its map (R267). -/
def windowOk (w : Word) : Bool := rfld [w] 0 0 3 == 0 && rfld [w] 0 21 3 == 0 && rfld [w] 0 45 3 == 0 && rfld [w] 0 54 10 == 0
/-- A buffer record keeps R268. -/
def bufferOk (w : Word) : Bool :=
  let n := rfld [w] 0 24 17
  if w.getLsbD 48 then
    rfld [w] 0 0 2 == 0 && rfld [w] 0 21 3 == 0 && rfld [w] 0 41 7 == 0 && rfld [w] 0 49 15 == 0 &&
    1 ≤ n && n ≤ 65536 && w.toNat % 2 ^ 21 + 4 * n ≤ 1179648
  else w == 0

/-- Reads `k` pieces of 64 bytes at a 64-byte aligned virtual address through a context's table (R266, R287). -/
def readTable (s : State) (root : Nat) : Nat → Word → State × Option (List Word)
  | 0, _ => (s, some [])
  | k + 1, va =>
    match translateRoot s root va .read with
    | (s, .error _) => (s, none)
    | (s, .ok pa) =>
      if placeBad s pa 64 then (s, none)
      else
        let ws := wordsOf 8 (memRead s.mem pa 64)
        match readTable s root k (va + 64) with
        | (s, some r) => (s, some (ws ++ r))
        | (s, none) => (s, none)

/-- The tables of a launch: windows, buffers, segments; none when cause 0x04 holds (R448). -/
def readTables (s : State) (root : Nat) (r : List Word) : State × Option (List Word × List Word × List Word) :=
  match readTable s root 3 (nthD r 3 0) with
  | (s, none) => (s, none)
  | (s, some t) =>
    if !((t.take 8).all windowOk && (t.drop 8).all bufferOk) then (s, none)
    else match readTable s root 2 (nthD r 4 0) with
      | (s, none) => (s, none)
      | (s, some g) => if g.all canonical then (s, some (t.take 8, t.drop 8, g)) else (s, none)

/-- Physical address of dependence `i`; none when cause 0x05 holds. -/
def depPa (s : State) (root : Nat) (r : List Word) (i : Nat) : State × Option Nat :=
  match translateRoot s root (nthD r (8 + 3 * i) 0) .read with
  | (s, .ok pa) =>
    let size := if (nthD r (10 + 3 * i) 0).getLsbD 3 then 8 else 4
    (s, if isCap pa || placeBad s pa size then none else some pa)
  | (s, .error _) => (s, none)

-- fault records of the launch unit --------------------------------------------------------------------------------

/-- A record of kind launch (R448, R449). -/
def launchFault (s : State) (ctx q : Nat) (lid : W32) (id : Option Nat) (cause : Nat) (addr : Word) : State :=
  putRecord s ctx lid id { Record.mk' 0x01 0 cause false with sp := q, addr := addr }

/-- Descriptor fields of a queue (R445). -/
def qBase (d : List Word) : Nat := rfld d 0 7 45 * 128
/-- N. -/
def qSize (d : List Word) : Nat := 2 ^ rfld d 1 0 5
/-- CTX. -/
def qCtx (d : List Word) : Nat := rfld d 1 8 6
/-- WEIGHT. -/
def qWeight (d : List Word) : Nat := rfld d 1 16 8
/-- TAIL. -/
def qTail (d : List Word) : Nat := rfld d 2 2 50 * 4
/-- HEADW. -/
def qHeadw (d : List Word) : Nat := rfld d 3 2 50 * 4

/-- The launch unit's watch and wakes of queue `q`. -/
def tailWatch (q : Nat) (e : Watch) : Bool := e.agent == 2 && e.cont == q
/-- Disables queue `q` and removes its watch entry (R446). -/
def disableQueue (s : State) (q : Nat) : State :=
  let s := takeWatches s (tailWatch q)
  setQueue { s with wakes := s.wakes.filter fun w => !tailWatch q w.e } q { queueAt s q with en := false, woken := none }
/-- A queue fault (R446): one record; the queue is disabled. -/
def queueFault (s : State) (q cause : Nat) : State :=
  let d := (queueAt s q).desc
  disableQueue (putRecord s (qCtx d) 0 none { Record.mk' 0x02 0 cause false with sp := q, addr := BitVec.ofNat 64 (qTail d) }) q

/-- Registers the watch on the tail word of queue `q`: not equal to the tail last read (R446). -/
def armQueue (s : State) (q : Nat) : State :=
  let v := queueAt s q
  let e : Watch :=
    { cmp := 1, w := false, scope := 5, agent := 2, ctx := qCtx v.desc, cont := q, tmo := 0, cohort := 0, launch := 0, tb := 0, dead := 0,
      pa := qTail v.desc, opnd := v.seen.setWidth 64, mask := 0, mq := 0 }
  if placeBad s e.pa 4 then queueFault s q 0x02
  else match registerRetry s e with
    | (s, .atOnce t) => setQueue s q { queueAt s q with woken := some (t.setWidth 32) }
    | (s, _) => s

/-- The watch of dependence `i` of a launch: tag 64 + i of the launch unit (log entry 7). -/
def depWatch (l : Launch) (i : Nat) (e : Watch) : Bool :=
  e.agent == 2 && e.ctx == l.ctx && e.launch == l.id && e.cont == 64 + i

/-- Registers dependence `i` at `pa` of a launch; true while it does not hold (R450). -/
def armDep (s : State) (l : Launch) (i pa : Nat) : State × Bool :=
  let k := nthD l.rcd (10 + 3 * i) 0
  let w := k.getLsbD 3
  let x := nthD l.rcd (9 + 3 * i) 0
  let e : Watch :=
    { cmp := k.toNat % 8, w := w, scope := 5, agent := 2, ctx := l.ctx, cont := 64 + i, tmo := 0,
      cohort := 0, launch := l.id, tb := 0, dead := 0, pa := pa, opnd := if w then x else BitVec.ofNat 64 (x.toNat % 2 ^ 32),
      mask := 0, mq := 0 }
  match registerRetry s e with
  | (s, .atOnce _) => (s, false)
  | (s, _) => (s, true)

-- accepting a record (R448, R450) ---------------------------------------------------------------------------------

/-- A launch as its record gives it. -/
def newLaunch (id q ctx : Nat) (r : List Word) (st : LaunchSt) : Launch :=
  { id := id, queue := q, ctx := ctx, rcd := r, st := st, windows := [], bufs := [], segs := [], deps := [], cores := [],
    waiting := [], live := 0, fatal := false, nfault := 0, lastPred := none, predBad := false }

/-- The predecessor of a record of queue `q`: the latest launch accepted earlier whose LID is PLID (R450). -/
def predOf (s : State) (q : Nat) (r : List Word) : Option Nat :=
  if rfld r 0 9 1 = 0 then none
  else (s.launches.reverse.find? fun l =>
    l.queue == q && (l.st == .pending || l.st == .running || l.st == .failed) && (lLid l.rcd).toNat == rfld r 6 32 32).map (·.id)

/-- A refused record: a launch fault; its completion follows, but for cause 0x06 (R448, R449). -/
def refuseLaunch (s : State) (q ctx : Nat) (r : List Word) (cause : Nat) : State :=
  let id := s.nextId
  let s := { s with nextId := id + 1, launches := if cause = 6 then s.launches else s.launches ++ [newLaunch id q ctx r (.refused cause)] }
  launchFault s ctx q (lLid r) (some id) cause 0

/-- The record `r` copied from queue `q`: refused, or appended to the pending list with its dependences registered. -/
def acceptRecord (s : State) (q : Nat) (r : List Word) : State :=
  let ctx := qCtx (queueAt s q).desc
  let x := ctxAt s ctx
  if !(recordOk r) then refuseLaunch s q ctx r 0x01
  else if lNthr r > min 4096 (262144 / (8 * lLive r)) then refuseLaunch s q ctx r 0x02
  else if x.st == .free then refuseLaunch s q ctx r 0x06
  else if neverFits r x.nblk then refuseLaunch s q ctx r 0x03
  else match readTables s x.root r with
    | (s, none) => refuseLaunch s q ctx r 0x04
    | (s, some (ws, bs, gs)) =>
      let (s, p0) := if lNdep r > 0 then depPa s x.root r 0 else (s, some 0)
      let (s, p1) := if lNdep r > 1 then depPa s x.root r 1 else (s, some 0)
      match p0, p1 with
      | some a, some b =>
        let id := s.nextId
        let l := { newLaunch id q ctx r .pending with windows := ws, bufs := bs, segs := gs, lastPred := predOf s q r }
        let s := { s with nextId := id + 1 }
        let (s, d0) := if lNdep r > 0 then armDep s l 0 a else (s, false)
        let (s, d1) := if lNdep r > 1 then armDep s l 1 b else (s, false)
        { s with launches := s.launches ++ [{ l with deps := [d0, d1] }] }
      | _, _ => refuseLaunch s q ctx r 0x05

/-- Pending launches of a queue. -/
def pendingOf (s : State) (q : Nat) : Nat := (s.launches.filter fun l => l.queue == q && l.st == .pending).length

/-- Writes the head count at HEADW (R446). -/
def writeHead (s : State) (q : Nat) : State :=
  let v := queueAt s q
  let a := qHeadw v.desc
  if a = 0 || placeBad s a 4 then s else placeWrite s a (leBytes 4 v.head.toNat)

/-- `serve` of R446 on queue `q` up to tail `t`, at most `fuel` records. -/
def serveQueue (q : Nat) (t : W32) : Nat → State → State
  | fuel, s =>
    let v := queueAt s q
    if !v.en || v.woken != some t then s
    else if (t - v.head).toNat > qSize v.desc then queueFault s q 0x01
    else if v.head = t then armQueue (setQueue (writeHead s q) q { v with seen := t, woken := none }) q
    else if pendingOf s q ≥ 4096 then writeHead s q
    else match fuel with
      | 0 => s
      | f + 1 =>
        let a := qBase v.desc + 128 * (v.head.toNat % qSize v.desc)
        if placeBad s a 128 then queueFault s q 0x02
        else
          let r := wordsOf 16 (memRead s.mem a 128)
          serveQueue q t f (acceptRecord (setQueue s q { v with head := v.head + 1 }) q r)

/-- QUEUE_TAIL_WAKE (R31, R446): the launch unit reads the tail and takes every record up to it. An immediate return gives
the observed value; a wake by cancellation says that the word's place is gone. -/
def execQueueTailWake (q : Nat) (s : State) : Host.Outcome State Fault Refusal :=
  if q ≥ 64 then .fault .noSuchUnit
  else .next (
    let v := queueAt s q
    if !s.lu.en || !v.en then s
    else match v.woken with
      | some t => serveQueue q t 4097 s
      | none =>
        match s.wakes.find? fun w => tailWatch q w.e with
        | none => s
        | some w =>
          let s := { s with wakes := s.wakes.erase w }
          let a := qTail v.desc
          if w.cause = 0x13 || placeBad s a 4 then queueFault s q 0x02
          else
            let t : W32 := BitVec.ofNat 32 (memNat s.mem a 4)
            serveQueue q t 4097 (setQueue s q { v with woken := some t }))

/-- QUEUE_RECORD_COPY (R446): the next record of a queue whose pending list has drained. -/
def execQueueRecordCopy (q : Nat) (s : State) : Host.Outcome State Fault Refusal :=
  if q ≥ 64 then .fault .noSuchUnit
  else .next (
    if !s.lu.en then s else match (queueAt s q).woken with | some t => serveQueue q t 1 s | none => s)

/-- DEPENDENCE_WAKE (R450): dependence `dep` of a launch holds from its wake on. -/
def execDependenceWake (launch dep : Nat) (s : State) : Host.Outcome State Fault Refusal :=
  .next (
    match s.launches.find? fun l => l.id == launch with
    | none => s
    | some l =>
      match s.wakes.find? fun w => depWatch l dep w.e with
      | none => s
      | some w =>
        { s with
          wakes := s.wakes.erase w
          launches := mapWhere s.launches (·.id == launch) fun l => { l with deps := l.deps.set dep false } })

-- cores (R452) ----------------------------------------------------------------------------------------------------

/-- A context's cores are on the device: its launches' core lists name them. -/
def ctxOut (s : State) (x : Nat) : Bool := (ctxAt s x).st == .saved || (ctxAt s x).st == .restoring
/-- No cohort runs on core `n`, and no chained start awaits it. -/
def coreFree (s : State) (n : Nat) : Bool :=
  let c := coreAt s n
  c.coh.isNone && c.prev.isNone && !(s.launches.any fun l => !ctxOut s l.ctx && l.waiting.any fun i => l.cores[i]? == some n)
/-- Core `n` lies in a reserved cluster (R440). -/
def reserved (s : State) (n : Nat) : Bool :=
  let d := n / 24; let k := n % 24 / 4
  if d < 8 then s.lu.rsv0.getLsbD (6 * d + k) else s.lu.rsv1.getLsbD (6 * (d - 8) + k)
/-- Core `n` is held by a context of classes 1 to 3. -/
def heldLow (s : State) (n : Nat) : Bool := holdsCohort (coreAt s n) fun h => decide ((ctxAt s h.ctx).cls ≠ 0)

/-- The cores of one die group on die `d`; `first` says which clusters, or starts of a chain, go ahead of the others. -/
def allocDie (free first : Nat → Bool) (r : List Word) (d : Nat) : Option (List Nat) :=
  let n := lNcoh r
  let sort := fun (l : List (List Nat)) => l.filter (fun g => g.all first) ++ l.filter fun g => !g.all first
  if lChain r then
    let at' := fun d0 => (List.range (lNcg r * n)).map fun i => 24 * d + (d0 + i) % 24
    (sort (([0, 4, 8, 12, 16, 20].map at').filter fun g => g.all free)).head?
  else
    let cl := (List.range 6).filterMap fun k =>
      let f := ((List.range 4).map (24 * d + 4 * k + ·)).filter free
      let f := f.filter first ++ f.filter fun a => !first a
      if f.length ≥ n then some (f.take n) else none
    if cl.length ≥ lNcg r then some ((sort cl).take (lNcg r)).flatten else none

/-- The cores of a launch, position for position, among those that `free` allows (R452). -/
def allocIn (free first : Nat → Bool) (r : List Word) : Option (List Nat) :=
  let got := ((List.range 16).filter (lDie r)).filterMap (allocDie free first r)
  if got.length ≥ lNdg r then some (got.take (lNdg r)).flatten else none
/-- R452 on a set of free cores. -/
def alloc (free : Nat → Bool) (r : List Word) : Option (List Nat) := allocIn free (fun _ => true) r

/-- Insertion into a list that rises by `key`, behind equal keys. -/
def insertByKey {α : Type} (key : α → Nat) (a : α) : List α → List α
  | [] => [a]
  | b :: r => if key a < key b then a :: b :: r else b :: insertByKey key a r

/-- The reserved cores that a class-0 launch takes when those of classes 1 to 3 count as free (R454): on each die its choice of
clusters, free ones first and then lower numbers; among dies, those whose choice has most free cores, then lower numbers. Die
groups stand in the order of their dies (R452). -/
def boundCores (s : State) (r : List Word) : Option (List Nat) :=
  let got := ((List.range 16).filter (lDie r)).filterMap
    (allocDie (fun n => reserved s n && (coreFree s n || heldLow s n)) (coreFree s) r)
  let held := fun (cs : List Nat) => (cs.filter fun n => !coreFree s n).length
  let order := got.reverse.foldl (fun l cs => insertByKey held cs l) []
  if got.length ≥ lNdg r then some ((order.take (lNdg r)).foldl (fun l cs => insertByKey (fun d => nthD d 0 0) cs l) []).flatten
  else none

/-- The cores on which a launch can start now: a class-0 launch that fits the reserved clusters takes those (R454). -/
def allocFor (s : State) (l : Launch) (free : Nat → Bool) : Option (List Nat) :=
  if (ctxAt s l.ctx).cls = 0 && (boundCores s l.rcd).isSome then alloc (fun n => reserved s n && free n) l.rcd
  else alloc free l.rcd

-- eligibility (R450) ----------------------------------------------------------------------------------------------

/-- Launches of one shape (R452). -/
def sameShape (a b : List Word) : Bool := lChain a == lChain b && lNdg a == lNdg b && lNcg a == lNcg b && lNcoh a == lNcoh b
/-- Core `n` lets a successor of launch `p` take it: its sequencer has reached DONE under `p`, or the core is free again. -/
def corePassed (s : State) (p n : Nat) : Bool :=
  let c := coreAt s n
  match c.coh with
  | some h => h.launch == p && !h.fatal && c.prev.isNone && c.seq.st == .done
  | none => coreFree s n
/-- The predecessor whose cores launch `l` takes (R452): running, of one shape, not saved, every sequencer in DONE. -/
def chainPred (s : State) (l : Launch) : Option Launch :=
  l.lastPred.bind fun p => s.launches.find? fun k =>
    k.id == p && k.st == .running && k.ctx == l.ctx && !k.fatal && k.waiting.isEmpty && sameShape k.rcd l.rcd &&
    k.cores.all (corePassed s p)
/-- Core blocks that the context's live cohorts need: those started and not yet retired (R450). -/
def liveBlocks (s : State) (x : Nat) : Nat := ((s.launches.filter fun l => l.ctx == x).map fun l => l.live - l.waiting.length).sum
/-- A pending launch is eligible (R450). -/
def eligible (s : State) (l : Launch) : Bool :=
  let x := ctxAt s l.ctx
  l.st == .pending && !(l.deps.any id) && (l.lastPred.isNone || (chainPred s l).isSome) &&
  (x.st == .idle || x.st == .running) && !x.held && decide (liveBlocks s l.ctx + lCores l.rcd ≤ x.nblk)
/-- The head pending launch of a queue. -/
def queueHead (s : State) (q : Nat) : Option Launch := s.launches.find? fun l => l.queue == q && l.st == .pending
/-- The head of a queue when it is eligible. -/
def readyHead (s : State) (q : Nat) : Option Launch := (queueHead s q).bind fun l => if eligible s l then some l else none
/-- Class of a queue: that of its context. -/
def queueClass (s : State) (q : Nat) : Nat :=
  (ctxAt s (match queueHead s q with | some l => l.ctx | none => qCtx (queueAt s q).desc)).cls

/-- A core that a save keeps runs or channel tokens of, round markers among them (R443, R463). -/
def holdsTokens (c : Core) : Bool :=
  (c.regions.any fun e => e.2.census != 0 || (match e.2.succ with | some p => p.census != 0 | none => false)) ||
  !(channelToks c).isEmpty || !c.relay.results.isEmpty || !c.relay.runs.isEmpty
/-- A saved cohort is asleep (R443): its threads have started, and each is in WATCH or FINISHED. -/
def asleep (x : Ctx) (v : SavedCore) : Bool :=
  let c := v.core
  let b := c.bs
  !coreFatal c && !(holdsCohort c fun h => !h.started) && b.waiting.isEmpty && b.barred.isEmpty && b.turn.isNone && !holdsTokens c && c.cmds.isEmpty && c.wakes.isEmpty &&
  (c.seq.held == .done || (c.seq.held == .wait && c.seq.waitu.isSome)) &&
  !(x.wakes.any fun w => holdsCohort c fun h => isWaiter h w.2.e)
/-- A saved context is runnable (R443). -/
def runnable (x : Ctx) : Bool := !(x.saved.all (asleep x))

-- choosing (R451) -------------------------------------------------------------------------------------------------

/-- The runnable saved context of class `c` whose save completed earliest. -/
def savedPick (s : State) (c : Nat) : Option Nat :=
  ((s.ctxs.filter fun e => e.2.st == .saved && !e.2.held && e.2.cls == c && runnable e.2).foldl
    (fun (best : Option (Nat × Nat)) e => match best with
      | some b => if e.2.order < b.2 then some (e.1, e.2.order) else some b
      | none => some (e.1, e.2.order)) none).map (·.1)

/-- The deficits of R451: visits the queues in turn until one may send its head. -/
def visitQueues (c : Nat) : Nat → List Nat → State → State × Option Launch
  | 0, _, s => (s, none)
  | _ + 1, [], s => (s, none)
  | f + 1, q :: rest, s =>
    let v := queueAt s q
    match readyHead s q with
    | none => visitQueues c f (rest ++ [q]) (setQueue s q { v with deficit := 0 })
    | some l =>
      let d := v.deficit + 24 * qWeight v.desc
      if d ≥ lCores l.rcd then
        let s := setQueue s q { v with deficit := d - lCores l.rcd }
        ({ s with lu := { s.lu with lastQ := mapSet s.lu.lastQ c q } }, some l)
      else visitQueues c f (rest ++ [q]) (setQueue s q { v with deficit := d })

/-- Queues of class `c` with an eligible head or not, in ascending number from the one after the last taken. -/
def queueOrder (s : State) (c : Nat) : List Nat :=
  let qs := (s.queues.map (·.1)).filter fun q => queueClass s q == c
  match mapGet s.lu.lastQ c with
  | some a => qs.filter (· > a) ++ qs.filter (· ≤ a)
  | none => qs

/-- Class `c` has something to pick. -/
def classReady (s : State) (c : Nat) : Bool := (savedPick s c).isSome || (queueOrder s c).any fun q => (readyHead s q).isSome

/-- Begins the saves that a class-0 launch needs (R454): every context of classes 1 to 3 with a core in its clusters. -/
def clearFor (s : State) (l : Launch) : State :=
  if (ctxAt s l.ctx).cls ≠ 0 || (chainPred s l).isSome || (allocFor s l (coreFree s)).isSome then s
  else match boundCores s l.rcd with
    | none => s
    | some cs =>
      let ks := (cs.map (· / 4)).eraseDups
      let xs := (s.ctxs.filter fun e => e.2.cls ≠ 0 && (ctxCores s e.1).any fun n => ks.contains (n / 4)).map (·.1)
      xs.foldl beginSave s

/-- LAUNCH_PICK (R451): the highest class with something to start picks, unless that class or a higher one still waits for
the cores of its last pick; a context picked for restore becomes RESTORING. -/
def execLaunchPick (s : State) : Host.Outcome State Fault Refusal :=
  .next (
    if !s.lu.en then s
    else match [0, 1, 2, 3].find? (classReady s) with
      | none => s
      | some c =>
        if s.lu.picked.any fun e => e.1 ≤ c then s
        else match savedPick s c with
          | some x =>
            let s := setCtx s x { ctxAt s x with st := .restoring }
            { s with lu := { s.lu with picked := mapSet s.lu.picked c (x, true) } }
          | none =>
            match visitQueues c 1200 (queueOrder s c) s with
            | (s, some l) => clearFor { s with lu := { s.lu with picked := mapSet s.lu.picked c (l.id, false) } } l
            | (s, none) => s)

-- starting (R134, R453) -------------------------------------------------------------------------------------------

/-- The cohort at position `i` of a launch: die groups, then cluster groups, then cohorts. -/
def cohortOf (s : State) (l : Launch) (i : Nat) : Cohort :=
  let r := l.rcd
  let g := lNcg r * lNcoh r
  { ctx := l.ctx, launch := l.id, lid := lLid r, dg := i / g, cg := i % g / lNcoh r, coh := i % lNcoh r, nthr := lNthr r,
    live := lLive r, root := (ctxAt s l.ctx).root, windows := l.windows, bufs := l.bufs, segs := l.segs, bankMap := 0xA,
    started := false, fatal := false, chain := if lChain r then g else 1, pos := if lChain r then i % g else 0, nuUsed := false }

/-- The sequencer at cohort start (R134, R139). -/
def startSeq (s : State) (l : Launch) (h : Cohort) (cycle : Word) : Seq :=
  { Seq.reset with
    pc := nthD l.rcd 1 0, regs := Seq.reset.regs.set 1 (nthD l.rcd 2 0), st := .run, cycle := cycle
    ctxReg := BitVec.ofNat 64 (l.ctx + 256 * (ctxAt s l.ctx).cls)
    cohReg := BitVec.ofNat 64 (h.nthr + 2 ^ 16 * h.live + 2 ^ 24 * h.coh + 2 ^ 28 * h.cg + 2 ^ 32 * h.dg) }

/-- The context runs from a cohort's start on (R443). -/
def ctxRuns (s : State) (x : Nat) : State :=
  let k := ctxAt s x
  if k.st == .idle then setCtx s x { k with st := .running } else s

/-- COHORT_START on a free core (R453). -/
def startFresh (s : State) (l : Launch) (i n : Nat) : State :=
  let h := cohortOf s l i
  let c := freedCore (coreAt s n)
  ctxRuns (setCore s n { c with coh := some h, seq := startSeq s l h c.seq.cycle }) l.ctx

/-- A chained start on a core whose predecessor's sequencer is in DONE, or whose predecessor has retired and left the core as
it was (R453): the pennants stay, and what the predecessor issued is marked as its own. -/
def startChained (s : State) (l : Launch) (i n : Nat) : State :=
  let h := cohortOf s l i
  ctxRuns (updCore (performStore s n) n fun c =>
    let q := startSeq s l h c.seq.cycle
    { c with
      prev := c.coh, coh := some h, left := none, early := none, seq := { q with pn := c.seq.pn, pf := c.seq.pf }
      cmds := c.cmds.map fun m => { m with prev := true } }) l.ctx

/-- A start on a core that no cohort holds: chained where the predecessor's cohort was the last to retire (R333, R453); where that
cohort's fatal end or a save has freed the core, with the tiles and records that it left. -/
def startFree (s : State) (l : Launch) (i n : Nat) (pred : Bool) : State :=
  if pred && (coreAt s n).left.isSome then startChained s l i n
  else match mapGet l.kept i with
    | some m => updCore (startFresh s l i n) n fun c => { c with mx := m }
    | none => startFresh s l i n

/-- Starts launch `l` on its cores: at once where they are free, else after the predecessor. -/
def startLaunch (s : State) (l : Launch) (cores : List Nat) : State :=
  let held := (List.range cores.length).filter fun i => !coreFree s (nthD cores i 0)
  let s := { s with launches := mapWhere s.launches (fun k => k.id == l.id && k.st == .pending) fun l =>
    { l with st := .running, cores := cores, waiting := held, live := cores.length } }
  let s := (List.range cores.length).foldl (fun s i => if held.contains i then s else
    startFree s l i (nthD cores i 0) (l.lastPred.isSome && (coreAt s (nthD cores i 0)).left == l.lastPred)) s
  ctxRuns s l.ctx

/-- LAUNCH_START (R451, R452): the launch picked for the highest class starts once its cores are found. -/
def execLaunchStart (s : State) : Host.Outcome State Fault Refusal :=
  .next (
    if !s.lu.en then s
    else match s.lu.picked with
      | (c, (id, false)) :: _ =>
        let gone := { s with lu := { s.lu with picked := mapDel s.lu.picked c } }
        (match s.launches.find? fun l => l.id == id with
         | none => gone
         | some l =>
           if !(eligible s l) then gone
           else match chainPred s l with
             | some p => startLaunch gone l p.cores
             | none => match allocFor s l (coreFree s) with
               | some cs => startLaunch gone l cs
               | none => clearFor s l)
      | _ => s)

/-- CHAINED_COHORT_START (R452, R453): the position of a started launch that waits for this core starts, once the
predecessor's sequencer here is in DONE or its cohort has retired. -/
def execChainedCohortStart (s : State) : Host.Outcome State Fault Refusal :=
  .next (
    let n := s.core
    let c := cur s
    match s.launches.find? fun l => !ctxOut s l.ctx && l.waiting.any fun i => l.cores[i]? == some n with
    | none => s
    | some l =>
      let x := ctxAt s l.ctx
      match l.waiting.find? fun i => l.cores[i]? == some n with
      | none => s
      | some i =>
        if !s.lu.en || !(x.st == .idle || x.st == .running) || c.prev.isSome then s
        else
          let took := { s with launches := mapWhere s.launches (·.id == l.id) fun l => { l with waiting := l.waiting.filter (· ≠ i) } }
          if c.coh.isNone then startFree took l i n true
          else if c.seq.st == .done && !coreFatal c then startChained took l i n else s)

-- retirement (R35) ------------------------------------------------------------------------------------------------

/-- Each pennant counts the accepted commands that are left. -/
def recount (c : Core) : Core :=
  let n := fun p => (c.cmds.filter fun m => m.pen == some p && !m.rdWait).length
  { c with seq := { c.seq with pn := (List.range 8).map n } }

/-- One cohort of its launch has retired. -/
def countRetired (s : State) (h : Cohort) : State :=
  { s with launches := mapWhere s.launches (·.id == h.launch) fun l => { l with live := l.live - 1 } }

/-- The core after its predecessor cohort has retired (R453): the scheduler as at cohort start, the successor's buffer homes, and nothing of
the predecessor's on the relay links, whose tokens never pass to another launch (R427). -/
def afterPrev (c : Core) : Core :=
  { c with
    prev := none, bs := Sched.reset, cbs := (c.cbs.filter fun e => e.1 ≥ 16).map fun e => (e.1 - 16, e.2), wakes := c.wakes.filter fun w => nthD w.2.2 0 0 != 0
    relay := { c.relay with
      nuBuf := c.relay.nuBuf.filter fun t => t.tok.kind == .preempt
      endSeen := false, ndSent := 0, taken := 0, carries := [], carryClosed := 0, localClosed := 0, sentClosed := 0 } }

/-- A core whose only cohort has retired: it is free, and what a chained successor would take over stays until a fresh start
(R333, R453). -/
def retiredCore (c : Core) (h : Cohort) : Core :=
  if h.fatal || c.saving then freedCore c
  else { afterPrev c with
    coh := none, left := some h.launch, quiet := false, wakes := [], early := none
    seq := { Seq.reset with cycle := c.seq.cycle, pn := c.seq.pn, pf := c.seq.pf } }

/-- Region `r` goes over to the successor that a splice was bringing in, when the predecessor ends fatally. -/
def forceSplice (s : State) (n r : Nat) (g : Region) (sp : Splice) : State :=
  let c := freeUnits (keepStitches (coreAt s n) r sp.cfg) g.cfg
  let c := loadAll c sp.img sp.cfg sp.mode
  let st := match mapGet c.regions r with | some h => h.stitches | none => []
  let c := { c with regions := mapSet c.regions r { newRegion sp.cfg (hasGate sp.img) with stitches := st } }
  finishCmd ((portColumns sp.cfg).foldl (checkPort n) (setCore s n c)) n sp.cmd

/-- The matrix engine without the firing that runs: its tiles have the tags that they had before it (log entry 39). -/
def dropFiring (m : Matrix) : Matrix :=
  match m.running with
  | some f => { m with running := none, tags := (f.old.foldl (fun m e => setTag m e.1 e.2) m).tags }
  | none => m

/-- The relay without the scan that nd held (R35, R427). -/
def dropScan (k : Relay) : Relay :=
  { k with owed := [], store := [], locals := [], carries := [], results := [], runs := [], solved := []
           localClosed := 0, carryClosed := 0, sentClosed := 0 }

/-- What a fatally ended cohort leaves to the other cohort of its core: none of its regions, commands, streams, parked faults
and accesses. `prev` says that the cohort is the predecessor. -/
def dropCohort (s : State) (n : Nat) (h : Cohort) (prev : Bool) : State :=
  let s := updCore s n fun c =>
    if (cfgOfPlace c c.mx.place).any fun g => g.launch == h.launch then { c with mx := dropFiring c.mx } else c
  let s := (coreAt s n).regions.foldl (fun s e =>
    if e.2.cfg.launch != h.launch then s
    else match e.2.succ with
      | some sp =>
        if sp.cfg.launch = h.launch then updCore s n fun c => evictRegion c e.1 else forceSplice s n e.1 e.2 sp
      | none => updCore s n fun c => evictRegion c e.1) s
  updCore s n fun c =>
    let ids := (c.cmds.filter fun m => m.prev == prev).map (·.id)
    let gs := (c.gens.filter fun e => ids.contains e.2.cmd).map (·.1)
    let mine := fun (e : Nat × Bool) => if e.2 then ids.contains e.1 else gs.contains e.1
    let live := fun (p : Nat) => (cfgOfPlace c p).isSome
    let flights := c.flights.filter fun f => live (firePlace f.fire)
    let kept := fun (i : Nat) => flights.any fun f => f.id == i
    recount { c with
      cmds := c.cmds.filter fun m => m.prev != prev
      gens := c.gens.filter fun e => !gs.contains e.1
      ports := c.ports.map fun e =>
        (e.1, { e.2 with cur := if e.2.cur.any mine then none else e.2.cur, fifo := e.2.fifo.filter fun f => !mine f })
      caps := c.caps.filter fun k => !ids.contains k.id
      flights := flights
      hold := c.hold.map fun e => (e.1, e.2.filter fun a => kept a.flight)
      fences := c.fences.filter fun w => kept w.flight
      nodes := c.nodes.map fun e =>
        (e.1, { e.2 with compare := e.2.compare.filter (fun a => kept a.flight), cross := e.2.cross.filter fun a => kept a.flight })
      parked := c.parked.filter fun p => parkedPrev c p != prev
      relay := { (if live c.relay.place then c.relay else dropScan c.relay) with
        linkOut := if prev then c.relay.linkOut.filter (fun t => t.tok.kind == .preempt) else c.relay.linkOut
        ndq := c.relay.ndq.filter fun t => t.kind == .preempt || live t.place } }

/-- A saving core that ends fatally passes a marker on in place of the one its nd would have sent (R459). -/
def passMarker (s : State) (n : Nat) : State :=
  match chainCore s n 1 with
  | some m =>
    if (coreAt s n).saving && (coreAt s m).saving && !(coreAt s m).relay.nuMarked && (ndRegion (coreAt s n)).isSome &&
        (fabricCohort (coreAt s n)).map (·.launch) == (fabricCohort (coreAt s m)).map (·.launch) then
      updCore s m fun d => { d with relay := { d.relay with nuBuf := d.relay.nuBuf ++ [plainLink (preemptTok 0)], nuMarked := true } }
    else s
  | none => s

/-- The tiles, the weight buffer, the tags and the records of a core, without the firing that runs (R333). -/
def leftTiles (m : Matrix) : Matrix :=
  let m := dropFiring m
  { Core.reset.mx with tile := m.tile, weight := m.weight, tags := m.tags, opened := m.opened, shapes := m.shapes, wds := m.wds }
/-- A retired cohort leaves its tiles and records to the chained start that waits for its core (R333, R453): with the launch, since a
fatal end or a save frees the core, and a restore may put the position on another. -/
def leaveTiles (s : State) (n : Nat) (h : Cohort) : State :=
  let c := coreAt s n
  let here := fun (l : Launch) => (l.waiting.find? fun i => l.cores[i]? == some n)
  { s with launches := s.launches.map fun l =>
    match (if l.ctx = h.ctx then here l else none) with
    | some i => { l with kept := mapSet l.kept i (leftTiles c.mx) }
    | none => l }

/-- The only cohort of core `n` retires: the banks are written back and emptied, the core is free (R35). -/
def retireSole (s : State) (n : Nat) (h : Cohort) : State :=
  let s := leaveTiles (emptyBanks (passMarker s n) n) n h
  settleCtx (countRetired (setCore s n (retiredCore (coreAt s n) h)) h) h.ctx

/-- The predecessor on core `n` retires before its successor (R453). -/
def retirePrev (s : State) (n : Nat) (h : Cohort) : State :=
  let s := emptyBanks (if h.fatal then passMarker s n else s) n
  let s := if h.fatal then dropCohort s n h true else s
  countRetired (updCore s n afterPrev) h

/-- A successor that ended fatally retires while its predecessor still works; the predecessor's sequencer is in DONE. -/
def retireNext (s : State) (n : Nat) (h : Cohort) : State :=
  countRetired (updCore (dropCohort s n h false) n fun c =>
    recount { c with
      coh := c.prev, prev := none, seq := { Seq.reset with st := .done, cycle := c.seq.cycle, pn := c.seq.pn, pf := c.seq.pf }
      cmds := c.cmds.map fun m => { m with prev := false }
      cbs := c.cbs.filter fun e => e.1 < 16 }) h

/-- COHORT_RETIRE (R35, R81, R461): the cohort of the current core retires; one that ended fatally, at once. -/
def execCohortRetire (s : State) : Host.Outcome State Fault Refusal :=
  .next (
    let n := s.core
    let t := performStore s n
    let c := cur t
    match c.prev, c.coh with
    | some p, some h =>
      if p.fatal || mayRetire c p then retirePrev t n p
      else if h.fatal then retireNext t n h else s
    | none, some h => if h.fatal || mayRetire c h then retireSole t n h else s
    | _, _ => s)

-- completion (R449, R450) -----------------------------------------------------------------------------------------

/-- The completion status of a launch that has come to its end. -/
def launchStatus (l : Launch) : Option Nat :=
  match l.st with
  | .refused _ => some 3
  | .failed => some 5
  | .running => if l.live = 0 && l.waiting.isEmpty then some (if l.fatal then 2 else 1) else none
  | .pending => none

/-- Writes the completion record at DONE: word 1, then word 0 (R449); a write that faults is dropped with launch fault 0x07. -/
def writeCompletion (s : State) (l : Launch) (status : Nat) : State :=
  let done := nthD l.rcd 5 0
  if done = 0 then s
  else
    let bad := fun s => launchFault s l.ctx l.queue (lLid l.rcd) none 0x07 done
    if done.toNat % 16 ≠ 0 then bad s
    else match translateRoot s (ctxAt s l.ctx).root done .write with
      | (s, .error _) => bad s
      | (s, .ok pa) =>
        if placeBad s pa 16 then bad s
        else
          let s := placeWrite s (pa + 8) (leBytes 8 l.nfault.toNat)
          placeWrite s pa (leBytes 8 ((lLid l.rcd).toNat + 2 ^ 32 * status))

/-- A launch has completed with `status`: it leaves the list; a pending successor waits no more, or fails (R450). -/
def dropLaunch (s : State) (id status : Nat) : State :=
  { s with launches := (s.launches.filter fun l => l.id != id).map fun l =>
      if l.lastPred != some id then l
      else if status ≠ 1 && l.st == .pending then { l with lastPred := none, predBad := true, st := .failed }
      else { l with lastPred := none } }

/-- LAUNCH_COMPLETE (R35, R449). -/
def execLaunchComplete (launch : Nat) (s : State) : Host.Outcome State Fault Refusal :=
  .next (
    match s.launches.find? fun l => l.id == launch with
    | none => s
    | some l =>
      match launchStatus l with
      | none => s
      | some st => dropLaunch (writeCompletion s l st) launch st)

-- the fault ring (R457) -------------------------------------------------------------------------------------------

/-- The ring has room for a record. -/
def ringRoom (u : Lu) : Bool := (u.fprod - u.fcons).toNat ≠ 2 ^ u.fringLog

/-- A parked fault whose record has SEQ `q` now has it in the ring (R458). -/
def noteRing (q : W32) (c : Core) : Core :=
  { c with parked := mapWhere c.parked (fun p => p.seq == q) fun p => { p with inRing := true } }

/-- FAULT_RING_WRITE (R457): the oldest waiting record goes to the ring, LU_FPROD rises, the notification is stored. -/
def execFaultRingWrite (s : State) : Host.Outcome State Fault Refusal :=
  .next (
    match s.lu.fbuf with
    | [] => s
    | (ws, x) :: rest =>
      if !(ringRoom s.lu) then s
      else
        let a := s.lu.fringBase + 32 * (s.lu.fprod.toNat % 2 ^ s.lu.fringLog)
        let put := fun (s : State) (a : Nat) (b : List Byte) => if placeBad s a b.length then s else placeWrite s a b
        let s := put s a (ws.flatMap fun w => leBytes 8 w.toNat)
        let s : State := { s with lu := { s.lu with fprod := s.lu.fprod + 1, fbuf := rest } }
        let s := if s.lu.fnote = 0 then s else put s s.lu.fnote (leBytes 8 s.lu.fprod.toNat)
        let q : W32 := (nthD ws 3 0).setWidth 32
        let s := (ctxCores s x).foldl (fun s n => updCore s n (noteRing q)) s
        let k := ctxAt s x
        if k.saved.isEmpty then s else setCtx s x { k with saved := k.saved.map fun v => { v with core := noteRing q v.core } })

end Sys2Proof.Machine
end

