-- ==== Sys2Proof/Machine/Contexts.lean ====
section
/-! DEFINITION. Contexts (R441 to R446, R458, R465 to R469): the launch unit's commands, restore, quiescence, and the
sequencer's `ctx` commands. -/

namespace Sys2Proof.Machine

-- commands of the launch unit (R441) ------------------------------------------------------------------------------

/-- BUSY clears once the command's effect is complete (R441); of a shoot-down, once its invalidation is over on every core
(R191). -/
def settleBusy (s : State) : State :=
  let free : State := { s with lu := { s.lu with busy := none } }
  match s.lu.busy with
  | some (3, x) =>
    (match (ctxAt s x).st with
     | .running => s | .saving => s | .restoring => s
     | _ => free)
  | some (6, x) => if (ctxCores s x).all fun n => invDone (coreAt s n) 0 then free else s
  | _ => free

/-- The command's status, and whether it stays BUSY. -/
def luAnswer (s : State) (status : Byte) (busy : Option (Nat × Nat)) : State :=
  { s with lu := { s.lu with status := status, busy := busy } }

/-- A command starts unless the one before it is still BUSY. -/
def luStart (s : State) (f : State → State) : State :=
  let t := settleBusy s
  if t.lu.busy.isSome then s else f t

/-- A command on a context that is FREE, other than CREATE: BAD_STATE. -/
def onCtx (s : State) (x : Nat) (f : State → State) : State :=
  luStart s fun s => if (ctxAt s x).st == .free then luAnswer s 0x01 none else f s

/-- SAVE of a context record. -/
def rSave (r : List Word) : Nat := rfld r 2 16 36 * 65536
/-- A context record keeps its map (R442). -/
def ctxRecordOk (s : State) (r : List Word) : Bool :=
  rfld r 0 0 12 == 0 && rfld r 0 52 12 == 0 && rfld r 1 2 6 == 0 && rfld r 1 8 12 ≤ 3584 && rfld r 1 20 4 == 0 &&
  rfld r 1 32 32 == 0 && rfld r 2 0 16 == 0 && rfld r 2 52 12 == 0 && rfld r 3 0 9 ≤ 384 && rfld r 3 9 55 == 0 &&
  (r.drop 4).all (· == 0) && allProt s (rSave r) (saveBytes (rfld r 3 0 9))
/-- The record of context `x`, if it can be read. -/
def ctxRecord (s : State) (x : Nat) : Option (List Word) :=
  let a := s.lu.ctxtab + 64 * x
  if placeBad s a 64 then none else some (wordsOf 8 (memRead s.mem a 64))

/-- CREATE (R441, R442). -/
def luCreate (s : State) (x : Nat) : State :=
  luStart s fun s =>
    if (ctxAt s x).st != .free then luAnswer s 0x01 none
    else match ctxRecord s x with
      | none => luAnswer s 0x02 none
      | some r =>
        if !(ctxRecordOk s r) then luAnswer s 0x02 none
        else
          let c := { Ctx.reset with
            st := .idle, root := rfld r 0 12 40 * 4096, cls := rfld r 1 0 2, pinq := rfld r 1 8 12, save := rSave r,
            nblk := rfld r 3 0 9, tornWakes := (ctxAt s x).tornWakes }
          luAnswer (setCtx s x c) 0x00 none

/-- A `cfg.fetch` of a core that waits for its wake ends with configuration fault 0x06 when its context is torn down (R175, R195;
log entry 82); `c` is the core `n`, or what is saved of it. -/
def fetchEnds (s : State) (n : Nat) (c : Core) : State :=
  (c.cmds.filter fun m => m.phase == .watching).foldl (fun s m =>
    match cmdCohort c m with
    | some h => putRecord s h.ctx h.lid none { Record.mk' 0x03 9 0x06 true with core := n, sp := match m.pen with | some p => p | none => 0 }
    | none => s) s

/-- Every trace of context `x` goes (R444): cohorts without write-backs, watch entries and their wakes, pins, queues,
launches; a successor of one of its launches has no predecessor any more (R450). The one record is that of a waiting
`cfg.fetch` on a core or in a saved one (R175). -/
def tearDown (s : State) (x : Nat) : State :=
  let cs := ctxCores s x
  let s := cs.foldl (fun s n => fetchEnds s n (coreAt s n)) s
  let s := (ctxAt s x).saved.foldl (fun s v => fetchEnds s v.old v.core) s
  let s := cs.foldl (fun s n => updCore (performStore s n) n freedCore) s
  let mine := fun (e : Watch) => e.ctx == x
  let torn := (pickWatches s mine).length
  let s := takeWatches s mine
  let s := ((s.queues.filter fun e => qCtx e.2.desc == x).map (·.1)).foldl disableQueue s
  let ids := (s.launches.filter fun l => l.ctx == x).map (·.id)
  let cut := fun (l : Launch) => if l.lastPred.any ids.contains then { l with lastPred := none } else l
  let s := { s with
    wakes := s.wakes.filter fun w => !mine w.e
    pins := s.pins.filter fun p => p.2.1 != x
    launches := (s.launches.filter fun l => l.ctx != x).map cut
    remote := s.remote.filter fun p => !cs.contains p.1
    lu := { s.lu with picked := s.lu.picked.filter fun e => if e.2.2 then e.2.1 != x else !ids.contains e.2.1 } }
  setCtx s x { Ctx.reset with tornWakes := (ctxAt s x).tornWakes + torn }

/-- TEARDOWN (R441, R444). -/
def luTeardown (s : State) (x : Nat) : State := onCtx s x fun s => luAnswer (tearDown s x) 0x00 none

/-- SAVE (R441): HOLD, and a save of a RUNNING context. -/
def luSave (s : State) (x : Nat) : State :=
  onCtx s x fun s => luAnswer (beginSave (setCtx s x { ctxAt s x with held := true }) x) 0x00 (some (3, x))

/-- RESTORE (R441): HOLD := 0. -/
def luRestore (s : State) (x : Nat) : State :=
  onCtx s x fun s => luAnswer (setCtx s x { ctxAt s x with held := false }) 0x00 none

/-- The barriers that a cancelled generator held complete with PF set (R321). -/
def cancelBars (s : State) (n g : Nat) : State :=
  (genAt (coreAt s n) g).bars.foldl (fun s b =>
    let s := updCore s n fun c => { c with gens := c.gens.map fun e => (e.1, { e.2 with bars := e.2.bars.filter (· != b) }) }
    completeCmd (updCmd s n b fun m => { m with record := true }) n b) s

/-- A parked fault of core `n` is cancelled (R193): it is gone; a piece is consumed, and the fences that wait for its run carry
the fatal status (R290, R300); its cohort ends. -/
def cancelParked (s : State) (n : Nat) (p : Parked) : State :=
  let side := !(parkedPrev (coreAt s n) p) || (coreAt s n).prev.isNone
  let s := updCore s n fun c =>
    let c := { c with parked := c.parked.erase p }
    match p.who with
    | .piece _ f =>
      { census c (firePlace f) (-(f.cnt : Int)) with
        fences := c.fences.map fun w => if w.waits.contains f.run then { w with fatal := true } else w }
    | _ => c
  endCohort (match p.who with | .generator g => cancelBars s n g | _ => s) n side

/-- ANSWER on one core's parked faults whose records are in the ring: listed ones are cancelled, the others replay. -/
def answerParked (seqs : List W32) (p : Parked) : Parked :=
  if !p.inRing || p.answer ≠ 0 then p else { p with answer := if seqs.contains p.seq then 2 else 1 }

/-- Applies the cancel answers of a resident core. -/
def applyCancels (s : State) (n : Nat) : State :=
  ((coreAt s n).parked.filter fun p => p.answer == 2).foldl (fun s p => cancelParked s n p) s

/-- The list of an ANSWER: `n` values of 32 bits. -/
def seqList (s : State) (a : Nat) (n : Nat) : List W32 := (List.range n).map fun i => BitVec.ofNat 32 (memNat s.mem (a + 4 * i) 4)

/-- ANSWER (R441, R458). -/
def luAnswerCmd (s : State) (x : Nat) : State :=
  onCtx s x fun s =>
    let a := s.lu.arg0.toNat
    let n := s.lu.arg1.toNat
    if a % 4 ≠ 0 || a ≥ 2 ^ 52 || n > 4096 || (n ≠ 0 && placeBad s a (4 * n)) then luAnswer s 0x03 none
    else
      let seqs := seqList s a n
      let mark := fun (c : Core) => { c with parked := c.parked.map (answerParked seqs) }
      let s := (ctxCores s x).foldl (fun s n => applyCancels (updCore s n mark) n) s
      let k := ctxAt s x
      luAnswer (setCtx s x { k with saved := k.saved.map fun v => { v with core := mark v.core } }) 0x00 none

/-- SHOOTDOWN (R191, R441). -/
def luShootdown (s : State) (x : Nat) : State :=
  onCtx s x fun s =>
    let base := s.lu.arg0
    let len := s.lu.arg1.toNat
    if !canonical base || base.toNat % 65536 ≠ 0 || len % 65536 ≠ 0 then luAnswer s 0x03 none
    else luAnswer ((ctxCores s x).foldl (fun s n => updCore (performStore s n) n fun c => invalidate c 0 base.toNat len) s) 0x00 (some (6, x))

/-- A queue descriptor keeps its map (R445). -/
def queueDescOk (s : State) (d : List Word) : Bool :=
  let inMem := fun a => match rangeOf s a with | some .hbm => true | some .host => true | _ => false
  rfld d 0 0 7 == 0 && rfld d 0 52 12 == 0 && rfld d 1 0 5 ≤ 16 && rfld d 1 5 3 == 0 && rfld d 1 14 2 == 0 && 1 ≤ qWeight d &&
  rfld d 1 25 39 == 0 && rfld d 2 0 2 == 0 && rfld d 2 52 12 == 0 && rfld d 3 0 2 == 0 && rfld d 3 52 12 == 0 &&
  inMem (qBase d) && inMem (qTail d)

/-- QSYNC (R441, R446). -/
def luQsync (s : State) : State :=
  luStart s fun s =>
    let a := s.lu.arg0
    if a &&& ~~~0x13F#64 != 0 || s.lu.arg1.toNat ≥ 2 ^ 32 then luAnswer s 0x03 none
    else
      let q := a.toNat % 64
      let v := queueAt s q
      let v := if a.getLsbD 8 then { v with head := s.lu.arg1.setWidth 32 } else v
      let s := disableQueue (setQueue s q v) q
      let at' := s.lu.qtab + 32 * q
      if placeBad s at' 32 then luAnswer s 0x02 none
      else
        let d := wordsOf 4 (memRead s.mem at' 32)
        if !(queueDescOk s d) || (ctxAt s (qCtx d)).st == .free then luAnswer s 0x02 none
        else if rfld d 1 24 1 = 0 then luAnswer (setQueue s q { queueAt s q with desc := d }) 0x00 none
        else luAnswer (armQueue (setQueue s q { queueAt s q with en := true, desc := d, seen := v.head }) q) 0x00 none

/-- CREATE. -/
def execCreate (ctx : Nat) (s : State) : Host.Outcome State Fault Refusal :=
  if ctx ≥ 64 then .fault .noSuchUnit else .next (mgmt s fun s => luCreate s ctx)
/-- TEARDOWN. -/
def execTeardown (ctx : Nat) (s : State) : Host.Outcome State Fault Refusal :=
  if ctx ≥ 64 then .fault .noSuchUnit else .next (mgmt s fun s => luTeardown s ctx)
/-- SAVE. -/
def execSave (ctx : Nat) (s : State) : Host.Outcome State Fault Refusal :=
  if ctx ≥ 64 then .fault .noSuchUnit else .next (mgmt s fun s => luSave s ctx)
/-- RESTORE. -/
def execRestore (ctx : Nat) (s : State) : Host.Outcome State Fault Refusal :=
  if ctx ≥ 64 then .fault .noSuchUnit else .next (mgmt s fun s => luRestore s ctx)
/-- ANSWER. -/
def execAnswer (ctx : Nat) (s : State) : Host.Outcome State Fault Refusal :=
  if ctx ≥ 64 then .fault .noSuchUnit else .next (mgmt s fun s => luAnswerCmd s ctx)
/-- SHOOTDOWN. -/
def execShootdown (ctx : Nat) (s : State) : Host.Outcome State Fault Refusal :=
  if ctx ≥ 64 then .fault .noSuchUnit else .next (mgmt s fun s => luShootdown s ctx)
/-- QSYNC. -/
def execQsync (s : State) : Host.Outcome State Fault Refusal := .next (mgmt s luQsync)

/-- A write of LU_CMD (R440, R441): OP and CTX. -/
def luCommand (s : State) (v : Word) : State :=
  let x := v.toNat / 16 % 64
  match v.toNat % 16 with
  | 1 => luCreate s x | 2 => luTeardown s x | 3 => luSave s x | 4 => luRestore s x | 5 => luAnswerCmd s x
  | 6 => luShootdown s x | 7 => luQsync s
  | _ => luStart s fun s => luAnswer s 0x03 none

-- restore (R465 to R467) ------------------------------------------------------------------------------------------

/-- A coordinate moved by `d` in a row of `n`. -/
def moveIn (n : Nat) (d : Int) (x : Nat) : Nat := (((x : Int) + d) % n).toNat
/-- A map with its keys changed. -/
def rekey {α : Type} (f : Nat → Nat) (m : SMap α) : SMap α := m.foldl (fun acc e => mapSet acc (f e.1) e.2) []
/-- A configuration at its shifted origin. -/
def moveCfg (dx dy : Int) (g : Config) : Config := { g with x0 := ((g.x0 : Int) + dx).toNat, y0 := ((g.y0 : Int) + dy).toNat }
/-- A region at its shifted origin (R465). -/
def moveRegion (dx dy : Int) (g : Region) : Region :=
  { g with
    cfg := moveCfg dx dy g.cfg
    succ := g.succ.map fun p =>
      { p with cfg := moveCfg dx dy p.cfg, units := p.units.map fun u => match u with | .mn x => .mn (moveIn 8 dx x) | u => u } }
/-- A unit moved with its region (R465). -/
def moveUnit (dx dy : Int) : UnitId → UnitId
  | .site x y => .site (moveIn 8 dx x) (moveIn 6 dy y)
  | .mn x => .mn (moveIn 8 dx x) | .me y => .me (moveIn 6 dy y) | .sp x => .sp (moveIn 8 dx x)
  | u => u
/-- A capacity command whose port has moved. -/
def moveCmd (dx : Int) (m : Cmd) : Cmd :=
  match capPort m with
  | some x => { m with ops := m.ops.set 1 ((m.opnd 2 &&& ~~~0x700#64) ||| BitVec.ofNat 64 (256 * moveIn 8 dx x)) }
  | none => m
/-- A placing command of the block scheduler whose origin has moved with its region (R377, R465). -/
def moveOrigin (dx dy : Int) (ids : List Nat) (m : Cmd) : Cmd :=
  match m.op with
  | .cfgSplice _ _ _ _ =>
    if !ids.contains m.id then m
    else { m with ops := m.ops.set 1 (BitVec.ofNat 64 (((m.fld 2 0 3 : Int) + dx).toNat % 8 + 256 * (((m.fld 2 8 3 : Int) + dy).toNat % 8))) }
  | _ => m
/-- A core's state on the shifted placement (R377, R465, R329, R354). -/
def moveCore (dx dy : Int) (c : Core) : Core :=
  let site := fun k => siteKey (moveIn 8 dx (k % 8)) (moveIn 6 dy (k / 8))
  let col := moveIn 8 dx
  { c with
    regions := c.regions.map fun e => (e.1, moveRegion dx dy e.2)
    sites := rekey site c.sites
    nodes := rekey col c.nodes
    ports := rekey col c.ports
    gens := c.gens.map fun e => (e.1, { e.2 with ports := e.2.ports.map col })
    cmds := c.cmds.map fun m => moveOrigin dx dy c.bs.demand (moveCmd dx m)
    mx := { c.mx with ports := rekey (moveIn 6 dy) c.mx.ports }
    flights := c.flights.map fun f => { f with unit := moveUnit dx dy f.unit }
    parked := c.parked.map fun p => match p.who with | .piece x f => { p with who := .piece (col x) f } | _ => p }

/-- A queue without pre-emption markers. -/
def noPreempt (q : List Tok) : List Tok := q.filter fun t => t.kind != .preempt
/-- A unit after its save. -/
def unsaveUnit (u : FUnit) : FUnit :=
  { u with
    inq := u.inq.filterMap fun e => if (noPreempt e.2).isEmpty then none else some (e.1, noPreempt e.2)
    out := u.out.filter fun e => e.2.kind != .preempt
    marks := u.marks.filter fun m => m.kind != .preempt, saved := false }

/-- A generator after a restore: its extents are walked afresh, its stall counter is 0 (R329). -/
def unsaveGen (g : Gen) : Gen := { g with extents := [], stall := 0, st := if g.st == .paused then .running else g.st }

/-- A saved core's state as it is loaded (R467): no markers, store entries or translations; bindings run again (R425);
directory entries are read again (R377). -/
def unsaveCore (cycle : Word) (c : Core) : Core :=
  let src := fun (q : Source) => { q with q := noPreempt q.q }
  let fetching := c.cmds.any fun m => c.bs.demand.contains m.id && !m.rdWait
  let lost := fun (m : Cmd) => c.bs.demand.contains m.id && m.rdWait && !fetching
  { c with
    entries := [], invs := [], early := none
    walk := [], tlb2 := [], saving := false, seqSaved := false, wakes := [], quiet := false
    seq := { c.seq with st := c.seq.held, itlb := [], ibuf := [], cycle := cycle }
    regions := c.regions.map fun e => (e.1, { e.2 with sources := e.2.sources.map src })
    sites := c.sites.map fun e => (e.1, unsaveUnit e.2)
    nodes := c.nodes.map fun e => (e.1, { e.2 with u := unsaveUnit e.2.u, tlb := [] })
    ports := c.ports.map fun e => (e.1, { e.2 with q := noPreempt e.2.q, outq := noPreempt e.2.outq })
    gens := c.gens.map fun e => (e.1, unsaveGen e.2)
    caps := c.caps.map fun k => { k with bound := false, bags := [], pages := [] }
    cmds := c.cmds.filter fun m => !lost m
    mx := { c.mx with ports := c.mx.ports.map fun e => (e.1, noPreempt e.2) }
    bs := { c.bs with cached := [], exits := c.bs.exits.map fun e => (e.1, unsaveUnit e.2) }
    relay := { c.relay with
      nuBuf := c.relay.nuBuf.filter fun t => t.tok.kind != .preempt
      linkOut := c.relay.linkOut.filter fun t => t.tok.kind != .preempt
      nuMarked := false, ndq := noPreempt c.relay.ndq, results := noPreempt c.relay.results } }

/-- SDX and SDY of a context record (R442). -/
def shiftOf (r : List Word) : Int × Int :=
  ((BitVec.ofNat 4 (rfld r 1 24 4)).toInt, (BitVec.ofNat 4 (rfld r 1 28 4)).toInt)

/-- A configuration that the shift takes off the fabric or off an anchored edge (R466). -/
def cfgShiftBad (dx dy : Int) (g : Config) : Bool :=
  let x := (g.x0 : Int) + dx; let y := (g.y0 : Int) + dy
  decide (x < 0 ∨ y < 0 ∨ x + g.w > 8 ∨ y + g.h > 6) || (g.anchor.getLsbD 0 && y != 0) || (g.anchor.getLsbD 1 && x + g.w != 8) ||
  (g.anchor.getLsbD 2 && y + g.h != 6) || (g.anchor.getLsbD 3 && x != 0)

/-- Cause 0x02 of a restore (R466). -/
def shiftBad (dx dy : Int) (vs : List SavedCore) : Bool :=
  decide (dx = -8 ∨ dy < -5 ∨ dy > 5) || (dx + dy) % 2 != 0 || vs.any fun v =>
    (v.core.regions.any fun e => (regionCfgs e.2).any (cfgShiftBad dx dy)) ||
    (let ls := lanesUsed (moveCore dx dy v.core); ls.length != ls.eraseDups.length)

/-- New cores for a saved context's launches (R452, R465): a launch in a chained start stays on its predecessor's. -/
def restorePlan (free : Nat → Bool) : List Launch → List (Nat × List Nat) → Option (List (Nat × List Nat))
  | [], acc => some acc
  | l :: rest, acc =>
    let shared := l.lastPred.bind fun p => (acc.find? fun e => e.1 == p).map (·.2)
    match shared <|> alloc (fun n => free n && !(acc.any fun e => e.2.contains n)) l.rcd with
    | some cs => restorePlan free rest (acc ++ [(l.id, cs)])
    | none => none

/-- A class-0 launch waits for cores. -/
def class0Waits (s : State) : Bool := s.launches.any fun l => (ctxAt s l.ctx).cls = 0 && eligible s l
/-- Core `n` may take a restore: free, and no reserved one while a class-0 launch waits (R454). -/
def restoreFree (s : State) (n : Nat) : Bool := coreFree s n && !(reserved s n && class0Waits s)

/-- The launch unit drops the pick of context `x`. -/
def dropPick (s : State) (x : Nat) : State :=
  { s with lu := { s.lu with picked := s.lu.picked.filter fun e => !(e.2.2 && e.2.1 == x) } }

/-- A restore fails (R466): the context is SAVED with HOLD, and a record of kind restore is written. -/
def restoreFails (s : State) (x cause : Nat) : State :=
  putRecord (dropPick (setCtx s x { ctxAt s x with st := .saved, held := true }) x) x 0 none (Record.mk' 0x13 0 cause false)

/-- Loads one saved core on core `n`, its stores from its core block, and applies its wakes (R462, R467). -/
def loadCore (s : State) (x : Ctx) (dx dy : Int) (v : SavedCore) (n : Nat) : State :=
  let d := coreAt s n
  let c := moveCore dx dy (unsaveCore d.seq.cycle (readBlock s.mem (blockBase x.save v.core.block) v.core))
  let c := { c with
    badScratch := d.badScratch, badTile := d.badTile, badWeight := d.badWeight, badBank := d.badBank
    badLink := d.badLink, badScan := d.badScan }
  let mine := (x.wakes.filter fun w => holdsCohort c fun h => isWaiter h w.2.e).map fun w => keptWake w.2
  setCore s n ((v.core.wakes ++ mine).foldl applyWake c)

/-- The new core of a saved core under a plan. -/
def planned (s : State) (plan : List (Nat × List Nat)) (v : SavedCore) : Option Nat :=
  v.core.coh.bind fun h => (s.launches.find? fun l => l.id == h.launch).bind fun l =>
    (findIdx l.cores fun n => n == v.old).bind fun i => ((plan.find? fun e => e.1 == l.id).map (·.2)).bind fun cs => cs[i]?

/-- A launch on its new cores under a plan. -/
def planLaunch (plan : List (Nat × List Nat)) (l : Launch) : Launch :=
  match plan.find? fun e => e.1 == l.id with
  | some e => { l with cores := e.2 }
  | none => l

/-- The thread wakes that core `n` has are applied (R404): at a restore before a run is injected or an instruction issues (R400,
R467). -/
def applyWakes (s : State) (n : Nat) : State :=
  (coreAt s n).wakes.foldl (fun s w => threadWakeAt s n w) (updCore s n fun c => { c with wakes := [] })

/-- The restore of context `x` with its plan and shift. -/
def restoreAll (s : State) (x : Nat) (plan : List (Nat × List Nat)) (dx dy : Int) : State :=
  let k := ctxAt s x
  let s := (plan.flatMap (·.2)).foldl (fun s n => updCore s n fun c => { c with left := none }) s
  let t := k.saved.foldl (fun t v => match planned s plan v with | some n => loadCore t k dx dy v n | none => t) s
  let t : State := { t with launches := t.launches.map (planLaunch plan) }
  let t := { t with mem := memSection t.mem k.save 65536 [] }
  let t := dropPick (setCtx t x { k with st := .running, saved := [], wakes := [] }) x
  let t := (ctxCores t x).foldl applyWakes t
  let t := (ctxCores t x).foldl applyCancels t
  if t.lu.busy = some (3, x) && k.held then beginSave t x else t

/-- A byte of the wake list or of a core block in use has an uncorrectable error. -/
def areaBad (s : State) (k : Ctx) : Bool :=
  isBad s.badMem k.save 65536 || k.saved.any fun v => isBad s.badMem (blockBase k.save v.core.block) blockBytes

/-- CONTEXT_RESTORE (R451, R465 to R467): a context chosen for restore goes onto its new cores once R452 finds them, and no
pick of a higher class still waits for its cores. -/
def execContextRestore (ctx : Nat) (s : State) : Host.Outcome State Fault Refusal :=
  if ctx ≥ 64 then .fault .noSuchUnit
  else .next (
    let k := ctxAt s ctx
    if k.st != .restoring || !(s.lu.picked.head?.any fun e => e.2 == (ctx, true)) then s
    else match ctxRecord s ctx with
      | none => restoreFails s ctx 0x03
      | some r =>
        let (dx, dy) := shiftOf r
        if areaBad s k then restoreFails s ctx 0x03
        else if k.saved.any fun v => v.model != deviceModel then restoreFails s ctx 0x04
        else if k.saved.any fun v => channelsBad s.mem 50000 (blockBase k.save v.core.block + 0x40000) then restoreFails s ctx 0x01
        else if shiftBad dx dy k.saved then restoreFails s ctx 0x02
        else match restorePlan (restoreFree s) (liveLaunches s ctx) [] with
          | none => s
          | some plan => restoreAll s ctx plan dx dy)

-- quiescence (R192) -----------------------------------------------------------------------------------------------

/-- The stream at port `x` is one whose generator has stopped at a fault (R192). -/
def portStopped (c : Core) (x : Nat) : Bool :=
  match (portAt c x).cur with
  | some (g, false) => (genAt c g).st == .parked
  | _ => false

/-- What leaves site (x, y) by one of `outs` comes to a port whose generator has stopped. -/
def leadsStopped (c : Core) (g : Config) (x y : Nat) (outs : List (Nat × Nat)) : Bool :=
  let all := fun (_ : Instr) => false
  let vs := outs.flatMap (leaveTo c g x y)
  (outs.map (fun o => (x, y, o)) ++ standOuts c all (flow c g all 2000 vs vs)).any fun z =>
    z.2.2.1 < 4 && match linkDest g z.1 z.2.1 z.2.2.1 with | .sp a => portStopped c a | _ => false

/-- No token of the list leaves by a word that does not lead to a stopped generator; `p` is the port at which they stand. -/
def queueStill (c : Core) (g : Config) (x y p : Nat) (q : List Tok) : Bool :=
  match q.filter fun t => !t.isMark with
  | [] => true
  | t :: _ => ((siteAt c x y).wordFor t.slot p).any fun w => leadsStopped c g x y (wordOuts t.slot w)

/-- Every token that a unit of the configuration holds in a store waits for a partner that is parked; nothing stands at its
slots' inputs or is ready. -/
def storeStill (c : Core) (u : FUnit) : Bool :=
  (u.store.all fun w => parkedPiece c w.tok.tags) && u.unitq.isEmpty && u.side.isEmpty && u.ready.isEmpty

/-- Every token of a configuration is in a park buffer, in a matching store where a parked partner is missing, or in a queue
behind a stopped generator (R192). -/
def cfgStill (c : Core) (g : Config) : Bool :=
  let own := fun (q : List Tok) => !(q.any fun t => !t.isMark && t.place == g.place)
  (c.sites.all fun e => e.2.place != g.place ||
    (storeStill c e.2 && (e.2.inq.all fun q => queueStill c g (e.1 % 8) (e.1 / 8) q.1 q.2) &&
     e.2.out.all fun o => o.2.isMark || leadsStopped c g (e.1 % 8) (e.1 / 8) [(o.1, o.2.slot)])) &&
  (c.nodes.all fun e => e.2.u.place != g.place || (storeStill c e.2.u && e.2.u.inq.all fun q => own q.2)) &&
  (c.ports.all fun e => (own e.2.q || portStopped c e.1) && own e.2.outq) && (c.mx.ports.all fun e => own e.2) &&
  (c.bs.exits.all fun e => e.2.inq.all (fun q => own q.2) && e.2.store.all fun w => w.tok.place != g.place) &&
  own c.relay.ndq && !(c.relay.owed.contains g.place) &&
  !(c.flights.any fun f => firePlace f.fire == g.place)

/-- Every source of a region whose tokens wait leads to a stopped generator. -/
def sourcesStill (c : Core) (g : Region) : Bool :=
  (List.range g.sources.length).all fun k =>
    match g.sources[k]? with
    | none => true
    | some q => !(q.q.any fun t => !t.isMark) || c.sites.any fun e => e.2.place == g.cfg.place && e.2.words.any fun w =>
        wordSource w.2 == some k && leadsStopped c g.cfg (e.1 % 8) (e.1 / 8) (wordOuts w.1 w.2)

/-- A region is at phase end, or every token it holds waits as R192 says. -/
def regionStill (c : Core) (g : Region) : Bool := atPhaseEnd g || ((regionCfgs g).all (cfgStill c) && sourcesStill c g)

/-- CORE_QUIESCENT (R192): the loader reports to the launch unit whether the core is quiescent for its context: every region is at
phase end or waits as R192 says, or, in a save, every unit has come to it and what its regions hold is recorded (R460; log
entry 69). A save swaps the core's configurations only at such a report. -/
def execCoreQuiescent (s : State) : Host.Outcome State Fault Refusal :=
  .next (updCur s fun c => { c with quiet := c.coh.isSome &&
    ((c.regions.all fun e => regionStill c e.2) || (c.saving && coreQuietToSave s s.core)) })

-- the ctx commands (R469) -----------------------------------------------------------------------------------------

/-- An eligible launch, or a runnable saved context, of class `cls` or higher cannot start now, and could with the cores of
context `x` free. -/
def someoneWaits (s : State) (x cls : Nat) : Bool :=
  let mine := ctxCores s x
  let more := fun (f : Nat → Bool) (n : Nat) => f n || mine.contains n
  (s.launches.any fun l => (ctxAt s l.ctx).cls ≤ cls && (readyHead s l.queue).any (fun k => k.id == l.id) &&
    (chainPred s l).isNone && (allocFor s l (coreFree s)).isNone && (allocFor s l (more (coreFree s))).isSome) ||
  (s.ctxs.any fun e => e.1 != x && e.2.cls ≤ cls && (e.2.st == .saved || e.2.st == .restoring) && !e.2.held && runnable e.2 &&
    (restorePlan (restoreFree s) (liveLaunches s e.1) []).isNone &&
    (restorePlan (more (restoreFree s)) (liveLaunches s e.1) []).isSome)

/-- The launch unit's answer to a `ctx` command. -/
def judgeCtx (s : State) (n : Nat) (m : Cmd) : State × Verdict :=
  match cmdCohort (coreAt s n) m with
  | none => (s, .refuse 0x02)
  | some h =>
    let x := ctxAt s h.ctx
    match m.op with
    | .ctxYield _ => if someoneWaits s h.ctx x.cls then (beginSave s h.ctx, .ok) else (s, .refuse 0x10)
    | .ctxMark _ => if x.st == .saving then (s, .refuse 0x11) else (beginSave s h.ctx, .ok)
    | _ => if m.only 1 0x1FF then (s, .ok) else (s, .refuse 0x02)

/-- `ctx.fault` once it has written rd: a software record, and the cohort's end with FATAL. -/
def runCtx (s : State) (n : Nat) (m : Cmd) : State :=
  match m.op with
  | .ctxFault _ _ _ =>
    finishCmd (faultAt s n (!m.prev)
      { Record.mk' 0x14 7 (m.fld 1 0 8) (m.fld 1 8 1 == 1) with addr := m.opnd 2 }) n m.id
  | _ => finishCmd s n m.id

end Sys2Proof.Machine
end

