-- ==== Sys2Proof/Machine/Commands.lean ====
section
/-! DEFINITION. Engine commands (R29, R30, R105, R106, R158): issue by the sequencer, acceptance by each engine in issue
order, completion on pennants, replay of parked faults (R193). -/

namespace Sys2Proof.Machine

-- acceptance (R30) ------------------------------------------------------------------------------------------------

/-- The engine's answer to the command at the head of its queue. -/
def judge (s : State) (n : Nat) (m : Cmd) : State × Verdict :=
  match engineOf m.op with
  | 0 => judgeLoader s n m
  | 1 => judgeStream s n m
  | 2 => judgeMatrix s n m
  | 3 => judgeSched s n m
  | 4 => judgeHome s n m
  | 5 => judgeCapacity s n m
  | 6 => (s, .ok)
  | _ => judgeCtx s n m

/-- The work that an engine begins when it accepts a command. -/
def runCmd (s : State) (n : Nat) (m : Cmd) : State :=
  match engineOf m.op with
  | 0 => runLoader s n m
  | 1 => runStream s n m
  | 2 => runMatrix s n m
  | 3 => runSched s n m
  | 4 => finishCmd s n m.id
  | 5 => s
  | 6 => runRelay s n m
  | _ => runCtx s n m

/-- Generator and port that a record of a stream command names (R328, R455). -/
def boundSp (m : Cmd) : Nat := m.fld 2 0 4 + 16 * genPort (boundGen m [] [])

/-- An engine serves the command at the head of its queue, unless its pennant's count stands at 255 (R158); true when the ones
behind it may follow. -/
def serveCmd (s : State) (n : Nat) (m : Cmd) : State × Bool :=
  if pennantFull (coreAt s n) m.pen then (s, false)
  else match judge s n m with
  | (s, .wait) => (s, false)
  | (s, .refuse z) => (demandFails (refuseCmd s n m z) n m z, true)
  | (s, .take v) => (runCmd (takeCmd s n m v) n m, true)
  | (s, .park va e) => (parkCmd s n m va e, false)
  | (s, .fault k e a) => (cmdFault s n m { Record.mk' k (engineUnit (engineOf m.op)) e true with addr := a, sp := boundSp m }, false)

/-- A command that its engine has still to accept, whose cohort has not ended fatally (R133). -/
def acceptable (c : Core) (m : Cmd) : Bool :=
  m.rdWait && m.phase == .issued && (match cmdCohort c m with | some h => !h.fatal | none => false)

/-- One engine goes through the commands `ids` of its queue in issue order (R30). -/
def pumpEngine (n : Nat) : List Nat → State → State
  | [], s => s
  | id :: rest, s =>
    match cmdAt (coreAt s n) id with
    | none => pumpEngine n rest s
    | some m =>
      if !(acceptable (coreAt s n) m) then s
      else match serveCmd s n m with
        | (s, true) => pumpEngine n rest s
        | (s, false) => s

/-- Commands of engine `e` that wait for acceptance, in issue order. -/
def queueOf (c : Core) (e : Nat) : List Nat := (c.cmds.filter fun m => m.rdWait && engineOf m.op == e).map (·.id)

/-- Every engine of core `n` serves its queue. -/
def pump (s : State) (n : Nat) : State := (List.range 8).foldl (fun s e => pumpEngine n (queueOf (coreAt s n) e) s) s

-- issue (R105) ----------------------------------------------------------------------------------------------------

/-- A command as issued: operands 1 and up read from `rs`, under the default rounding mode of now (R56). -/
def newCmd (c : Core) (id : Nat) (d : Reg) (rs : List Reg) (p : Option Nat) (op : Instr) : Cmd :=
  { id := id, op := op, ops := rs.map (getX c.seq), rd := d, rdWait := true, pen := p, mode := c.seq.fpdef.toNat,
    phase := .issued, record := false, value := 0, prev := false }

/-- The core after it has issued command `m`. -/
def issueCore (c : Core) (m : Cmd) : Core := { c with seq := { c.seq with pc := c.seq.pc + 4 }, cmds := c.cmds ++ [m] }

/-- Issues an engine command (R105, R158): it waits while its pennant's count is 255; the sequencer then goes on, and the
engines serve their queues. -/
def issue (d : Reg) (rs : List Reg) (p : Option Nat) (op : Instr) (s : State) : State :=
  onIssue s (d :: rs) fun s c =>
    if pennantFull c p then setCur s { c with seq := { c.seq with st := .wait } }
    else pump (setCur { s with nextId := s.nextId + 1 } (issueCore c (newCmd c s.nextId d rs p op))) s.core

-- completion (R158) -----------------------------------------------------------------------------------------------

/-- An accepted command that its engine can find at its end. -/
def pollCmd (s : State) (n : Nat) (m : Cmd) : State :=
  match engineOf m.op with
  | 0 => pollLoader s n m
  | 5 => pollCapacity s n m
  | 6 => pollRelay s n m
  | _ => s

/-- COMMAND_COMPLETE (R158): a command whose work is done leaves its pennant; the engines then serve their queues. -/
def execCommandComplete (cmd : Nat) (s : State) : Host.Outcome State Fault Refusal :=
  .next (
    let n := s.core
    let s := match cmdAt (cur s) cmd with
      | some m => if m.phase == .running then pollCmd s n m else s
      | none => s
    let s := match cmdAt (cur s) cmd with
      | some m => if m.phase == .finished && !m.rdWait then completeCmd s n cmd else s
      | none => s
    pump s n)

-- replay of parked faults (R193) ----------------------------------------------------------------------------------

/-- A parked piece at node `x` makes its access again. -/
def replayPiece (s : State) (n x : Nat) (f : Fire) : State :=
  match decodeOp ((unitAt (coreAt s n) (.mn x)).slot f.slot).word0 with
  | .error _ => s
  | .ok i => match formOf i with
    | some fm => nodeAccess s n x fm f
    | none => mwaituAccess s n x i f

/-- A parked command goes on: one not yet accepted is judged again. -/
def replayCmd (s : State) (n id : Nat) : State :=
  match cmdAt (coreAt s n) id with
  | none => s
  | some m =>
    if m.rdWait then pump (updCmd s n id fun m => { m with phase := .issued }) n
    else runCmd (updCmd s n id fun m => { m with phase := .running }) n { m with phase := .running }

/-- The waiter of a parked fault goes on. -/
def replayWho (s : State) (n : Nat) (who : Parker) : State :=
  match who with
  | .sequencer => updCore s n fun c => { c with seq := { c.seq with
      st := if c.seq.st == .stall then .run else c.seq.st, held := if c.seq.held == .stall then .run else c.seq.held } }
  | .piece x f => replayPiece s n x f
  | .generator g => replayGen s n g
  | .command id => replayCmd s n id
  | .directory _ => s

/-- The waiter can make its access now: a generator's decoupling queue has room for the element (R305). -/
def mayReplay (s : State) (n : Nat) (who : Parker) : Bool :=
  match who with
  | .generator g =>
    let t := replayGen s n g
    let v := genAt (coreAt t n) g
    let w := genAt (coreAt s n) g
    v.st == .parked || !(genLive (coreAt t n) v) || v.doneN != w.doneN || v.slice != w.slice || v.header != w.header || v.stopped
  | _ => true

/-- FAULT_REPLAY (R193): a parked fault with a replay answer walks again; it performs once or parks again. -/
def execFaultReplay (idx : Nat) (s : State) : Host.Outcome State Fault Refusal :=
  .next (
    let c := cur s
    match c.parked[idx]? with
    | none => s
    | some p =>
      if p.answer ≠ 1 || !(mayReplay s s.core p.who) then s
      else replayWho (setCur s { c with parked := dropNth c.parked idx }) s.core p.who)

-- the configuration loader (R169) -------------------------------------------------------------------------------------

/-- `cfg.fetch`. -/
def execCfgFetch (d a b : Reg) (p : Pen) (s : State) : Host.Outcome State Fault Refusal :=
  .next (issue d [a, b] (some p.toNat) (.cfgFetch d a b p) s)

/-- `cfg.place`. -/
def execCfgPlace (d a b : Reg) (p : Pen) (s : State) : Host.Outcome State Fault Refusal :=
  .next (issue d [a, b] (some p.toNat) (.cfgPlace d a b p) s)

/-- `cfg.stitch`. -/
def execCfgStitch (d a b : Reg) (p : Pen) (s : State) : Host.Outcome State Fault Refusal :=
  .next (issue d [a, b] (some p.toNat) (.cfgStitch d a b p) s)

/-- `cfg.start`. -/
def execCfgStart (d a b : Reg) (s : State) : Host.Outcome State Fault Refusal :=
  .next (issue d [a, b] none (.cfgStart d a b) s)

/-- `cfg.splice`. -/
def execCfgSplice (d a b : Reg) (p : Pen) (s : State) : Host.Outcome State Fault Refusal :=
  .next (issue d [a, b] (some p.toNat) (.cfgSplice d a b p) s)

/-- `cfg.drain`. -/
def execCfgDrain (d a : Reg) (p : Pen) (s : State) : Host.Outcome State Fault Refusal :=
  .next (issue d [a] (some p.toNat) (.cfgDrain d a p) s)

/-- `cfg.evict`. -/
def execCfgEvict (d a : Reg) (s : State) : Host.Outcome State Fault Refusal :=
  .next (issue d [a] none (.cfgEvict d a) s)

/-- `cfg.patch`. -/
def execCfgPatch (d a b : Reg) (s : State) : Host.Outcome State Fault Refusal :=
  .next (issue d [a, b] none (.cfgPatch d a b) s)

/-- `cfg.inv`. -/
def execCfgInv (d a b : Reg) (p : Pen) (s : State) : Host.Outcome State Fault Refusal :=
  .next (issue d [a, b] (some p.toNat) (.cfgInv d a b p) s)

-- the stream engine (R310) --------------------------------------------------------------------------------------------

/-- `sx.bind`. -/
def execSxBind (d a b : Reg) (p : Pen) (s : State) : Host.Outcome State Fault Refusal :=
  .next (issue d [a, b] (some p.toNat) (.sxBind d a b p) s)

/-- `sx.go`. -/
def execSxGo (d a : Reg) (s : State) : Host.Outcome State Fault Refusal :=
  .next (issue d [a] none (.sxGo d a) s)

/-- `sx.bar`. -/
def execSxBar (d a : Reg) (p : Pen) (s : State) : Host.Outcome State Fault Refusal :=
  .next (issue d [a] (some p.toNat) (.sxBar d a p) s)

/-- `sx.mcast`. -/
def execSxMcast (d a b : Reg) (p : Pen) (s : State) : Host.Outcome State Fault Refusal :=
  .next (issue d [a, b] (some p.toNat) (.sxMcast d a b p) s)

/-- `sx.stop`. -/
def execSxStop (d a : Reg) (s : State) : Host.Outcome State Fault Refusal :=
  .next (issue d [a] none (.sxStop d a) s)

/-- `sx.query`. -/
def execSxQuery (d a : Reg) (s : State) : Host.Outcome State Fault Refusal :=
  .next (issue d [a] none (.sxQuery d a) s)

/-- `sx.sparse`. -/
def execSxSparse (d a b : Reg) (p : Pen) (s : State) : Host.Outcome State Fault Refusal :=
  .next (issue d [a, b] (some p.toNat) (.sxSparse d a b p) s)

/-- `sx.remote`. -/
def execSxRemote (d a b : Reg) (p : Pen) (s : State) : Host.Outcome State Fault Refusal :=
  .next (issue d [a, b, a + 1] (some p.toNat) (.sxRemote d a b p) s)

/-- `sx.wbload`. -/
def execSxWbload (d a b : Reg) (p : Pen) (s : State) : Host.Outcome State Fault Refusal :=
  .next (issue d [a, b] (some p.toNat) (.sxWbload d a b p) s)

/-- `sx.tile`. -/
def execSxTile (d a b : Reg) (p : Pen) (s : State) : Host.Outcome State Fault Refusal :=
  .next (issue d [a, b] (some p.toNat) (.sxTile d a b p) s)

-- the matrix engine (R345) --------------------------------------------------------------------------------------------

/-- `mx.zero`. -/
def execMxZero (d a : Reg) (p : Pen) (s : State) : Host.Outcome State Fault Refusal :=
  .next (issue d [a] (some p.toNat) (.mxZero d a p) s)

/-- `mx.move`. -/
def execMxMove (d a : Reg) (p : Pen) (s : State) : Host.Outcome State Fault Refusal :=
  .next (issue d [a] (some p.toNat) (.mxMove d a p) s)

/-- `mx.ldsh`. -/
def execMxLdsh (d a b : Reg) (p : Pen) (s : State) : Host.Outcome State Fault Refusal :=
  .next (issue d [a, b] (some p.toNat) (.mxLdsh d a b p) s)

/-- `mx.ldwd`. -/
def execMxLdwd (d a b : Reg) (p : Pen) (s : State) : Host.Outcome State Fault Refusal :=
  .next (issue d [a, b] (some p.toNat) (.mxLdwd d a b p) s)

/-- `mx.tag`. -/
def execMxTag (d a : Reg) (s : State) : Host.Outcome State Fault Refusal :=
  .next (issue d [a] none (.mxTag d a) s)

-- the block scheduler (R372) ------------------------------------------------------------------------------------------

/-- `bs.query`. -/
def execBsQuery (d a : Reg) (s : State) : Host.Outcome State Fault Refusal :=
  .next (issue d [a] none (.bsQuery d a) s)

/-- `bs.seed`. -/
def execBsSeed (d a b : Reg) (s : State) : Host.Outcome State Fault Refusal :=
  .next (issue d [a, b] none (.bsSeed d a b) s)

/-- `bs.policy`. -/
def execBsPolicy (d a b : Reg) (s : State) : Host.Outcome State Fault Refusal :=
  .next (issue d [a, b] none (.bsPolicy d a b) s)

/-- `bs.uniform`. -/
def execBsUniform (d a : Reg) (s : State) : Host.Outcome State Fault Refusal :=
  .next (issue d [a] none (.bsUniform d a) s)

/-- `bs.round`. -/
def execBsRound (d a : Reg) (p : Pen) (s : State) : Host.Outcome State Fault Refusal :=
  .next (issue d [a] (some p.toNat) (.bsRound d a p) s)

-- the home slices (R384, R407) ----------------------------------------------------------------------------------------

/-- `wcancel`. -/
def execWcancel (d a b : Reg) (s : State) : Host.Outcome State Fault Refusal :=
  .next (issue d [a, b] none (.wcancel d a b) s)

/-- `cpin`. -/
def execCpin (d a : Reg) (s : State) : Host.Outcome State Fault Refusal :=
  .next (issue d [a] none (.cpin d a) s)

/-- `cunpin`. -/
def execCunpin (d a : Reg) (s : State) : Host.Outcome State Fault Refusal :=
  .next (issue d [a] none (.cunpin d a) s)

-- the capacity tier (R415) --------------------------------------------------------------------------------------------

/-- `emb.pool`. -/
def execEmbPool (d a b : Reg) (p : Pen) (s : State) : Host.Outcome State Fault Refusal :=
  .next (issue d [a, b, a + 1] (some p.toNat) (.embPool d a b p) s)

/-- `emb.gather`. -/
def execEmbGather (d a b : Reg) (p : Pen) (s : State) : Host.Outcome State Fault Refusal :=
  .next (issue d [a, b, a + 1] (some p.toNat) (.embGather d a b p) s)

/-- `emb.scatadd`. -/
def execEmbScatadd (d a b : Reg) (p : Pen) (s : State) : Host.Outcome State Fault Refusal :=
  .next (issue d [a, b, a + 1] (some p.toNat) (.embScatadd d a b p) s)

-- the relay (R437) ----------------------------------------------------------------------------------------------------

/-- `nb.drain`. -/
def execNbDrain (d : Reg) (p : Pen) (s : State) : Host.Outcome State Fault Refusal :=
  .next (issue d [] (some p.toNat) (.nbDrain d p) s)

-- the launch unit (R469) ----------------------------------------------------------------------------------------------

/-- `ctx.yield`. -/
def execCtxYield (d : Reg) (s : State) : Host.Outcome State Fault Refusal :=
  .next (issue d [] none (.ctxYield d) s)

/-- `ctx.mark`. -/
def execCtxMark (d : Reg) (s : State) : Host.Outcome State Fault Refusal :=
  .next (issue d [] none (.ctxMark d) s)

/-- `ctx.fault`. -/
def execCtxFault (d a b : Reg) (s : State) : Host.Outcome State Fault Refusal :=
  .next (issue d [a, b] none (.ctxFault d a b) s)

end Sys2Proof.Machine
end

