-- ==== Sys2Proof/Machine/Module.lean ====
section
/-! DEFINITION. The module (section 19): reset, the management window, the host port, halyard windows, trust core, limits,
out-of-band management. -/

namespace Sys2Proof.Machine

-- reset (R470) ----------------------------------------------------------------------------------------------------

/-- First host address (R76). -/
def hostBase : Nat := 2 ^ 51

/-- A module reset (R470): every register at its Reset value, every context FREE, HBM and capacity tier zero; a staged image
is in flash from here on (R478). Host memory, the host link and, but for power-on, the sideband log and the contents of core
SRAMs stay. -/
def resetModule (s : State) (powerOn : Bool) : State :=
  let keep := fun (c : Core) =>
    { Core.reset with
      scratch := c.scratch, badScratch := c.badScratch, badTile := c.badTile, badWeight := c.badWeight, badBank := c.badBank
      badLink := c.badLink, badScan := c.badScan }
  let log := if powerOn then [] else s.trust.log
  let next := if powerOn then 0 else s.trust.logNext
  let tr : Trust := { Trust.reset with log := log, logNext := next, tick := s.trust.tick, cycles := if powerOn then 0 else s.trust.cycles }
  { State.reset with
    core := s.core, locus := s.locus, agenda := s.agenda, nextId := s.nextId, hostData := s.hostData, peerOut := s.peerOut, mctpOut := s.mctpOut
    cores := if powerOn then [] else s.cores.map fun e => (e.1, keep e.2)
    mem := s.mem.filter fun p => hostBase ≤ p.1
    badMem := s.badMem.filter (hostBase ≤ ·)
    badHbm := []
    mod := { Module.reset with link := s.mod.link, flash := s.trust.staged.getD s.mod.flash }
    trust := tr }

/-- MODULE_RESET (R470): power-on, a CXL conventional reset, or MOD_RESET.GO. -/
def execModuleReset (cause : ResetCause) (s : State) : Host.Outcome State Fault Refusal :=
  .next (
    match cause with
    | .powerOn => resetModule s true
    | .cxl => resetModule s false
    | .modReset => mgmt s fun s => resetModule s false)

/-- TRUST_BOOT (R478): the ROM's three checks; service firmware starts and the window opens, or the module stays in
recovery and the refusal is logged (R484). -/
def execTrustBoot (s : State) : Host.Outcome State Fault Refusal :=
  .next (
    if s.trust.mode != .boot then s
    else
      let img := s.mod.flash
      let d := Config.digest img
      if Config.signatureOk img d && decide (Config.fusedMinimum ≤ (Config.imageVersion img).toNat) then
        { s with
          mod := { s.mod with window := true }
          trust := { s.trust with mode := .running, digest := d, svn := Config.imageVersion img } }
      else logEvent { s with trust := { s.trust with mode := .recovery, digest := d } } 4 0 0)

-- the management window (R472, R473, R440) ------------------------------------------------------------------------

/-- FEAT words (R473). -/
def featWord (n : Nat) : W32 := if n = 0 then 0x1F else 0

/-- A write of FACCn (R474). -/
def writeFacc (s : State) (n : Nat) (v : Word) : State :=
  if s.lu.en then s else { s with mod := { s.mod with facc := s.mod.facc.set n (v.setWidth 32 &&& featWord n) } }

/-- A write of LU_CTL (R440, R474): EN, which 1 sets only while FACC0 bit 0 is 1; going from 0 to 1 captures FACC. -/
def writeLuCtl (s : State) (v : Word) : State :=
  if !v.getLsbD 0 then { s with lu := { s.lu with en := false } }
  else if s.lu.en || !(nthD s.mod.facc 0 0).getLsbD 0 then s
  else { s with lu := { s.lu with en := true }, mod := { s.mod with feat := some s.mod.facc } }

/-- A write of LU_FRING: LOG2N outside 5 to 20 stays, BASE is written (R440). -/
def writeFring (s : State) (v : Word) : State :=
  let n := v.toNat % 32
  { s with lu := { s.lu with
    fringLog := if 5 ≤ n && n ≤ 20 then n else s.lu.fringLog, fringBase := v.toNat / 2 ^ 12 % 2 ^ 40 * 2 ^ 12 } }

/-- A write of launch-unit register `r` (R440). -/
def writeLu (s : State) (r : Nat) (v : Word) : State :=
  let u := s.lu
  match r with
  | 0x00 => writeLuCtl s v
  | 0x08 => if u.en then s else { s with lu := { u with ctxtab := v.toNat / 2 ^ 12 % 2 ^ 40 * 2 ^ 12 } }
  | 0x10 => if u.en then s else { s with lu := { u with qtab := v.toNat / 2 ^ 11 % 2 ^ 41 * 2 ^ 11 } }
  | 0x18 => if u.en then s else writeFring s v
  | 0x20 => { s with lu := { u with fnote := v.toNat / 8 % 2 ^ 49 * 8 } }
  | 0x30 => { s with lu := { u with fcons := v.setWidth 32 } }
  | 0x38 => { s with lu := { u with rsv0 := v.setWidth 48 } }
  | 0x40 => { s with lu := { u with rsv1 := v.setWidth 48 } }
  | 0x48 => { s with lu := { u with arg0 := v } }
  | 0x50 => { s with lu := { u with arg1 := v } }
  | 0x58 => luCommand s v
  | _ => s

/-- A write of MOD_CLK (R473). -/
def writeClk (s : State) (v : Word) : State := { s with mod := { s.mod with clkReq := v } }
/-- A write of MOD_ERR: each 1 clears its bit (R8, R473). -/
def writeErr (s : State) (v : Word) : State := { s with mod := { s.mod with err := s.mod.err &&& ~~~v.setWidth 4 } }

/-- A write of a module register (R473). -/
def writeMod (s : State) (r : Nat) (v : Word) : State :=
  match r with
  | 0x20 => writeFacc s 0 v | 0x28 => writeFacc s 1 v | 0x30 => writeFacc s 2 v | 0x38 => writeFacc s 3 v
  | 0x40 => writeClk s v
  | 0x48 => if v.getLsbD 0 then resetModule s false else s
  | 0x50 => writeErr s v
  | _ => s

/-- A write of register `r` of halyard port `p` (R476). -/
def writePort (s : State) (p r : Nat) (v : Word) : State :=
  if r < 0x100 || r ≥ 0x200 then s
  else
    let k := 16 * p + (r - 0x100) / 16
    if r % 16 = 0 then { s with mod := { s.mod with wins := mapSet s.mod.wins k (v &&& 0x000FFFFFFFFF0007#64) } }
    else { s with mod := { s.mod with lens := mapSet s.mod.lens k (v &&& 0xFFFFFFFF#64) } }

/-- A write of register `r` of home slice `n` (R395). -/
def writeSlice (s : State) (n r : Nat) (v : Word) : State :=
  match r with
  | 0x0 => writeWcfg s n v
  | 0x8 => writeSpbase s n v
  | _ => s

/-- An aligned write of 64 bits at offset `off` of the management window (R472). -/
def writeWindow (s : State) (off : Nat) (v : Word) : State :=
  if off % 8 ≠ 0 then s
  else if off < 0x1000 then writeMod s off v
  else if off < 0x2000 then writeLu s (off - 0x1000) v
  else if 0x10000 ≤ off && off < 0x14000 then writeHomeMap s ((off - 0x10000) / 8) v
  else if 0x20000 ≤ off && off < 0x2C000 then writePort s ((off - 0x20000) / 0x1000) ((off - 0x20000) % 0x1000) v
  else if 0x100000 ≤ off && off < 0x200000 then writeSlice s ((off - 0x100000) / 0x1000) ((off - 0x100000) % 0x1000) v
  else s

/-- A read of module register `r` (R473): FEAT is what the part has, MOD_RESET is write-only. -/
def readMod (s : State) (r : Nat) : Word :=
  match r with
  | 0x00 => (featWord 0).setWidth 64 | 0x08 => (featWord 1).setWidth 64
  | 0x10 => (featWord 2).setWidth 64 | 0x18 => (featWord 3).setWidth 64
  | 0x20 => (nthD s.mod.facc 0 0).setWidth 64 | 0x28 => (nthD s.mod.facc 1 0).setWidth 64
  | 0x30 => (nthD s.mod.facc 2 0).setWidth 64 | 0x38 => (nthD s.mod.facc 3 0).setWidth 64
  | 0x40 => s.mod.clkReq
  | 0x50 => s.mod.err.setWidth 64
  | _ => 0

/-- A read of launch-unit register `r` (R440): LU_CMD is write-only. -/
def readLu (s : State) (r : Nat) : Word :=
  let u := s.lu
  match r with
  | 0x00 => BitVec.ofNat 64 u.en.toNat
  | 0x08 => BitVec.ofNat 64 u.ctxtab
  | 0x10 => BitVec.ofNat 64 u.qtab
  | 0x18 => BitVec.ofNat 64 (u.fringLog + u.fringBase)
  | 0x20 => BitVec.ofNat 64 u.fnote
  | 0x28 => u.fprod.setWidth 64
  | 0x30 => u.fcons.setWidth 64
  | 0x38 => u.rsv0.setWidth 64
  | 0x40 => u.rsv1.setWidth 64
  | 0x48 => u.arg0
  | 0x50 => u.arg1
  | 0x60 => BitVec.ofNat 64 (u.busy.isSome.toNat + u.status.toNat * 2 ^ 8)
  | _ => 0

/-- A read of register `r` of halyard port `p` (R476). -/
def readPort (s : State) (p r : Nat) : Word :=
  if r < 0x100 || r ≥ 0x200 then 0
  else mapGetD (if r % 16 = 0 then s.mod.wins else s.mod.lens) (16 * p + (r - 0x100) / 16) 0

/-- A read of register `r` of home slice `n` (R395). -/
def readSlice (s : State) (n r : Nat) : Word :=
  let sl := sliceAt s n
  match r with
  | 0x0 => BitVec.ofNat 64 (sl.wlimit + sl.spen.toNat * 2 ^ 16 + sl.log2nb * 2 ^ 17)
  | 0x8 => BitVec.ofNat 64 sl.spbase
  | 0x10 => BitVec.ofNat 64 (sl.onchip.length + sl.spill.length * 2 ^ 16 + sl.sweep * 2 ^ 48)
  | _ => 0

/-- An aligned read of 64 bits at offset `off` of the management window; an unassigned offset returns zero (R472). -/
def readWindow (s : State) (off : Nat) : Word :=
  if off % 8 ≠ 0 then 0
  else if off < 0x1000 then readMod s off
  else if off < 0x2000 then readLu s (off - 0x1000)
  else if 0x10000 ≤ off && off < 0x14000 then mapGetD s.homeMap ((off - 0x10000) / 8) 0
  else if 0x20000 ≤ off && off < 0x2C000 then readPort s ((off - 0x20000) / 0x1000) ((off - 0x20000) % 0x1000)
  else if 0x100000 ≤ off && off < 0x200000 then readSlice s ((off - 0x100000) / 0x1000) ((off - 0x100000) % 0x1000)
  else 0

/-- A read of 64 bits at offset `off` of BAR2 (R481): MB_CMD is write-only, and a command is complete at once. -/
def readMailbox (s : State) (off : Nat) : Word :=
  if off = 8 then BitVec.ofNat 64 (s.trust.mbCode.toNat * 2 ^ 8 + s.trust.mbLen * 2 ^ 16)
  else if 0x1000 ≤ off && off + 8 ≤ 0x10000 then BitVec.ofNat 64 (memNat s.trust.payload (off - 0x1000) 8)
  else 0

/-- The host reads 64 bits: an offset below 16 MiB lies in BAR0, which answers nothing before the ROM has run (R470) and
zero in recovery (R478); the 64 KiB above stand for BAR2. -/
def hostRead (s : State) (off : Nat) : State :=
  match s.trust.mode with
  | .boot => s
  | _ =>
    let v := if off ≥ 2 ^ 24 then readMailbox s (off - 2 ^ 24) else if s.mod.window then readWindow s off else 0
    { s with hostData := leBytes 8 v.toNat }

/-- A corrected memory error sets MOD_ERR.CE and changes no data (R473). -/
def correctedError (s : State) : State := { s with mod := { s.mod with err := s.mod.err ||| 1 } }

/-- An access of the trust core's own code to one of its partitions (R478, R479): trusted code reaches both, service firmware
only its own. -/
def trustAccess (s : State) (trusted secure : Bool) (addr : Nat) (op : MemOp) : State :=
  let size := if secure then 2 ^ 18 else 2 ^ 21
  let m := if secure then s.trust.secure else s.trust.ram
  let may := trusted || (!secure && s.trust.mode == .running)
  match op with
  | .read n => if may && decide (addr + n ≤ size) then { s with hostData := memRead m addr n } else s
  | .write b =>
    if !may || decide (addr + b.length > size) then s
    else if secure then { s with trust := { s.trust with secure := memWrite m addr b } }
    else { s with trust := { s.trust with ram := memWrite m addr b } }

/-- LU_CTL_WRITE (R440, R474). -/
def execLuCtlWrite (v : Word) (s : State) : Host.Outcome State Fault Refusal := .next (mgmt s fun s => writeLuCtl s v)
/-- LU_FCONS_WRITE (R440, R457). -/
def execLuFconsWrite (v : Word) (s : State) : Host.Outcome State Fault Refusal := .next (mgmt s fun s => writeLu s 0x30 v)
/-- MOD_CLK_WRITE (R473). -/
def execModClkWrite (v : Word) (s : State) : Host.Outcome State Fault Refusal := .next (mgmt s fun s => writeClk s v)

-- the trust mailbox (R480, R481) ----------------------------------------------------------------------------------

/-- Ends a mailbox command: CODE, LEN, and the payload it wrote. -/
def mbDone (s : State) (code : Byte) (out : List Byte) : State :=
  { s with trust := { s.trust with mbCode := code, mbLen := out.length, payload := memWrite s.trust.payload 0 out } }

/-- A mailbox command is answered once the ROM has run; in recovery only those of `always` act (R481). -/
def mailbox (s : State) (always : Bool) (f : State → State) : State :=
  match s.trust.mode with
  | .boot => s
  | .recovery => if always then f s else mbDone s 0x03 []
  | .running => f s

/-- Grant entry `i`. -/
def grantAt (s : State) (i : Nat) : Word × Word := mapGetD s.trust.grants i (0, 0)
/-- A grant entry keeps its map and lies in the HBM range (R481). -/
def grantOk (a b : Word) : Bool :=
  rfld [a] 0 3 13 == 0 && rfld [a] 0 52 12 == 0 && rfld [b] 0 36 28 == 0 &&
  decide (rfld [a] 0 16 36 * 65536 + rfld [b] 0 0 36 * 65536 ≤ 2 ^ 41)

/-- GRANT_SET (R481). -/
def mbGrantSet (s : State) (arg : BitVec 56) : State :=
  mailbox s false fun s =>
    let a : Word := BitVec.ofNat 64 (memNat s.trust.payload 0 8)
    let b : Word := BitVec.ofNat 64 (memNat s.trust.payload 8 8)
    if arg.toNat ≥ 16 || !(grantOk a b) then mbDone s 0x02 []
    else mbDone { s with trust := { s.trust with grants := mapSet s.trust.grants arg.toNat (a, b) } } 0x00 []

/-- GRANT_READ (R481). -/
def mbGrantRead (s : State) (arg : BitVec 56) : State :=
  mailbox s false fun s =>
    if arg.toNat ≥ 16 then mbDone s 0x02 []
    else let g := grantAt s arg.toNat; mbDone s 0x00 (leBytes 8 g.1.toNat ++ leBytes 8 g.2.toNat)

/-- GRANT_CLEAR (R481). -/
def mbGrantClear (s : State) (arg : BitVec 56) : State :=
  mailbox s false fun s =>
    if arg != 0 then mbDone s 0x02 []
    else mbDone { s with trust := { s.trust with grants := s.trust.grants.map fun e => (e.1, (e.2.1 &&& ~~~1#64, e.2.2)) } } 0x00 []

/-- Bytes 0 to 119 of the report of R480. -/
def reportBody (s : State) (nonce : List Byte) : List Byte :=
  leBytes 4 1 ++ leBytes 4 s.trust.svn.toNat ++ (List.range 32).map (nthD nonce · 0) ++ (List.range 64).map (nthD s.trust.digest · 0) ++
  leBytes 8 (csrValue 0 Core.reset 0x08).toNat ++ leBytes 8 (match s.mod.feat with | some f => (nthD f 0 0).toNat | none => 0)
/-- The attestation report (R480). -/
def report (s : State) (nonce : List Byte) : List Byte := reportBody s nonce ++ Config.signature (reportBody s nonce)

/-- Entries of the sideband log from number `i` on, at most 256, in order (R481, R484). -/
def logFrom (s : State) (i : Nat) : List (Word × Word) :=
  s.trust.log.filter fun e => decide ((e.1.toNat / 2 ^ 16 % 2 ^ 16 + 2 ^ 16 - i) % 2 ^ 16 < 2 ^ 15)

/-- What ATTEST answers: a status and bytes. -/
def attestAnswer (s : State) (arg : BitVec 56) (nonce : List Byte) : Byte × List Byte :=
  if arg != 0 then (0x02, []) else (0x00, report s nonce)
/-- What IDKEY answers. -/
def idkeyAnswer (arg : BitVec 56) : Byte × List Byte := if arg != 0 then (0x02, []) else (0x00, Config.idKey)
/-- What LOG_READ answers. -/
def logAnswer (s : State) (arg : BitVec 56) : Byte × List Byte :=
  if arg.toNat ≥ 2 ^ 16 then (0x02, [])
  else (0x00, (logFrom s arg.toNat).flatMap fun e => leBytes 8 e.1.toNat ++ leBytes 8 e.2.toNat)

/-- Hands an answer to the mailbox, or over MCTP, each with its status (R481). -/
def trustAnswer (s : State) (mctp : Bool) (f : State → Byte × List Byte) : State :=
  mailbox s true fun s => if mctp then { s with mctpOut := (f s).2, trust := { s.trust with mctpCode := (f s).1 } } else mbDone s (f s).1 (f s).2

/-- GRANT_SET. -/
def execGrantSet (arg : BitVec 56) (s : State) : Host.Outcome State Fault Refusal := .next (mbGrantSet s arg)
/-- GRANT_READ. -/
def execGrantRead (arg : BitVec 56) (s : State) : Host.Outcome State Fault Refusal := .next (mbGrantRead s arg)
/-- GRANT_CLEAR. -/
def execGrantClear (arg : BitVec 56) (s : State) : Host.Outcome State Fault Refusal := .next (mbGrantClear s arg)
/-- ATTEST (R480, R481): by mailbox the nonce stands in payload bytes 0 to 31. -/
def execAttest (mctp : Bool) (arg : BitVec 56) (nonce : List Byte) (s : State) : Host.Outcome State Fault Refusal :=
  .next (
    let s := if mctp then s else { s with trust := { s.trust with payload := memWrite s.trust.payload 0 (nonce.take 32) } }
    trustAnswer s mctp fun s => attestAnswer s arg (if mctp then nonce else memRead s.trust.payload 0 32))
/-- IDKEY (R481). -/
def execIdkey (mctp : Bool) (arg : BitVec 56) (s : State) : Host.Outcome State Fault Refusal :=
  .next (trustAnswer s mctp fun _ => idkeyAnswer arg)
/-- LOG_READ (R481, R484). -/
def execLogRead (mctp : Bool) (arg : BitVec 56) (s : State) : Host.Outcome State Fault Refusal :=
  .next (trustAnswer s mctp fun s => logAnswer s arg)

/-- A write of MB_CMD (R481). -/
def writeMbCmd (s : State) (v : Word) : State :=
  let arg : BitVec 56 := v.extractLsb' 8 56
  match v.toNat % 256 with
  | 0x01 => mbGrantSet s arg | 0x02 => mbGrantRead s arg | 0x03 => mbGrantClear s arg
  | 0x10 => trustAnswer s false fun s => attestAnswer s arg (memRead s.trust.payload 0 32)
  | 0x11 => trustAnswer s false fun _ => idkeyAnswer arg
  | 0x20 => trustAnswer s false fun s => logAnswer s arg
  | _ => mailbox s true fun s => mbDone s 0x01 []

/-- A write of 64 bits at offset `off` of BAR2 (R471, R481). -/
def writeMailbox (s : State) (off : Nat) (v : Word) : State :=
  if s.trust.mode == .boot then s
  else if off = 0 then writeMbCmd s v
  else if 0x1000 ≤ off && off + 8 ≤ 0x10000 then
    { s with trust := { s.trust with payload := memWrite s.trust.payload (off - 0x1000) (leBytes 8 v.toNat) } }
  else s

/-- REGISTER_WRITE (R8, R472): an offset below 16 MiB lies in BAR0; the 64 KiB above stand for BAR2. -/
def execRegisterWrite (off : Nat) (v : Word) (s : State) : Host.Outcome State Fault Refusal :=
  .next (if off < 2 ^ 24 then mgmt s fun s => writeWindow s off v else writeMailbox s (off - 2 ^ 24) v)

-- service firmware (R479) -----------------------------------------------------------------------------------------

/-- Some grant gives the access to byte `a`. -/
def granted (s : State) (wr : Bool) (a : Nat) : Bool :=
  s.trust.grants.any fun e =>
    let g := e.2.1
    let b := rfld [g] 0 16 36 * 65536
    g.getLsbD 0 && g.getLsbD (if wr then 2 else 1) && decide (b ≤ a ∧ a < b + rfld [e.2.2] 0 0 36 * 65536)
/-- Service firmware may make the access to `n` bytes at `a`. -/
def firmwareOk (s : State) (wr : Bool) (a n : Nat) : Bool :=
  (List.range n).all fun i => a + i < 2 ^ 41 && granted s wr (a + i) && !isProt s (a + i) && (rangeOf s (a + i)).isSome

/-- FIRMWARE_MEMORY_ACCESS (R479): it performs at home, or reads zeros, or is dropped. -/
def execFirmwareMemoryAccess (pa : Nat) (op : MemOp) (s : State) : Host.Outcome State Fault Refusal :=
  .next (
    if s.trust.mode != .running then s
    else match op with
      | .read n =>
        if !(firmwareOk s false pa n) then { s with hostData := List.replicate n 0 }
        else if isBad s.badMem pa n then unchargedError { s with hostData := [] } (badDie s pa n)
        else { s with hostData := memRead s.mem pa n }
      | .write b =>
        if !(firmwareOk s true pa b.length) then s
        else if isBad s.badMem pa b.length then unchargedError s (badDie s pa b.length)
        else placeWrite s pa b)

-- the host port (R471, R379, R391) --------------------------------------------------------------------------------

/-- HOST_LINK_TRAIN (R471): the width, and nothing else. -/
def execHostLinkTrain (width : LinkWidth) (s : State) : Host.Outcome State Fault Refusal :=
  .next { s with mod := { s.mod with link := width } }

/-- What a host CXL.mem access of `n` bytes at `pa` meets: it performs; it reads zeros or is dropped; no decoder takes it. -/
inductive HostMem where
  | performs | zeros | none
  deriving DecidableEq, Repr

/-- Decoder 0 lies over the HBM range, decoder 1 over the capacity range (R471, R379, R474). -/
def hostMem (s : State) (pa n : Nat) : HostMem :=
  let last := pa + n - 1
  if last < 2 ^ 41 then (if paOk s pa && paOk s last then .performs else .zeros)
  else if isCap pa && isCap last && accepted s 1 then .performs
  else .none

/-- HOST_CXL_MEM_READ (R379). -/
def execHostCxlMemRead (pa size : Nat) (s : State) : Host.Outcome State Fault Refusal :=
  .next (
    match hostMem s pa size with
    | .performs =>
      if isBad s.badMem pa size then unchargedError { s with hostData := [] } (badDie s pa size) else { s with hostData := memRead s.mem pa size }
    | .zeros => { s with hostData := List.replicate size 0 }
    | .none => s)

/-- HOST_CXL_MEM_WRITE (R379, R391). -/
def execHostCxlMemWrite (pa : Nat) (data : List Byte) (s : State) : Host.Outcome State Fault Refusal :=
  .next (
    match hostMem s pa data.length with
    | .performs => if isBad s.badMem pa data.length then unchargedError s (badDie s pa data.length) else placeWrite s pa data
    | _ => s)

/-- HOST_CACHE_INVALIDATION (R391): the host writes a line of its memory; the slice reads it again and checks its entries.
Without HCACHE there is no CXL.cache (R474). -/
def execHostCacheInvalidation (pa : Nat) (data : List Byte) (s : State) : Host.Outcome State Fault Refusal :=
  .next (if accepted s 3 && hostBase ≤ pa && pa + data.length ≤ 2 ^ 52 then placeWrite s pa data else s)

-- halyard ports (R475 to R477) ------------------------------------------------------------------------------------

/-- Physical address of an inbound access, or none when it is refused (R477). -/
def halyardResolve (s : State) (p : Nat) (a : Word) (size : Nat) (wr : Bool) : Option Nat :=
  let k := 16 * p + a.toNat / 2 ^ 48 % 16
  let w := mapGetD s.mod.wins k 0
  let off := a.toNat % 2 ^ 48
  let pa := rfld [w] 0 16 36 * 65536 + off
  if a.toNat / 2 ^ 52 ≠ 0 || !w.getLsbD 0 || off + size > 65536 * (mapGetD s.mod.lens k 0).toNat then none
  else if !w.getLsbD (if wr then 2 else 1) then none
  else if !paOk s pa || pa % size ≠ 0 then none
  else some pa

/-- HALYARD_INBOUND_ACCESS (R477): a peer's access performs and is acknowledged, a read with its bytes, or is refused. -/
def execHalyardInboundAccess (port : Nat) (addr : Word) (op : MemOp) (s : State) : Host.Outcome State Fault Refusal :=
  if port ≥ 12 then .fault .noSuchUnit
  else .next (
    if !(accepted s 2 && nthD s.mod.ports port false) then s
    else match op with
      | .read n =>
        (match halyardResolve s port addr n false with
         | none => { s with peerOut := some (port, .refused) }
         | some pa =>
           if isBad s.badMem pa n then unchargedError { s with peerOut := some (port, .refused) } (badDie s pa n)
           else { s with peerOut := some (port, .ok (memRead s.mem pa n)) })
      | .write b =>
        match halyardResolve s port addr b.length true with
        | none => { s with peerOut := some (port, .refused) }
        | some pa =>
          if isBad s.badMem pa b.length then unchargedError { s with peerOut := some (port, .refused) } (badDie s pa b.length)
          else placeWrite { s with peerOut := some (port, .ok []) } pa b)

/-- HALYARD_FLIT_RETRY (R475): a retry delays a flit and changes nothing. -/
def execHalyardFlitRetry (port : Nat) (s : State) : Host.Outcome State Fault Refusal :=
  if port ≥ 12 then .fault .noSuchUnit else .next s

/-- The die of halyard port `p`: the perimeter dies in rising number (R19). -/
def portDie (p : Nat) : Nat := nthD [0, 1, 2, 3, 4, 7, 8, 11, 12, 13, 14, 15] p 0

/-- HALYARD_PORT_DOWN (R475, R327): the port goes down and is logged with its die (R19, R484); streams whose access waits there end with the remote
fault, the others at their next element. -/
def execHalyardPortDown (port : Nat) (s : State) : Host.Outcome State Fault Refusal :=
  if port ≥ 12 then .fault .noSuchUnit
  else .next (
    let s := logEvent { s with mod := { s.mod with ports := s.mod.ports.set port false } } 5 (portDie port) port
    let hit := s.remote.filter fun e => (genAt (coreAt s e.1) e.2).port == port
    hit.foldl (fun s e =>
      let v := genAt (coreAt s e.1) e.2
      let s := { s with remote := s.remote.erase e }
      let s := updCore s e.1 fun c => putGen c e.2 { v with waitAck := false, loaded := [], pa := 0 }
      endWith s e.1 e.2 0x09 ((v.arg.toNat + (v.pos - 1) * pSize v.rcd) % 2 ^ 64)) s)

-- clocks, power and cooling (R24, R473, R482) ---------------------------------------------------------------------

/-- STEPd of a clock word. -/
def stepOf (w : Word) (d : Nat) : Nat := w.toNat / 2 ^ (4 * d) % 16
/-- The clock word with STEPd set. -/
def setStep (w : Word) (d k : Nat) : Word := (w &&& ~~~(BitVec.ofNat 64 (15 * 2 ^ (4 * d)))) ||| BitVec.ofNat 64 (k % 16 * 2 ^ (4 * d))

/-- CLOCK_STEP_APPLY (R24, R473): die `d` runs at the step its field asks for, at most 14. -/
def execClockStepApply (die : Nat) (s : State) : Host.Outcome State Fault Refusal :=
  if die ≥ 16 then .fault .noSuchUnit
  else .next { s with mod := { s.mod with clkNow := setStep s.mod.clkNow die (min (stepOf s.mod.clkReq die) 14) } }

/-- POWER_AVG_LIMIT (R482): service firmware raises the step of the hottest dies by one. -/
def execPowerAvgLimit (hottest : List Nat) (s : State) : Host.Outcome State Fault Refusal :=
  if hottest.any (· ≥ 16) then .fault .noSuchUnit
  else .next (
    if s.trust.mode != .running then s
    else
      let up := fun (w : Word) d => if stepOf w d < 14 then setStep w d (stepOf w d + 1) else w
      { s with mod := { s.mod with clkReq := hottest.foldl up s.mod.clkReq, err := s.mod.err ||| 8 } })

/-- POWER_FAST_LIMIT (R482): every STEPd becomes 14 and POWER is set. -/
def execPowerFastLimit (s : State) : Host.Outcome State Fault Refusal :=
  .next { s with mod := { s.mod with clkReq := 0xEEEEEEEEEEEEEEEE, err := s.mod.err ||| 8 } }

/-- THERMAL_STEP (R482): the die goes to step 14 and THERM is set. -/
def execThermalStep (die : Nat) (s : State) : Host.Outcome State Fault Refusal :=
  if die ≥ 16 then .fault .noSuchUnit
  else .next { s with mod := { s.mod with
    clkReq := setStep s.mod.clkReq die 14, clkNow := setStep s.mod.clkNow die 14, err := s.mod.err ||| 4 } }

/-- THERMAL_TRIP (R482, R484): the sideband log's entry, then a module reset. -/
def execThermalTrip (cause : TripCause) (s : State) : Host.Outcome State Fault Refusal :=
  match cause with
  | .junction die => if die ≥ 16 then .fault .noSuchUnit else .next (resetModule (logEvent s 1 die 0) false)
  | .inputVoltage => .next (resetModule (logEvent s 2 0 0) false)

/-- UNCHARGED_MEMORY_ERROR (R473, R484). -/
def execUnchargedMemoryError (die : Nat) (s : State) : Host.Outcome State Fault Refusal :=
  if die ≥ 16 then .fault .noSuchUnit else .next (unchargedError s die)

-- out-of-band management (R483) -----------------------------------------------------------------------------------

/-- PLDM_SENSOR_READ (R483, R484): a reading of the outside, the module's own STEPd and MOD_ERR, or a log entry by number. -/
def execPldmSensorRead (sensor : Sensor) (reading : Word) (s : State) : Host.Outcome State Fault Refusal :=
  let v := match sensor with
    | .clockStep die => BitVec.ofNat 64 (stepOf s.mod.clkReq die)
    | .modErr => s.mod.err.setWidth 64
    | _ => reading
  match sensor with
  | .logEntry n =>
    .next { s with mctpOut := match s.trust.log.find? fun e => e.1.toNat / 2 ^ 16 % 2 ^ 16 == n % 2 ^ 16 with
      | some e => leBytes 8 e.1.toNat ++ leBytes 8 e.2.toNat
      | none => [] }
  | _ => .next { s with mctpOut := leBytes 8 v.toNat }

/-- PLDM_FIRMWARE_UPDATE (R483, R478): the image is staged in flash for the next reset. -/
def execPldmFirmwareUpdate (image : List Byte) (s : State) : Host.Outcome State Fault Refusal :=
  .next { s with trust := { s.trust with staged := some image } }

end Sys2Proof.Machine
end

