-- ==== Sys2Proof/Machine/Dispatch.lean ====
section
/-! DEFINITION. One arm an instruction. -/

namespace Sys2Proof.Machine

/-- The meaning of an instruction or event. -/
def exec (i : Instr) (s : State) : Host.Outcome State Fault Refusal :=
  match i with
  | .moduleReset a0 => Sys2Proof.Machine.execModuleReset a0 s
  | .hostLinkTrain a0 => Sys2Proof.Machine.execHostLinkTrain a0 s
  | .registerWrite a0 a1 => Sys2Proof.Machine.execRegisterWrite a0 a1 s
  | .luCtlWrite a0 => Sys2Proof.Machine.execLuCtlWrite a0 s
  | .homeMapWrite a0 a1 => Sys2Proof.Machine.execHomeMapWrite a0 a1 s
  | .homeMapDepopulate a0 a1 => Sys2Proof.Machine.execHomeMapDepopulate a0 a1 s
  | .hsWcfgWrite a0 a1 => Sys2Proof.Machine.execHsWcfgWrite a0 a1 s
  | .luFconsWrite a0 => Sys2Proof.Machine.execLuFconsWrite a0 s
  | .modClkWrite a0 => Sys2Proof.Machine.execModClkWrite a0 s
  | .clockStepApply a0 => Sys2Proof.Machine.execClockStepApply a0 s
  | .create a0 => Sys2Proof.Machine.execCreate a0 s
  | .teardown a0 => Sys2Proof.Machine.execTeardown a0 s
  | .save a0 => Sys2Proof.Machine.execSave a0 s
  | .restore a0 => Sys2Proof.Machine.execRestore a0 s
  | .answer a0 => Sys2Proof.Machine.execAnswer a0 s
  | .shootdown a0 => Sys2Proof.Machine.execShootdown a0 s
  | .grantSet a0 => Sys2Proof.Machine.execGrantSet a0 s
  | .grantRead a0 => Sys2Proof.Machine.execGrantRead a0 s
  | .grantClear a0 => Sys2Proof.Machine.execGrantClear a0 s
  | .attest a0 a1 a2 => Sys2Proof.Machine.execAttest a0 a1 a2 s
  | .idkey a0 a1 => Sys2Proof.Machine.execIdkey a0 a1 s
  | .logRead a0 a1 => Sys2Proof.Machine.execLogRead a0 a1 s
  | .pldmSensorRead a0 a1 => Sys2Proof.Machine.execPldmSensorRead a0 a1 s
  | .pldmFirmwareUpdate a0 => Sys2Proof.Machine.execPldmFirmwareUpdate a0 s
  | .hostCxlMemRead a0 a1 => Sys2Proof.Machine.execHostCxlMemRead a0 a1 s
  | .hostCxlMemWrite a0 a1 => Sys2Proof.Machine.execHostCxlMemWrite a0 a1 s
  | .hostCacheInvalidation a0 a1 => Sys2Proof.Machine.execHostCacheInvalidation a0 a1 s
  | .halyardInboundAccess a0 a1 a2 => Sys2Proof.Machine.execHalyardInboundAccess a0 a1 a2 s
  | .halyardFlitRetry a0 => Sys2Proof.Machine.execHalyardFlitRetry a0 s
  | .halyardPortDown a0 => Sys2Proof.Machine.execHalyardPortDown a0 s
  | .remoteAck a0 a1 => Sys2Proof.Machine.execRemoteAck a0 a1 s
  | .powerAvgLimit a0 => Sys2Proof.Machine.execPowerAvgLimit a0 s
  | .thermalStep a0 => Sys2Proof.Machine.execThermalStep a0 s
  | .thermalTrip a0 => Sys2Proof.Machine.execThermalTrip a0 s
  | .unchargedMemoryError a0 => Sys2Proof.Machine.execUnchargedMemoryError a0 s
  | .queueTailWake a0 => Sys2Proof.Machine.execQueueTailWake a0 s
  | .queueRecordCopy a0 => Sys2Proof.Machine.execQueueRecordCopy a0 s
  | .dependenceWake a0 a1 => Sys2Proof.Machine.execDependenceWake a0 a1 s
  | .launchComplete a0 => Sys2Proof.Machine.execLaunchComplete a0 s
  | .siteSave a0 a1 => Sys2Proof.Machine.execSiteSave a0 a1 s
  | .contextRestore a0 => Sys2Proof.Machine.execContextRestore a0 s
  | .watchSweep a0 => Sys2Proof.Machine.execWatchSweep a0 s
  | .watchTimeout a0 a1 => Sys2Proof.Machine.execWatchTimeout a0 a1 s
  | .watchSpillMove a0 a1 => Sys2Proof.Machine.execWatchSpillMove a0 a1 s
  | .wakeDeliver a0 => Sys2Proof.Machine.execWakeDeliver a0 s
  | .cfgFetchWake a0 => Sys2Proof.Machine.execCfgFetchWake a0 s
  | .siteTakeSuccessor a0 a1 => Sys2Proof.Machine.execSiteTakeSuccessor a0 a1 s
  | .edgeUnitTakeSuccessor a0 => Sys2Proof.Machine.execEdgeUnitTakeSuccessor a0 s
  | .generatorExtentWalk a0 => Sys2Proof.Machine.execGeneratorExtentWalk a0 s
  | .generatorRepatch a0 => Sys2Proof.Machine.execGeneratorRepatch a0 s
  | .phaseEnd a0 => Sys2Proof.Machine.execPhaseEnd a0 s
  | .faultReplay a0 => Sys2Proof.Machine.execFaultReplay a0 s
  | .commandComplete a0 => Sys2Proof.Machine.execCommandComplete a0 s
  | .linkTokenSend a0 a1 => Sys2Proof.Machine.execLinkTokenSend a0 a1 s
  | .tokenMatch a0 a1 => Sys2Proof.Machine.execTokenMatch a0 a1 s
  | .veSlotFire a0 a1 => Sys2Proof.Machine.execVeSlotFire a0 a1 s
  | .roundMarkerArrival a0 a1 => Sys2Proof.Machine.execRoundMarkerArrival a0 a1 s
  | .accTake a0 a1 a2 => Sys2Proof.Machine.execAccTake a0 a1 a2 s
  | .stopToken a0 a1 => Sys2Proof.Machine.execStopToken a0 a1 s
  | .loopRoundSignal a0 => Sys2Proof.Machine.execLoopRoundSignal a0 s
  | .controlTokenApply a0 a1 a2 => Sys2Proof.Machine.execControlTokenApply a0 a1 a2 s
  | .exitPortFire a0 => Sys2Proof.Machine.execExitPortFire a0 s
  | .mnLanePerform a0 a1 => Sys2Proof.Machine.execMnLanePerform a0 a1 s
  | .bankEvict a0 a1 => Sys2Proof.Machine.execBankEvict a0 a1 s
  | .bankPrefetch a0 a1 => Sys2Proof.Machine.execBankPrefetch a0 a1 s
  | .mfenceComplete a0 => Sys2Proof.Machine.execMfenceComplete a0 s
  | .suHoldingAccess a0 a1 => Sys2Proof.Machine.execSuHoldingAccess a0 a1 s
  | .cbRequestServe a0 a1 => Sys2Proof.Machine.execCbRequestServe a0 a1 s
  | .streamDispatch a0 => Sys2Proof.Machine.execStreamDispatch a0 s
  | .generatorElement a0 => Sys2Proof.Machine.execGeneratorElement a0 s
  | .loadPortEmit a0 => Sys2Proof.Machine.execLoadPortEmit a0 s
  | .storePortConsume a0 => Sys2Proof.Machine.execStorePortConsume a0 s
  | .streamComplete a0 => Sys2Proof.Machine.execStreamComplete a0 s
  | .sxBarComplete a0 => Sys2Proof.Machine.execSxBarComplete a0 s
  | .mcastStallBudget a0 => Sys2Proof.Machine.execMcastStallBudget a0 s
  | .tilePortRead a0 => Sys2Proof.Machine.execTilePortRead a0 s
  | .capBindingDone a0 => Sys2Proof.Machine.execCapBindingDone a0 s
  | .capBagResult a0 => Sys2Proof.Machine.execCapBagResult a0 s
  | .capRowUpdate a0 => Sys2Proof.Machine.execCapRowUpdate a0 s
  | .scanCombine a0 => Sys2Proof.Machine.execScanCombine a0 s
  | .illegalInstruction a0 => Sys2Proof.Machine.execIllegalInstruction a0 s
  | .add a0 a1 a2 => Sys2Proof.Machine.execAdd a0 a1 a2 s
  | .sub a0 a1 a2 => Sys2Proof.Machine.execSub a0 a1 a2 s
  | .and a0 a1 a2 => Sys2Proof.Machine.execAnd a0 a1 a2 s
  | .or a0 a1 a2 => Sys2Proof.Machine.execOr a0 a1 a2 s
  | .xor a0 a1 a2 => Sys2Proof.Machine.execXor a0 a1 a2 s
  | .andn a0 a1 a2 => Sys2Proof.Machine.execAndn a0 a1 a2 s
  | .sll a0 a1 a2 => Sys2Proof.Machine.execSll a0 a1 a2 s
  | .srl a0 a1 a2 => Sys2Proof.Machine.execSrl a0 a1 a2 s
  | .sra a0 a1 a2 => Sys2Proof.Machine.execSra a0 a1 a2 s
  | .slt a0 a1 a2 => Sys2Proof.Machine.execSlt a0 a1 a2 s
  | .sltu a0 a1 a2 => Sys2Proof.Machine.execSltu a0 a1 a2 s
  | .seq a0 a1 a2 => Sys2Proof.Machine.execSeq a0 a1 a2 s
  | .min a0 a1 a2 => Sys2Proof.Machine.execMin a0 a1 a2 s
  | .minu a0 a1 a2 => Sys2Proof.Machine.execMinu a0 a1 a2 s
  | .max a0 a1 a2 => Sys2Proof.Machine.execMax a0 a1 a2 s
  | .maxu a0 a1 a2 => Sys2Proof.Machine.execMaxu a0 a1 a2 s
  | .clz a0 a1 => Sys2Proof.Machine.execClz a0 a1 s
  | .ctz a0 a1 => Sys2Proof.Machine.execCtz a0 a1 s
  | .popc a0 a1 => Sys2Proof.Machine.execPopc a0 a1 s
  | .mul a0 a1 a2 => Sys2Proof.Machine.execMul a0 a1 a2 s
  | .mulh a0 a1 a2 => Sys2Proof.Machine.execMulh a0 a1 a2 s
  | .mulhu a0 a1 a2 => Sys2Proof.Machine.execMulhu a0 a1 a2 s
  | .mulhsu a0 a1 a2 => Sys2Proof.Machine.execMulhsu a0 a1 a2 s
  | .div a0 a1 a2 => Sys2Proof.Machine.execDiv a0 a1 a2 s
  | .divu a0 a1 a2 => Sys2Proof.Machine.execDivu a0 a1 a2 s
  | .rem a0 a1 a2 => Sys2Proof.Machine.execRem a0 a1 a2 s
  | .remu a0 a1 a2 => Sys2Proof.Machine.execRemu a0 a1 a2 s
  | .csrr a0 a1 => Sys2Proof.Machine.execCsrr a0 a1 s
  | .csrw a0 a1 a2 => Sys2Proof.Machine.execCsrw a0 a1 a2 s
  | .csrs a0 a1 a2 => Sys2Proof.Machine.execCsrs a0 a1 a2 s
  | .csrc a0 a1 a2 => Sys2Proof.Machine.execCsrc a0 a1 a2 s
  | .addi a0 a1 a2 => Sys2Proof.Machine.execAddi a0 a1 a2 s
  | .andi a0 a1 a2 => Sys2Proof.Machine.execAndi a0 a1 a2 s
  | .ori a0 a1 a2 => Sys2Proof.Machine.execOri a0 a1 a2 s
  | .xori a0 a1 a2 => Sys2Proof.Machine.execXori a0 a1 a2 s
  | .slti a0 a1 a2 => Sys2Proof.Machine.execSlti a0 a1 a2 s
  | .sltiu a0 a1 a2 => Sys2Proof.Machine.execSltiu a0 a1 a2 s
  | .lui a0 a1 => Sys2Proof.Machine.execLui a0 a1 s
  | .slli a0 a1 a2 => Sys2Proof.Machine.execSlli a0 a1 a2 s
  | .srli a0 a1 a2 => Sys2Proof.Machine.execSrli a0 a1 a2 s
  | .srai a0 a1 a2 => Sys2Proof.Machine.execSrai a0 a1 a2 s
  | .lb a0 a1 a2 => Sys2Proof.Machine.execLb a0 a1 a2 s
  | .lbu a0 a1 a2 => Sys2Proof.Machine.execLbu a0 a1 a2 s
  | .lh a0 a1 a2 => Sys2Proof.Machine.execLh a0 a1 a2 s
  | .lhu a0 a1 a2 => Sys2Proof.Machine.execLhu a0 a1 a2 s
  | .lw a0 a1 a2 => Sys2Proof.Machine.execLw a0 a1 a2 s
  | .lwu a0 a1 a2 => Sys2Proof.Machine.execLwu a0 a1 a2 s
  | .ld a0 a1 a2 => Sys2Proof.Machine.execLd a0 a1 a2 s
  | .stb a0 a1 a2 => Sys2Proof.Machine.execStb a0 a1 a2 s
  | .sth a0 a1 a2 => Sys2Proof.Machine.execSth a0 a1 a2 s
  | .stw a0 a1 a2 => Sys2Proof.Machine.execStw a0 a1 a2 s
  | .std a0 a1 a2 => Sys2Proof.Machine.execStd a0 a1 a2 s
  | .beq a0 a1 a2 => Sys2Proof.Machine.execBeq a0 a1 a2 s
  | .bne a0 a1 a2 => Sys2Proof.Machine.execBne a0 a1 a2 s
  | .blt a0 a1 a2 => Sys2Proof.Machine.execBlt a0 a1 a2 s
  | .bge a0 a1 a2 => Sys2Proof.Machine.execBge a0 a1 a2 s
  | .bltu a0 a1 a2 => Sys2Proof.Machine.execBltu a0 a1 a2 s
  | .bgeu a0 a1 a2 => Sys2Proof.Machine.execBgeu a0 a1 a2 s
  | .j a0 => Sys2Proof.Machine.execJ a0 s
  | .jal a0 => Sys2Proof.Machine.execJal a0 s
  | .jalr a0 a1 a2 => Sys2Proof.Machine.execJalr a0 a1 a2 s
  | .fence a0 => Sys2Proof.Machine.execFence a0 s
  | .trap a0 => Sys2Proof.Machine.execTrap a0 s
  | .waitp a0 => Sys2Proof.Machine.execWaitp a0 s
  | .cfgFetch a0 a1 a2 a3 => Sys2Proof.Machine.execCfgFetch a0 a1 a2 a3 s
  | .cfgPlace a0 a1 a2 a3 => Sys2Proof.Machine.execCfgPlace a0 a1 a2 a3 s
  | .cfgStitch a0 a1 a2 a3 => Sys2Proof.Machine.execCfgStitch a0 a1 a2 a3 s
  | .cfgStart a0 a1 a2 => Sys2Proof.Machine.execCfgStart a0 a1 a2 s
  | .cfgSplice a0 a1 a2 a3 => Sys2Proof.Machine.execCfgSplice a0 a1 a2 a3 s
  | .cfgDrain a0 a1 a2 => Sys2Proof.Machine.execCfgDrain a0 a1 a2 s
  | .cfgEvict a0 a1 => Sys2Proof.Machine.execCfgEvict a0 a1 s
  | .cfgPatch a0 a1 a2 => Sys2Proof.Machine.execCfgPatch a0 a1 a2 s
  | .cfgInv a0 a1 a2 a3 => Sys2Proof.Machine.execCfgInv a0 a1 a2 a3 s
  | .sxBind a0 a1 a2 a3 => Sys2Proof.Machine.execSxBind a0 a1 a2 a3 s
  | .sxGo a0 a1 => Sys2Proof.Machine.execSxGo a0 a1 s
  | .sxBar a0 a1 a2 => Sys2Proof.Machine.execSxBar a0 a1 a2 s
  | .sxMcast a0 a1 a2 a3 => Sys2Proof.Machine.execSxMcast a0 a1 a2 a3 s
  | .sxStop a0 a1 => Sys2Proof.Machine.execSxStop a0 a1 s
  | .sxQuery a0 a1 => Sys2Proof.Machine.execSxQuery a0 a1 s
  | .sxSparse a0 a1 a2 a3 => Sys2Proof.Machine.execSxSparse a0 a1 a2 a3 s
  | .sxRemote a0 a1 a2 a3 => Sys2Proof.Machine.execSxRemote a0 a1 a2 a3 s
  | .sxWbload a0 a1 a2 a3 => Sys2Proof.Machine.execSxWbload a0 a1 a2 a3 s
  | .sxTile a0 a1 a2 a3 => Sys2Proof.Machine.execSxTile a0 a1 a2 a3 s
  | .mxZero a0 a1 a2 => Sys2Proof.Machine.execMxZero a0 a1 a2 s
  | .mxMove a0 a1 a2 => Sys2Proof.Machine.execMxMove a0 a1 a2 s
  | .mxLdsh a0 a1 a2 a3 => Sys2Proof.Machine.execMxLdsh a0 a1 a2 a3 s
  | .mxLdwd a0 a1 a2 a3 => Sys2Proof.Machine.execMxLdwd a0 a1 a2 a3 s
  | .mxTag a0 a1 => Sys2Proof.Machine.execMxTag a0 a1 s
  | .bsQuery a0 a1 => Sys2Proof.Machine.execBsQuery a0 a1 s
  | .bsSeed a0 a1 a2 => Sys2Proof.Machine.execBsSeed a0 a1 a2 s
  | .bsPolicy a0 a1 a2 => Sys2Proof.Machine.execBsPolicy a0 a1 a2 s
  | .bsUniform a0 a1 => Sys2Proof.Machine.execBsUniform a0 a1 s
  | .bsRound a0 a1 a2 => Sys2Proof.Machine.execBsRound a0 a1 a2 s
  | .amo a0 a1 a2 a3 a4 => Sys2Proof.Machine.execAmo a0 a1 a2 a3 a4 s
  | .waitu a0 a1 a2 => Sys2Proof.Machine.execWaitu a0 a1 a2 s
  | .wcancel a0 a1 a2 => Sys2Proof.Machine.execWcancel a0 a1 a2 s
  | .cpin a0 a1 => Sys2Proof.Machine.execCpin a0 a1 s
  | .cunpin a0 a1 => Sys2Proof.Machine.execCunpin a0 a1 s
  | .embPool a0 a1 a2 a3 => Sys2Proof.Machine.execEmbPool a0 a1 a2 a3 s
  | .embGather a0 a1 a2 a3 => Sys2Proof.Machine.execEmbGather a0 a1 a2 a3 s
  | .embScatadd a0 a1 a2 a3 => Sys2Proof.Machine.execEmbScatadd a0 a1 a2 a3 s
  | .nbDrain a0 a1 => Sys2Proof.Machine.execNbDrain a0 a1 s
  | .ctxYield a0 => Sys2Proof.Machine.execCtxYield a0 s
  | .ctxMark a0 => Sys2Proof.Machine.execCtxMark a0 s
  | .ctxFault a0 a1 a2 => Sys2Proof.Machine.execCtxFault a0 a1 a2 s
  | .scld a0 a1 a2 a3 => Sys2Proof.Machine.execScld a0 a1 a2 a3 s
  | .scst a0 a1 a2 a3 a4 => Sys2Proof.Machine.execScst a0 a1 a2 a3 a4 s
  | .scamoAdd a0 a1 a2 a3 a4 => Sys2Proof.Machine.execScamoAdd a0 a1 a2 a3 a4 s
  | .scamoMin a0 a1 a2 a3 a4 => Sys2Proof.Machine.execScamoMin a0 a1 a2 a3 a4 s
  | .scamoMax a0 a1 a2 a3 a4 => Sys2Proof.Machine.execScamoMax a0 a1 a2 a3 a4 s
  | .scamoAnd a0 a1 a2 a3 => Sys2Proof.Machine.execScamoAnd a0 a1 a2 a3 s
  | .scamoOr a0 a1 a2 a3 => Sys2Proof.Machine.execScamoOr a0 a1 a2 a3 s
  | .scamoXor a0 a1 a2 a3 => Sys2Proof.Machine.execScamoXor a0 a1 a2 a3 s
  | .scamoSwap a0 a1 a2 a3 => Sys2Proof.Machine.execScamoSwap a0 a1 a2 a3 s
  | .scamoCas a0 a1 a2 a3 a4 => Sys2Proof.Machine.execScamoCas a0 a1 a2 a3 a4 s
  | .cbput a0 a1 => Sys2Proof.Machine.execCbput a0 a1 s
  | .cbget a0 a1 => Sys2Proof.Machine.execCbget a0 a1 s
  | .cbadv a0 a1 a2 => Sys2Proof.Machine.execCbadv a0 a1 a2 s
  | .cbwait a0 a1 a2 => Sys2Proof.Machine.execCbwait a0 a1 a2 s
  | .mtfill a0 a1 a2 a3 => Sys2Proof.Machine.execMtfill a0 a1 a2 a3 s
  | .mttag a0 => Sys2Proof.Machine.execMttag a0 s
  | .mld a0 a1 a2 a3 => Sys2Proof.Machine.execMld a0 a1 a2 a3 s
  | .mst a0 a1 a2 a3 a4 => Sys2Proof.Machine.execMst a0 a1 a2 a3 a4 s
  | .mldNc a0 a1 a2 a3 => Sys2Proof.Machine.execMldNc a0 a1 a2 a3 s
  | .mstNc a0 a1 a2 a3 a4 => Sys2Proof.Machine.execMstNc a0 a1 a2 a3 a4 s
  | .mgath a0 a1 a2 a3 => Sys2Proof.Machine.execMgath a0 a1 a2 a3 s
  | .mscat a0 a1 a2 a3 a4 => Sys2Proof.Machine.execMscat a0 a1 a2 a3 a4 s
  | .mfence a0 a1 a2 => Sys2Proof.Machine.execMfence a0 a1 a2 s
  | .mflush a0 a1 a2 => Sys2Proof.Machine.execMflush a0 a1 a2 s
  | .minv a0 a1 a2 => Sys2Proof.Machine.execMinv a0 a1 a2 s
  | .mamoAdd a0 a1 a2 a3 a4 => Sys2Proof.Machine.execMamoAdd a0 a1 a2 a3 a4 s
  | .mamoMin a0 a1 a2 a3 a4 => Sys2Proof.Machine.execMamoMin a0 a1 a2 a3 a4 s
  | .mamoMax a0 a1 a2 a3 a4 => Sys2Proof.Machine.execMamoMax a0 a1 a2 a3 a4 s
  | .mamoAnd a0 a1 a2 a3 => Sys2Proof.Machine.execMamoAnd a0 a1 a2 a3 s
  | .mamoOr a0 a1 a2 a3 => Sys2Proof.Machine.execMamoOr a0 a1 a2 a3 s
  | .mamoXor a0 a1 a2 a3 => Sys2Proof.Machine.execMamoXor a0 a1 a2 a3 s
  | .mamoSwap a0 a1 a2 a3 => Sys2Proof.Machine.execMamoSwap a0 a1 a2 a3 s
  | .mamoCas a0 a1 a2 a3 a4 => Sys2Proof.Machine.execMamoCas a0 a1 a2 a3 a4 s
  | .mwaitu a0 a1 a2 a3 a4 a5 => Sys2Proof.Machine.execMwaitu a0 a1 a2 a3 a4 a5 s
  | .mxMma a0 a1 a2 a3 a4 a5 a6 a7 a8 => Sys2Proof.Machine.execMxMma a0 a1 a2 a3 a4 a5 a6 a7 a8 s
  | .mxMmas a0 a1 a2 a3 a4 a5 a6 a7 a8 => Sys2Proof.Machine.execMxMmas a0 a1 a2 a3 a4 a5 a6 a7 a8 s
  | .nbScan a0 a1 a2 => Sys2Proof.Machine.execNbScan a0 a1 a2 s
  | .swRoute a0 a1 a2 => Sys2Proof.Machine.execSwRoute a0 a1 a2 s
  | .swFork a0 a1 a2 => Sys2Proof.Machine.execSwFork a0 a1 a2 s
  | .swMerge a0 a1 a2 a3 => Sys2Proof.Machine.execSwMerge a0 a1 a2 a3 s
  | .swGate a0 a1 a2 a3 => Sys2Proof.Machine.execSwGate a0 a1 a2 a3 s
  | .swSteer a0 a1 a2 a3 a4 => Sys2Proof.Machine.execSwSteer a0 a1 a2 a3 a4 s
  | .swBound a0 a1 a2 a3 => Sys2Proof.Machine.execSwBound a0 a1 a2 a3 s
  | .swNull a0 a1 a2 a3 => Sys2Proof.Machine.execSwNull a0 a1 a2 a3 s
  | .swSink a0 => Sys2Proof.Machine.execSwSink a0 s
  | .swSrc a0 a1 a2 => Sys2Proof.Machine.execSwSrc a0 a1 a2 s
  | .swCtl a0 => Sys2Proof.Machine.execSwCtl a0 s
  | .swOrd a0 a1 a2 => Sys2Proof.Machine.execSwOrd a0 a1 a2 s
  | .sequencerFetch a0 => Sys2Proof.Machine.execSequencerFetch a0 s
  | .firmwareMemoryAccess a0 a1 => Sys2Proof.Machine.execFirmwareMemoryAccess a0 a1 s
  | .trustBoot => Sys2Proof.Machine.execTrustBoot s
  | .qsync => Sys2Proof.Machine.execQsync s
  | .powerFastLimit => Sys2Proof.Machine.execPowerFastLimit s
  | .launchPick => Sys2Proof.Machine.execLaunchPick s
  | .launchStart => Sys2Proof.Machine.execLaunchStart s
  | .chainedCohortStart => Sys2Proof.Machine.execChainedCohortStart s
  | .cohortRetire => Sys2Proof.Machine.execCohortRetire s
  | .faultRingWrite => Sys2Proof.Machine.execFaultRingWrite s
  | .sequencerSave => Sys2Proof.Machine.execSequencerSave s
  | .coreSaved => Sys2Proof.Machine.execCoreSaved s
  | .threadWake => Sys2Proof.Machine.execThreadWake s
  | .coreQuiescent => Sys2Proof.Machine.execCoreQuiescent s
  | .bsDecision => Sys2Proof.Machine.execBsDecision s
  | .bsInjectRun => Sys2Proof.Machine.execBsInjectRun s
  | .roundPoint => Sys2Proof.Machine.execRoundPoint s
  | .mxFireComplete => Sys2Proof.Machine.execMxFireComplete s
  | .nuReceive => Sys2Proof.Machine.execNuReceive s
  | .ndEndMark => Sys2Proof.Machine.execNdEndMark s
  | .ifence => Sys2Proof.Machine.execIfence s
  | .tret => Sys2Proof.Machine.execTret s
  | .kend => Sys2Proof.Machine.execKend s
  | .mord => Sys2Proof.Machine.execMord s
  | .nbFwd => Sys2Proof.Machine.execNbFwd s
  | .coreCycle => Sys2Proof.Machine.execCoreCycle s

end Sys2Proof.Machine
end

