-- ==== Sys2Proof/Machine/Turn.lean ====
section
/-! DEFINITION. Whose turn it is: the head of the agenda acts, or with none the sequencer of the current core (the model's
choice of who moves next, log entry 1). What a turn runs: the instruction that the acting unit reads, or an event. -/

namespace Sys2Proof.Machine

/-- What a turn runs: an instruction or event, nothing, an act that has no row and is done, or a unit that the part does not
have. -/
inductive Pick where
  | run (i : Instr) | idle | done | none
  deriving DecidableEq, Repr

/-- The state in which turn `t` acts: its core is the current core, its unit and slot stand in the locus. -/
def setLocus (s : State) (n x y slot : Nat) : State := { s with core := n, locus := ⟨x, y, slot⟩ }

/-- The operation word of a slot as an instruction. -/
def opOf (w : W32) : Pick := match decodeOp w with | .ok i => .run i | .error _ => .idle

/-- The sequencer's turn: the instruction in the buffer at the pc (R143), an illegal one by name (R154), or a fetch. -/
def pickSeq (s : State) (n : Nat) : Pick :=
  let q := (coreAt s n).seq
  if !issuing q then .idle
  else match mapGet q.ibuf q.pc.toNat with
    | some w => match decodeSeq w with | .ok i => .run i | .error _ => .run (.illegalInstruction w)
    | Option.none => .run (.sequencerFetch 0)

/-- What turn `t` runs and the state in which it acts. -/
def pickTurn (s : State) (t : Turn) : State × Pick :=
  let c := coreAt s t.core
  if t.core ≥ 384 then (s, .none)
  else match t.act with
    | .seq => ({ s with core := t.core }, pickSeq s t.core)
    | .early pa => (loadEarly s t.core pa, .done)
    | .event i => ({ s with core := t.core }, .run i)
    | .hostRead off => (hostRead s off, .done)
    | .corrected => (correctedError s, .done)
    | .trustAccess trusted secure addr op => (trustAccess s trusted secure addr op, .done)
    | .unit x y =>
      if x ≥ 8 || y ≥ 6 then (s, .none)
      else match nextSlot c (.site x y) with
        | some n => (setLocus s t.core x y n,
            if (x + y) % 2 = 0 then .run (.veSlotFire x y) else opOf ((siteAt c x y).slot n).word0)
        | Option.none => (setLocus s t.core x y 0, .idle)
    | .node x =>
      if x ≥ 8 then (s, .none)
      else match nextNodeSlot s t.core x with
        | some n => (setLocus s t.core x 0 n, opOf ((nodeAt c x).u.slot n).word0)
        | Option.none => (setLocus s t.core x 0 0, .idle)
    | .switch x y n k =>
      if x ≥ 8 || y ≥ 6 then (s, .none)
      else (setLocus s t.core x y n,
        let sl := (siteAt c x y).slot n
        if !sl.en then .idle
        else match sl.sw[k]? with
          | some w => match decodeSw w with | .ok i => .run i | .error _ => .idle
          | Option.none => .idle)
    | .oplist =>
      match nextFiring c.mx with
      | some k => (setLocus s t.core 0 0 k, opOf (nthD c.mx.oplist k 0))
      | Option.none => (setLocus s t.core 0 0 0, .idle)
    | .relay => (setLocus s t.core 0 0 0, match c.relay.nd with | w :: _ => opOf w | [] => .idle)

/-- The turn at the head of the agenda, or that of the current core's sequencer. -/
def nextTurn (s : State) : Turn := match s.agenda with | t :: _ => t | [] => { core := s.core, act := .seq }

/-- The state with the turn at the head of the agenda taken off. -/
def popTurn (s : State) : State := { s with agenda := s.agenda.drop 1 }

/-- A step that would leave more than 1,024 fault records in the launch unit's buffer waits: its turn passes (R457). -/
def recordRoom (before : State) (r : Host.Outcome State Fault Refusal) : Host.Outcome State Fault Refusal :=
  match r with
  | .next s => if s.lu.fbuf.length > 1024 then .next before else .next s
  | r => r

/-- What follows from a turn at once: flags of the sums that stand in a region which has come to phase end (R67), and BUSY clear where
a launch-unit command is complete (R441). -/
def afterTurn (s : State) : State := settleBusy { s with cores := s.cores.map fun e => (e.1, settleSums e.2) }

/-- The end of a turn: its records have room, and what follows from it is done. -/
def endTurn (before : State) (r : Host.Outcome State Fault Refusal) : Host.Outcome State Fault Refusal :=
  match recordRoom before r with
  | .next s => .next (afterTurn s)
  | r => r

/-- One turn. -/
def takeTurn (s : State) : Host.Outcome State Fault Refusal :=
  let b := popTurn s
  match pickTurn b (nextTurn s) with
  | (_, .none) => .fault .noSuchUnit
  | (_, .idle) => .next b
  | (s', .done) => .next s'
  | (s', .run i) => endTurn b (exec i s')

-- placing one instruction where the next step reads it ------------------------------------------------------------

/-- A slot that holds only the operation word `w` with `n` inputs on ports 0 and up. -/
def probeSlot (w : W32) : Slot :=
  { en := true, nst := 1, stages := [w], k0 := 0, k1 := 0, ctl := 0x1F80, sw := [], lfsr := 1, loss := 0 }

/-- One ready one-lane firing of slot 0. -/
def probeFire : Fire :=
  { slot := 0, toks := [{ bareTok .run 0 0 0 1 with tags := [0], lanes := [⟨0, false⟩] }] }

/-- A unit with the probe slot and its firing. -/
def probeUnit (w : W32) : FUnit :=
  { FUnit.reset with place := 1, slots := [(0, probeSlot w)], ready := [probeFire] }

/-- The instruction of table word `w` placed where the next step runs it: an operation word in a unit with a ready set,
a 16-bit switch word in site (0, 0), any other word in the sequencer's instruction buffer at its pc. -/
def placeWord (s : State) (nbits w : Nat) : State :=
  let n := s.core
  let s := { s with agenda := [] }
  let word : W32 := BitVec.ofNat 32 w
  let unitWord := (decodeOp word).toOption.isSome
  if nbits ≤ 16 then
    let u : FUnit := { FUnit.reset with place := 1, slots := [(0, { probeSlot 0 with sw := [BitVec.ofNat 16 w] })] }
    { updCore s n (fun c => setSite c 0 0 u) with agenda := [⟨n, .switch 0 0 0 0⟩] }
  else if !unitWord then
    updCore s n fun c => { c with seq := { c.seq with st := .run, waitu := none, ibuf := [(c.seq.pc.toNat, word)] } }
  else match (bits word 29 3).toNat with
    | 1 => { updCore s n (fun c => setSite c 1 0 (probeUnit word)) with agenda := [⟨n, .unit 1 0⟩] }
    | 2 => { updCore s n (fun c => setNode c 0 { nodeAt c 0 with u := probeUnit word }) with agenda := [⟨n, .node 0⟩] }
    | 3 => { updCore s n (fun c => { c with mx := { c.mx with oplist := [word], fired := [], running := none } }) with
             agenda := [⟨n, .oplist⟩] }
    | _ => { updCore s n (fun c => { c with relay := { c.relay with nd := [word, 0, 0, 0] } }) with
             agenda := [⟨n, .relay⟩] }

end Sys2Proof.Machine
end

