-- ==== Sys2Proof/Safety.lean ====
section
/-! DEFINITION. What a state of the machine must satisfy: the memories in canonical form (R470), the pc aligned (R153),
cores within the part (R21). -/

namespace Sys2Proof.Safety

open Sys2Proof.Machine

/-- The stores of a matrix engine are in canonical form. -/
def matrixWf (m : Matrix) : Bool := Mem.wf m.tile && Mem.wf m.weight

/-- Every memory of a core is in canonical form. -/
def coreWf (c : Core) : Bool := Mem.wf c.lv && Mem.wf c.pfile && Mem.wf c.scratch && matrixWf c.mx

/-- Every core of the machine, those that a save has stored included. -/
def heldCores (s : State) : List Core := s.cores.map (·.2) ++ s.ctxs.flatMap fun e => e.2.saved.map (·.core)

/-- Every memory of the machine is in canonical form, what a retired cohort leaves to its successor included. -/
def memoriesWf (s : State) : Bool :=
  Mem.wf s.mem && Mem.wf s.hbm && Mem.wf s.trust.secure && Mem.wf s.trust.ram && Mem.wf s.trust.payload &&
  (heldCores s).all coreWf && s.launches.all fun l => l.kept.all fun e => matrixWf e.2

/-- The pc of a sequencer, and what a trap or its return would make the pc, are multiples of 4. -/
def pcAligned (q : Seq) : Bool := decide (q.pc.toNat % 4 = 0 ∧ q.epc.toNat % 4 = 0 ∧ q.tvec.toNat % 4 = 0)

/-- The entry of every launch whose cohorts may start is a multiple of 4 (R447, R448). -/
def entriesAligned (s : State) : Bool :=
  s.launches.all fun l => match l.st with
    | .refused _ => l.waiting.isEmpty
    | _ => decide ((nthD l.rcd 1 0).toNat % 4 = 0)

/-- Every sequencer's pc is aligned and stays so: pc, SQ_EPC, SQ_TVEC and the entries of launches. -/
def pcsAligned (s : State) : Bool := ((heldCores s).all fun c => pcAligned c.seq) && entriesAligned s

end Sys2Proof.Safety
end

