-- ==== Sys2Proof/Certificates/Slice0/Obligations.lean ====
section
/-! DEFINITION. The statements for the provers, from the numbered rules of the spec, and the few words they are stated in. -/

namespace Sys2Proof.Claim

open Sys2Proof.Machine

/-- The sequencer of the core whose turn it is may issue an instruction that reads or writes `rs` (R105, R133, R144). -/
abbrev Ready (s : State) (rs : List Reg) : Prop := issuing (cur s).seq = true ∧ ∀ r ∈ rs, regBusy (cur s) r = false

/-- X[r] of that sequencer. -/
abbrev X (s : State) (r : Reg) : Word := getX (cur s).seq r

/-- The core whose turn it is with its sequencer in RUN. -/
def ran (s : State) : Core := { cur s with seq := { (cur s).seq with st := .run } }

/-- The state in which that sequencer is `f` of itself in RUN; every other part of the machine is as before. -/
def withSeq (s : State) (f : Seq → Seq) : State := setCur s { ran s with seq := f (ran s).seq }

/-- rd := v and pc := pc + 4; every other part of the machine is as before (R132: a write of s0 is discarded). -/
def writes (s : State) (d : Reg) (v : Word) : State := withSeq s fun q => { setX q d v with pc := q.pc + 4 }

/-- The state in which a load, store, atomic or wait of that sequencer begins: in RUN, with the store issued before it performed
(R144, R150). -/
def begun (s : State) : State := performStore (setCur s (ran s)) s.core

/-- The loads with their sizes and how rd extends the value (R149). -/
def loads : List (Nat × (Reg → Reg → BitVec 16 → Instr) × (Nat → Word)) :=
  [(1, .lb, fun v => BitVec.ofInt 64 (BitVec.ofNat 8 v).toInt), (1, .lbu, BitVec.ofNat 64),
   (2, .lh, fun v => BitVec.ofInt 64 (BitVec.ofNat 16 v).toInt), (2, .lhu, BitVec.ofNat 64),
   (4, .lw, fun v => BitVec.ofInt 64 (BitVec.ofNat 32 v).toInt), (4, .lwu, BitVec.ofNat 64), (8, .ld, BitVec.ofNat 64)]

/-- The stores with their sizes (R149). -/
def stores : List (Nat × (Reg → Reg → BitVec 16 → Instr)) := [(1, .stb), (2, .sth), (4, .stw), (8, .std)]

/-- The same with nothing read ahead: an instruction that orders later loads (R157, R160) begins so. -/
def ordered (s : State) : State := performStore (setCur s { ran s with early := none }) s.core

/-- The state after a load or atomic of the current sequencer with rd := v and pc := pc + 4, from `u`; nothing stands read ahead. -/
def writesIn (u : State) (d : Reg) (v : Word) : State :=
  setCur u { cur u with early := none, seq := { setX (cur u).seq d v with pc := (cur u).seq.pc + 4 } }

/-- The state `u` with the current pc advanced by 4. -/
def passed (u : State) : State := setCur u { cur u with seq := { (cur u).seq with pc := (cur u).seq.pc + 4 } }

/-- The same after a store: nothing stands read ahead. -/
def stored (u : State) : State :=
  setCur u { cur u with early := none, seq := { (cur u).seq with pc := (cur u).seq.pc + 4 } }

/-- The `n` bytes at `pa` as a load of the current sequencer sees them: those of memory, or, where it has read them ahead of its turn,
those that stood there then (R160). -/
def seen (u : State) (pa n : Nat) : Nat :=
  match (cur u).early with
  | some (p, bs) => if p ≤ pa ∧ pa + n ≤ p + bs.length then leNat ((bs.drop (pa - p)).take n) else leNat (memRead u.mem pa n)
  | none => leNat (memRead u.mem pa n)

/-- Trap entry with a handler installed (R155). -/
def trapped (s : State) (cause : Nat) : State :=
  withSeq s fun q => { q with epc := q.pc, cause := BitVec.ofNat 64 cause, th := true, pc := q.tvec }

/-- The cohort's fatal end at a trap with no handler to take it (R155, R455): the sequencer DEAD with its pc at the trap, the
cohort and its launch marked fatal, one record of kind 0x0C. -/
abbrev EndsFatally (u : State) (h : Cohort) (cause : Nat) (t : State) : Prop :=
  (cur t).seq = { (cur u).seq with st := .dead, waitu := none } ∧ (cur t).coh = some { h with fatal := true } ∧
  (∀ l ∈ t.launches, l.id = h.launch → l.fatal = true) ∧
  t.lu.fbuf = u.lu.fbuf ++ [(recordWords { Record.mk' 0x0C 7 (cause % 2 ^ 32) true with
    core := u.core, addr := (cur u).seq.pc } h.ctx (ctxAt u h.ctx).seq h.lid, h.ctx)]

/-- TH is 0, a handler is installed, and the sequencer is not DEAD (R155). -/
abbrev Handler (s : State) : Prop := (cur s).seq.th = false ∧ (cur s).seq.tvec ≠ 0 ∧ (cur s).seq.st ≠ .dead

/-- The sequencer may issue, no engine command of its core is outstanding, pennant `p` has room, its cohort `h` has not
ended and replaces no other, and the block scheduler asks for no splice (R105, R158). -/
abbrev Alone (s : State) (p : Option Nat) (h : Cohort) : Prop :=
  issuing (cur s).seq = true ∧ (cur s).cmds = [] ∧ pennantFull (cur s) p = false ∧ (cur s).coh = some h ∧ h.fatal = false ∧
  (cur s).prev = none ∧ (cur s).bs.demand = []

/-- The command as the sequencer issues it (R105). -/
def command (s : State) (d : Reg) (rs : List Reg) (p : Option Nat) (op : Instr) : Cmd := newCmd (ran s) s.nextId d rs p op

/-- The state in which the engines see it: pc has advanced, the command waits for acceptance. -/
def issued (s : State) (d : Reg) (rs : List Reg) (p : Option Nat) (op : Instr) : State :=
  setCur { s with nextId := s.nextId + 1 } (issueCore (ran s) (command s d rs p op))

/-- The state right after its acceptance with `v` for rd: the command runs and counts on its pennant (R106, R158). -/
def taken (s : State) (d : Reg) (rs : List Reg) (p : Option Nat) (op : Instr) (v : Word) : State :=
  let q := { setX (ran s).seq d v with pc := (cur s).seq.pc + 4 }
  setCur { s with nextId := s.nextId + 1 } { ran s with
    seq := match p with | some p => setPennant q p (pennant q p + 1) | none => q
    cmds := [{ command s d rs p op with rdWait := false, phase := .running }] }

/-- Command instruction `i` answers `z`: accepted with `v` for rd, pc advanced, its pennant's count one up, and every other
register of the sequencer as before. -/
abbrev Accepts (s : State) (i : Instr) (d : Reg) (p : Option Nat) (v : Word) (z : State) : Prop :=
  exec i s = .next z ∧ (cur z).seq = (cur (taken s d [] p i v)).seq

/-- The state after a command that is refused, or one without a pennant that is done at acceptance: `v` in rd. -/
def replied (s : State) (d : Reg) (v : Word) : State := { writes s d v with nextId := s.nextId + 1 }

/-- Switch word `w` of the slot at the locus may move token `t` at its input `i` (R202, R205): the token is the first there
that its slot may meet, no copy of it has left, the word handles its kind, every output is free and chooses that input; `d` is
the null identity. -/
abbrev Moves (s : State) (w : Instr) (i : Nat) (d : W32) (t : Tok) : Prop :=
  let u := siteAt (cur s) s.locus.x s.locus.y
  let outs := (wordActs s.locus.slot w d i t).1
  headOf (cur s) u s.locus.slot w i = some (i, t) ∧ kindOk t w = true ∧ i < 5 ∧ (∀ e ∈ u.sent, e.1 ≠ sentKey i s.locus.slot) ∧
  ∀ o ∈ outs, portFree u i o = true ∧ (o.1 = 4 → (localInput u o.2.slot i).isSome = true) ∧ mayMove (cur s) u i o.1 = true

/-- No token of the slot at the locus stands at input `i` for word `w`. -/
abbrev Silent (s : State) (w : Instr) (i : Nat) : Prop :=
  headOf (cur s) (siteAt (cur s) s.locus.x s.locus.y) s.locus.slot w i = none

/-- `w` answers a state in which the head of input `i` has left it and stands as `r` at output `p`: in the output register of
a link port, or, for port local, in the input register of its slot. -/
abbrev Moved (s : State) (w : Instr) (i p : Nat) (r : Tok) : Prop :=
  let u := siteAt (cur s) s.locus.x s.locus.y
  ∃ z, exec w s = .next z ∧
    (siteAt (cur z) s.locus.x s.locus.y).queue i = (u.dropSlot i s.locus.slot).queue i ∧
    (p < 4 → mapGet (siteAt (cur z) s.locus.x s.locus.y).out p = some r) ∧
    (p = 4 → ∀ k, localInput u r.slot i = some k →
      (siteAt (cur z) s.locus.x s.locus.y).unitq = u.unitq ++ [{ slot := r.slot, inp := k, tok := r }])

/-- Window, bytes, whether it reads and writes, and address select of a scratchpad access instruction (R271, R272). -/
def scratchForm : Instr → Option (Nat × Nat × Bool × Bool × Nat)
  | .scld _ a t w => some (w.toNat, accSize t.toNat, true, false, a.toNat)
  | .scst _ a _ t w => some (w.toNat, accSize t.toNat, false, true, a.toNat)
  | .scamoAdd _ a _ _ w => some (w.toNat, 4, true, true, a.toNat)
  | .scamoMin _ a _ _ w => some (w.toNat, 4, true, true, a.toNat)
  | .scamoMax _ a _ _ w => some (w.toNat, 4, true, true, a.toNat)
  | .scamoAnd _ a _ w => some (w.toNat, 4, true, true, a.toNat)
  | .scamoOr _ a _ w => some (w.toNat, 4, true, true, a.toNat)
  | .scamoXor _ a _ w => some (w.toNat, 4, true, true, a.toNat)
  | .scamoSwap _ a _ w => some (w.toNat, 4, true, true, a.toNat)
  | .scamoCas _ a _ _ w => some (w.toNat, 4, true, true, a.toNat)
  | _ => none

/-- The word that an atomic of access kind `k` (2 add, 3 min, 4 max, 5 and, 6 or, 7 xor, 8 swap, 9 cas) and type `ty` (5 signed,
6 unsigned, 7 binary32) leaves where it found `old`, with operand `d` and expected value `e` (R272, R298, R387). -/
def atomicWord (k ty old d e : Nat) : Nat :=
  let num := fun (v : Nat) => if ty = 5 then (BitVec.ofNat 32 v).toInt else ((v % 2 ^ 32 : Nat) : Int)
  match k with
  | 2 => if ty = 7 then (roundTo f32 0 false 0 (addV false (decodeF f32 old) (decodeF f32 d)).1).1 else (old + d) % 2 ^ 32
  | 3 => if ty = 7 then (fminmax f32 false old d).1 else if num old ≤ num d then old else d
  | 4 => if ty = 7 then (fminmax f32 true old d).1 else if num old ≤ num d then d else old
  | 5 => old &&& d
  | 6 => old ||| d
  | 7 => old ^^^ d
  | 8 => d
  | _ => if old = e then d else old

/-- The flags that it raises (R272, R298). -/
def atomicFlags (k ty old d : Nat) : Flags :=
  if ty ≠ 7 then 0
  else if k = 2 then
    let x := addV false (decodeF f32 old) (decodeF f32 d)
    x.2 ||| (roundTo f32 0 false 0 x.1).2
  else if k = 3 then (fminmax f32 false old d).2 else if k = 4 then (fminmax f32 true old d).2 else 0

/-- The number that a finite exact value stands for, its lower end if it is sticky; 0 for the others. -/
def realOf : Val → ℚ
  | .fin n m e _ => (if n then -1 else 1) * (m : ℚ) * (2 : ℚ) ^ e
  | _ => 0

/-- `a` is m·2^e, or lies strictly between that and (m + 1)·2^e when the value is sticky. -/
def Spans (m : Nat) (e : Int) (sticky : Bool) (a : ℚ) : Prop :=
  if sticky = true then (m : ℚ) * 2 ^ e < a ∧ a < ((m : ℚ) + 1) * 2 ^ e else a = (m : ℚ) * 2 ^ e

/-- Whether rounding takes the neighbour farther from zero (R53, R55) when the nearer one is `j` units of the grid and the
fraction `f` of a unit lies beyond it; `neg` is the sign, `r` the value of the LFSR. -/
def takesUpper (mode : Nat) (neg : Bool) (j : Int) (f : ℚ) (r : Nat) : Bool :=
  match mode with
  | 0 => decide (1 / 2 < f ∨ (f = 1 / 2 ∧ j % 2 = 1))
  | 1 => false
  | 2 => neg
  | 3 => !neg
  | 4 => decide (1 / 2 ≤ f)
  | _ => decide (65536 ≤ ⌊f * 65536⌋ + r)

/-- The magnitude `a` rounded to a multiple of `q` (R54). -/
def onGrid (mode : Nat) (neg : Bool) (a q : ℚ) (r : Nat) : ℚ :=
  let j := ⌊a / q⌋; let f := a / q - j
  (if f ≠ 0 ∧ takesUpper mode neg j f r = true then (j : ℚ) + 1 else j) * q

/-- `v` is the exact sum of the values (R61, R68): NaN for a NaN or for infinities of both signs, an infinity for one of them,
and a zero sum is −0 only when every value is −0. -/
def IsSum (vs : List Val) (v : Val) : Prop :=
  if (∃ x ∈ vs, isNan x = true) ∨ (Val.inf true ∈ vs ∧ Val.inf false ∈ vs) then isNan v = true
  else if Val.inf true ∈ vs then v = .inf true
  else if Val.inf false ∈ vs then v = .inf false
  else let t := (vs.map realOf).sum
    ∃ n m e, v = .fin n m e false ∧ realOf v = t ∧ (t ≠ 0 → n = decide (t < 0)) ∧
      (t = 0 → n = (decide (vs ≠ []) && vs.all fun x => isZero x && isNeg x))

/-- The product at κ of a floating pair, with the scales of both blocks applied (R68); none where B has no element. -/
def fireProduct (x : Matrix) (q : MxOp) (sh wd : List Word) (i j k : Nat) : Option Val :=
  (elemB x wd k j).map fun b =>
    let u := decodeF (ffmt (shFmt sh)) (elemA x sh q.a i k); let v := decodeF (ffmt (wdFmt wd)) b
    let p := (mulV (if q.na = true then vneg u else u) (if q.nb = true then vneg v else v)).1
    if isMx (shFmt sh) = true then
      let sa := (memGet x.tile (16384 * q.a + shScale sh i (k / 32))).toNat
      let sb := (memGet x.weight (wdOff wd + wdScale wd j (k / 32))).toNat
      if sa = 255 ∨ sb = 255 then .nan false
      else match p with | .fin n m e st => .fin n m (e + sa + sb - 254) st | y => y
    else p

/-- One step of a `vscan` or `vred` under stage `w` (R70, R260): the accumulator with the LFSR and the flags so far meets the next
lane's value; an addition of binary32 takes one rounding, of a value of the LFSR under SR. -/
def folded (w : W32) (acc : W32 × Half × Flags) (v : W32) : W32 × Half × Flags :=
  let t := Stg.ty w; let big := Stg.mod w = 2
  if Stg.mod w = 0 then
    if t = 3 then
      let y := addV (Stg.rnd w == 2) (decodeF f32 acc.1.toNat) (decodeF f32 v.toNat)
      let z := roundTo f32 (Stg.rnd w) (Stg.sat w) (if Stg.rnd w = 5 then acc.2.1.toNat else 0) y.1
      (BitVec.ofNat 32 z.1, if Stg.rnd w = 5 then lfsrStep acc.2.1 else acc.2.1, acc.2.2 ||| y.2 ||| z.2)
    else if Stg.sat w = false then (acc.1 + v, acc.2)
    else if t = 0 then (BitVec.ofInt 32 (max (-2 ^ 31) (min (2 ^ 31 - 1) (acc.1.toInt + v.toInt))), acc.2)
    else (BitVec.ofNat 32 (min (2 ^ 32 - 1) (acc.1.toNat + v.toNat)), acc.2)
  else if t = 3 then
    let y := fminmax f32 (decide big) acc.1.toNat v.toNat
    (BitVec.ofNat 32 y.1, acc.2.1, acc.2.2 ||| y.2)
  else (if (if t = 0 then acc.1.toInt ≤ v.toInt else acc.1.toNat ≤ v.toNat) ↔ big then v else acc.1, acc.2)

/-- Rounding to FP32 under RNE, the result's encoding. -/
def rne32 (v : Val) : Nat := (roundTo f32 0 false 0 v).1

/-- Element `e` of a row of the capacity tier, its scale applied (R413). -/
def rowNumber (r : List Word) (bs : List Byte) (e : Nat) : Val :=
  let f := rfld r 1 48 4
  if f = 0 then decodeF f32 (leNat ((bs.drop (4 * e)).take 4))
  else if f = 2 then decodeF (ffmt 2) (leNat ((bs.drop (2 * e)).take 2))
  else (mulV (decodeF (ffmt f) (leNat ((bs.drop (4 + e)).take 1))) (decodeF f32 (leNat (bs.take 4)))).1

/-- The commands and events of the opcode table, to which it gives no word. -/
def wordless : Instr → Bool
  | .moduleReset .. | .hostLinkTrain .. | .registerWrite .. | .luCtlWrite .. | .homeMapWrite .. | .homeMapDepopulate ..
  | .hsWcfgWrite .. | .luFconsWrite .. | .modClkWrite .. | .clockStepApply .. | .create .. | .teardown .. | .save ..
  | .restore .. | .answer .. | .shootdown .. | .grantSet .. | .grantRead .. | .grantClear .. | .attest .. | .idkey ..
  | .logRead .. | .pldmSensorRead .. | .pldmFirmwareUpdate .. | .hostCxlMemRead .. | .hostCxlMemWrite ..
  | .hostCacheInvalidation .. | .halyardInboundAccess .. | .halyardFlitRetry .. | .halyardPortDown .. | .remoteAck ..
  | .powerAvgLimit .. | .thermalStep .. | .thermalTrip .. | .unchargedMemoryError .. | .queueTailWake ..
  | .queueRecordCopy .. | .dependenceWake .. | .launchComplete .. | .siteSave .. | .contextRestore .. | .watchSweep ..
  | .watchTimeout .. | .watchSpillMove .. | .wakeDeliver .. | .cfgFetchWake .. | .siteTakeSuccessor ..
  | .edgeUnitTakeSuccessor .. | .generatorExtentWalk .. | .generatorRepatch .. | .phaseEnd .. | .faultReplay ..
  | .commandComplete .. | .linkTokenSend .. | .tokenMatch .. | .veSlotFire .. | .roundMarkerArrival .. | .accTake ..
  | .stopToken .. | .loopRoundSignal .. | .controlTokenApply .. | .exitPortFire .. | .mnLanePerform .. | .bankEvict ..
  | .bankPrefetch .. | .mfenceComplete .. | .suHoldingAccess .. | .cbRequestServe .. | .streamDispatch ..
  | .generatorElement .. | .loadPortEmit .. | .storePortConsume .. | .streamComplete .. | .sxBarComplete ..
  | .mcastStallBudget .. | .tilePortRead .. | .capBindingDone .. | .capBagResult .. | .capRowUpdate .. | .scanCombine ..
  | .illegalInstruction .. | .sequencerFetch .. | .firmwareMemoryAccess .. | .trustBoot .. | .qsync ..
  | .powerFastLimit .. | .launchPick .. | .launchStart .. | .chainedCohortStart .. | .cohortRetire ..
  | .faultRingWrite .. | .sequencerSave .. | .coreSaved .. | .threadWake .. | .coreQuiescent .. | .bsDecision ..
  | .bsInjectRun .. | .roundPoint .. | .mxFireComplete .. | .nuReceive .. | .ndEndMark .. | .coreCycle .. => true
  | _ => false

/-- The functions of major 0x01 with two operands (R145). -/
def integerFunctions : List (Nat × (Reg → Reg → Reg → Instr)) :=
  [(0x000, .add), (0x001, .sub), (0x002, .and), (0x003, .or), (0x004, .xor), (0x005, .andn), (0x008, .sll),
   (0x009, .srl), (0x00A, .sra), (0x010, .slt), (0x011, .sltu), (0x012, .seq), (0x013, .min), (0x014, .minu),
   (0x015, .max), (0x016, .maxu)]

/-- The functions of major 0x01 with one operand, whose rb is res0 (R145). -/
def countFunctions : List (Nat × (Reg → Reg → Instr)) := [(0x018, .clz), (0x019, .ctz), (0x01A, .popc)]

/-- The functions of major 0x02 (R148). -/
def mulDivFunctions : List (Nat × (Reg → Reg → Reg → Instr)) :=
  [(0x000, .mul), (0x001, .mulh), (0x002, .mulhu), (0x003, .mulhsu), (0x004, .div), (0x005, .divu), (0x006, .rem),
   (0x007, .remu)]

end Sys2Proof.Claim

open Sys2Proof Sys2Proof.Machine Sys2Proof.Claim

/-- Reset leaves the stated values and meets the invariants. Right after reset no home-map entry names a region, no feature
set is accepted, the launch unit is off, its fault-ring log is 5, every home slice has WLIMIT 4096, every core's sequencer is
IDLE with TH, PF, cause, epc, tvec, cycle count and rounding mode 0 and no pennant counted, and the trust core is in its boot
mode. Every memory is in canonical form, every pc and whatever may become one is aligned, and the launch unit holds no
record. (05_sequencer.md R133, R135 to R142; 19_host_peers_and_trust.md R470 to R475; 15_home_slices_and_watch.md R395;
19_host_peers_and_trust.md R470; 05_sequencer.md R132) -/
def Obligations.ResetLeavesTheStatedValues : Prop :=
  (∀ n : Nat, let q := (coreAt State.reset n).seq
    q.st = .idle ∧ q.th = false ∧ q.pf = 0 ∧ q.cause = 0 ∧ q.epc = 0 ∧ q.tvec = 0 ∧ q.cycle = 0 ∧ q.fpdef = 0 ∧
    q.sel = 0 ∧ (∀ p, pennant q p = 0) ∧ (∀ i, flagSet (coreAt State.reset n) i = 0) ∧
    mapGetD State.reset.homeMap n 0 = 0 ∧ State.reset.mod.feat = none ∧ State.reset.lu.en = false ∧
    State.reset.lu.fringLog = 5 ∧ (sliceAt State.reset n).wlimit = 4096 ∧ State.reset.trust.mode = .boot) ∧
  (Safety.memoriesWf State.reset = true ∧ Safety.pcsAligned State.reset = true ∧ State.reset.lu.fbuf.length ≤ 1024)

/-- A step runs the instruction at the program counter, or the operation word of the slot that is next. With an empty agenda,
a sequencer that may issue and the word w of a sequencer instruction i in its instruction buffer at its pc, one step is exec
of i in the same state; what the step adds is only that a step which would leave more than 1,024 records in the launch unit's
buffer waits (R457), that BUSY of the launch unit clears once the command it stands for is complete (R441), and that the sums
of a region that has come to phase end raise their flags (R67). Whose turn it is with an empty agenda is the model's choice
(log entry 1). When the head of the agenda gives a memory node its turn and a slot of it has a matched set next in rotation
that the node can accept, the step takes the turn off the agenda and is exec of the instruction that the slot's operation
word decodes to, with the locus at that slot; a scratchpad unit's turn the same. (05_sequencer.md R143, R144;
18_launch_and_preemption.md R441, R457; 02_numbers.md R67; notes/assumptions/1.md; 07_fabric.md R205; 11_memory_nodes.md
R282, R284) -/
def Obligations.StepRunsTheDecodedInstruction : Prop :=
  (∀ (s : State) (w : W32) (i : Instr), s.agenda = [] → s.core < 384 → issuing (cur s).seq = true →
    mapGet (cur s).seq.ibuf (cur s).seq.pc.toNat = some w → decodeSeq w = .ok i →
    step s = endTurn s (exec i s) ∧
    (∀ t, exec i s = .next t → t.lu.fbuf.length ≤ 1024 → step s = .next (afterTurn t) ∧
      (t.lu.busy = none → (∀ e ∈ t.cores, e.2.regions = []) → step s = .next t))) ∧
  (∀ (s : State) (n x y k : Nat) (r : List Turn) (i : Instr), n < 384 → x < 8 → y < 6 →
    (s.agenda = ⟨n, .node x⟩ :: r → nextNodeSlot { s with agenda := r } n x = some k →
      decodeOp ((nodeAt (coreAt s n) x).u.slot k).word0 = .ok i →
      step s = endTurn { s with agenda := r } (exec i (setLocus { s with agenda := r } n x 0 k))) ∧
    (s.agenda = ⟨n, .unit x y⟩ :: r → (x + y) % 2 = 1 → nextSlot (coreAt s n) (.site x y) = some k →
      decodeOp ((siteAt (coreAt s n) x y).slot k).word0 = .ok i →
      step s = endTurn { s with agenda := r } (exec i (setLocus { s with agenda := r } n x y k))))

/-- Words printed in the spec decode to their instructions. The words that the spec prints beside assembly statements decode
to those instructions: csrr s20, SQ_CAUSE; andi; xori; bne; addi; csrw; tret; trap 0; fence.y; kend; srai s4, s4, 3; ld s9,
s2, -8. (05_sequencer.md R147, R149, R156, R157 and 'A trap handler') -/
def Obligations.WordsOfTheSpecDecode : Prop :=
  decodeSeq 0x0E800001#32 = .ok (.csrr 20 1) ∧ decodeSeq 0x16B4003F#32 = .ok (.andi 21 20 0x3F) ∧
    decodeSeq 0x1EB5000A#32 = .ok (.xori 21 21 0x0A) ∧ decodeSeq 0x86A00005#32 = .ok (.bne 21 0 5) ∧
    decodeSeq 0x12D60004#32 = .ok (.addi 22 22 4) ∧ decodeSeq 0x0C160102#32 = .ok (.csrw 0 22 2) ∧
    decodeSeq 0xB0000030#32 = .ok .tret ∧ decodeSeq 0xB0000100#32 = .ok (.trap 0) ∧
    decodeSeq 0xB0000015#32 = .ok (.fence 5) ∧ decodeSeq 0xB0000031#32 = .ok .kend ∧
    decodeSeq 0x2C840203#32 = .ok (.srai 4 4 3) ∧ decodeSeq 0x5922FFF8#32 = .ok (.ld 9 2 0xFFF8)

/-- Decoding the encoding of a well-formed instruction gives it back. For every well-formed instruction, with every operand
at every value: its 32-bit word, given to the decoder of the words it belongs to (the sequencer's or the operation words'),
decodes to it, and its 16-bit word, given to the switch-word decoder, decodes to it. Every instruction but the commands and
events has one of the two words, and a word that a decoder accepts is the encoding of what it gives. (04_encodings.md R101 to
R118, R121) -/
def Obligations.DecodeOfEncodeIsTheInstruction : Prop :=
  (∀ i : Instr, WellFormed i = true →
    (∀ w, encode32 i = some w → decodeSeq w = .ok i ∨ decodeOp w = .ok i) ∧
    (∀ h, encode16 i = some h → decodeSw h = .ok i) ∧
    (wordless i = false → (encode32 i).isSome = true ∨ (encode16 i).isSome = true)) ∧
  (∀ w i, decodeSeq w = .ok i → encode32 i = some w) ∧ (∀ w i, decodeOp w = .ok i → encode32 i = some w) ∧
  (∀ h i, decodeSw h = .ok i → encode16 i = some h)

/-- What a decoder accepts is well formed. Every instruction that the sequencer's decoder, the operation-word decoder or the
switch-word decoder accepts respects the operand limits of the spec: of a matrix word all but the group rule, which R339
applies at placement. (04_encodings.md R105, R110 to R118, R121) -/
def Obligations.DecodedInstructionsAreWellFormed : Prop :=
  (∀ (w : W32) (i : Instr), decodeSeq w = .ok i → WellFormed i = true) ∧
  (∀ (w : W32) (i : Instr), decodeOp w = .ok i →
    (WellFormed i = true ∨ ∃ a g h m n b z c k, a.toNat / 4 = g.toNat ∧ (i = .mxMma a g h m n b z c k ∨ i = .mxMmas a g h m n b z c k))) ∧
  (∀ (w : BitVec 16) (i : Instr), decodeSw w = .ok i → WellFormed i = true)

/-- The launch unit's buffer never holds more than 1,024 records. From every state whose launch unit holds at most 1,024
waiting fault records, a step that answers a next state answers one that holds at most 1,024. (18_launch_and_preemption.md
R457) -/
def Obligations.FaultBufferHoldsAtMost1024 : Prop :=
  ∀ s t : State, s.lu.fbuf.length ≤ 1024 → step s = .next t → t.lu.fbuf.length ≤ 1024

/-- Every step keeps the memories canonical and the pcs aligned. From every state in which every memory of the machine is in
canonical form (memory, HBM bytes that no region reaches, the trust core's two partitions and its mailbox payload, each
core's live values, predicates, scratchpad, tile store and weight buffer, saved cores included, and the tiles and weights
that a retired cohort leaves to its successor), a step that answers a next state answers one in which they are; the same of
the alignment of every sequencer's pc, with what may become a pc: SQ_EPC, SQ_TVEC and the entries of launches.
(05_sequencer.md R132, R139 to R142, R153; 18_launch_and_preemption.md R447, R448; 19_host_peers_and_trust.md R470) -/
def Obligations.EveryStepKeepsTheInvariants : Prop :=
  ∀ s t : State, step s = .next t →
    (Safety.memoriesWf s = true → Safety.memoriesWf t = true) ∧ (Safety.pcsAligned s = true → Safety.pcsAligned t = true)

/-- Register zero reads zero; register instructions change rd and the pc alone. Reading s0 gives zero whatever was written; a
write of s0 leaves the sequencer as it was; a write of another register is read back, and every other register and everything
else the sequencer holds keep their values. When one of the nineteen instructions of major 0x01, the seven immediate and
three immediate-shift instructions, the eight multiply and divide instructions or csrr answers a next state from a state in
which the sequencer may issue with a register CSR number, the next state differs from that state in rd and the pc alone, the
sequencer in RUN: every other register, every special register and flag set, every pennant and command, every other core, the
launch unit, the store not yet performed, and every byte of memory, scratchpad and tile store are as before. (05_sequencer.md
R132; 05_sequencer.md R132, R145 to R148, R156) -/
def Obligations.RegisterZeroAndFrame : Prop :=
  (∀ (q : Seq) (d r : Reg) (v : Word),
    getX q 0 = 0 ∧ setX q 0 v = q ∧ (d ≠ 0 → getX (setX q d v) d = v) ∧ (r ≠ d → getX (setX q d v) r = getX q r) ∧
    { setX q d v with regs := q.regs } = q) ∧
  (∀ (s t : State) (d a b r : Reg) (i : BitVec 16) (n : BitVec 6) (c : BitVec 8), Ready s [d, a, b] → csrOk c = true →
    ∀ op ∈ [Instr.add d a b, .sub d a b, .and d a b, .or d a b, .xor d a b, .andn d a b, .sll d a b, .srl d a b, .sra d a b,
      .slt d a b, .sltu d a b, .seq d a b, .min d a b, .minu d a b, .max d a b, .maxu d a b, .clz d a, .ctz d a, .popc d a,
      .mul d a b, .mulh d a b, .mulhu d a b, .mulhsu d a b, .div d a b, .divu d a b, .rem d a b, .remu d a b,
      .addi d a i, .andi d a i, .ori d a i, .xori d a i, .slti d a i, .sltiu d a i, .lui d i,
      .slli d a n, .srli d a n, .srai d a n, .csrr d c], exec op s = .next t →
    (r ≠ d → X t r = X s r) ∧ t = withSeq s fun q => { q with regs := (cur t).seq.regs, pc := q.pc + 4 })

/-- The integer instructions of R145 write the stated result. Whenever the sequencer may issue, each of the nineteen
instructions of major 0x01 answers the state in which rd holds the stated value of X[ra] and X[rb] (written here in the
spec's exact arithmetic), pc has advanced by 4, and nothing else has changed. A word of major 0x01 is one of these
instructions by its function code, rb zero for clz, ctz and popc, and every other function is refused. (R145) -/
def Obligations.IntegerInstructionsCompute : Prop :=
  (∀ (w : W32) (i : Instr), bits w 26 6 = 0x01#6 →
    let d := bits w 21 5; let a := bits w 16 5; let b := bits w 11 5; let f := (bits w 0 11).toNat
    (decodeSeq w = .ok i ↔ (∃ e ∈ integerFunctions, f = e.1 ∧ i = e.2 d a b) ∨
      (∃ e ∈ countFunctions, f = e.1 ∧ b = 0 ∧ i = e.2 d a))) ∧
  (∀ (s : State) (d a b : Reg), Ready s [d, a, b] →
    let x := X s a; let y := X s b; let n := y.toNat % 64
    exec (.add d a b) s = .next (writes s d (BitVec.ofNat 64 (x.toNat + y.toNat))) ∧
    exec (.sub d a b) s = .next (writes s d (BitVec.ofInt 64 ((x.toNat : Int) - y.toNat))) ∧
    exec (.and d a b) s = .next (writes s d (x &&& y)) ∧
    exec (.or d a b) s = .next (writes s d (x ||| y)) ∧
    exec (.xor d a b) s = .next (writes s d (x ^^^ y)) ∧
    exec (.andn d a b) s = .next (writes s d (x &&& ~~~y)) ∧
    exec (.sll d a b) s = .next (writes s d (BitVec.ofNat 64 (x.toNat * 2 ^ n))) ∧
    exec (.srl d a b) s = .next (writes s d (BitVec.ofNat 64 (x.toNat / 2 ^ n))) ∧
    exec (.sra d a b) s = .next (writes s d (BitVec.ofInt 64 (x.toInt / 2 ^ n))) ∧
    exec (.slt d a b) s = .next (writes s d (if x.toInt < y.toInt then 1 else 0)) ∧
    exec (.sltu d a b) s = .next (writes s d (if x.toNat < y.toNat then 1 else 0)) ∧
    exec (.seq d a b) s = .next (writes s d (if x = y then 1 else 0)) ∧
    exec (.min d a b) s = .next (writes s d (if x.toInt ≤ y.toInt then x else y)) ∧
    exec (.minu d a b) s = .next (writes s d (if x.toNat ≤ y.toNat then x else y)) ∧
    exec (.max d a b) s = .next (writes s d (if y.toInt ≤ x.toInt then x else y)) ∧
    exec (.maxu d a b) s = .next (writes s d (if y.toNat ≤ x.toNat then x else y)) ∧
    (∃ k, exec (.clz d a) s = .next (writes s d (BitVec.ofNat 64 k)) ∧ k ≤ 64 ∧
      (∀ i < k, x.getLsbD (63 - i) = false) ∧ (k < 64 → x.getLsbD (63 - k) = true)) ∧
    (∃ k, exec (.ctz d a) s = .next (writes s d (BitVec.ofNat 64 k)) ∧ k ≤ 64 ∧
      (∀ i < k, x.getLsbD i = false) ∧ (k < 64 → x.getLsbD k = true)) ∧
    exec (.popc d a) s = .next (writes s d (BitVec.ofNat 64 ((List.range 64).countP x.getLsbD))))

/-- The immediate and immediate-shift instructions write the stated result. Whenever the sequencer may issue, each
instruction of majors 0x04 to 0x0B answers the state in which rd holds the stated value of X[ra] and the extended immediate
or the shift amount, pc has advanced by 4, and nothing else has changed. A word of majors 0x04 to 0x0B is one of these
instructions by its major and, for the shifts, by imm16 [9:8]; a nonzero ra of lui, a nonzero reserved bit of a shift and the
code 11 are refused. (R146; R147) -/
def Obligations.ImmediateInstructionsCompute : Prop :=
  (∀ (w : W32) (x : Instr), let m := bits w 26 6; let d := bits w 21 5; let a := bits w 16 5; let i := bits w 0 16
    (0x04#6 ≤ m ∧ m ≤ 0x0B#6 → (decodeSeq w = .ok x ↔
      (m = 0x04#6 ∧ x = .addi d a i) ∨ (m = 0x05#6 ∧ x = .andi d a i) ∨ (m = 0x06#6 ∧ x = .ori d a i) ∨
      (m = 0x07#6 ∧ x = .xori d a i) ∨ (m = 0x08#6 ∧ x = .slti d a i) ∨ (m = 0x09#6 ∧ x = .sltiu d a i) ∨
      (m = 0x0A#6 ∧ a = 0 ∧ x = .lui d i) ∨
      (m = 0x0B#6 ∧ bits i 10 6 = 0 ∧ bits i 6 2 = 0 ∧
        ((bits i 8 2 = 0b00#2 ∧ x = .slli d a (bits i 0 6)) ∨ (bits i 8 2 = 0b01#2 ∧ x = .srli d a (bits i 0 6)) ∨
          (bits i 8 2 = 0b10#2 ∧ x = .srai d a (bits i 0 6))))))) ∧
  decodeSeq 0x2C840203#32 = .ok (.srai 4 4 3) ∧
  (∀ s : State, Ready s [4] → exec (.lui 4 0x7FC0) s = .next (writes s 4 0x000000007FC00000)) ∧
  (∀ (s : State) (d a : Reg) (i : BitVec 16) (n : BitVec 6), Ready s [d, a] →
    let x := X s a; let z : Word := BitVec.ofNat 64 i.toNat
    exec (.addi d a i) s = .next (writes s d (BitVec.ofInt 64 (x.toNat + i.toInt))) ∧
    exec (.andi d a i) s = .next (writes s d (x &&& z)) ∧
    exec (.ori d a i) s = .next (writes s d (x ||| z)) ∧
    exec (.xori d a i) s = .next (writes s d (x ^^^ z)) ∧
    exec (.slti d a i) s = .next (writes s d (if x.toInt < i.toInt then 1 else 0)) ∧
    exec (.sltiu d a i) s = .next (writes s d (if x.toNat < (BitVec.ofInt 64 i.toInt).toNat then 1 else 0)) ∧
    exec (.lui d i) s = .next (writes s d (BitVec.ofInt 64 (i.toInt * 65536))) ∧
    exec (.slli d a n) s = .next (writes s d (BitVec.ofNat 64 (x.toNat * 2 ^ n.toNat))) ∧
    exec (.srli d a n) s = .next (writes s d (BitVec.ofNat 64 (x.toNat / 2 ^ n.toNat))) ∧
    exec (.srai d a n) s = .next (writes s d (BitVec.ofInt 64 (x.toInt / 2 ^ n.toNat))))

/-- The multiply and divide instructions write the stated result. Whenever the sequencer may issue, each instruction of major
0x02 answers the state in which rd holds the stated product, quotient or remainder (a zero divisor gives -1 or 2^64 - 1 and
the dividend; the most negative dividend over -1 gives -2^63 and 0), pc has advanced by 4, and nothing else has changed; none
of them traps. A word of major 0x02 is one of these instructions by its function code, and every other function is refused.
(R148) -/
def Obligations.MultiplyAndDivideCompute : Prop :=
  (∀ (w : W32) (i : Instr), bits w 26 6 = 0x02#6 →
    let d := bits w 21 5; let a := bits w 16 5; let b := bits w 11 5
    (decodeSeq w = .ok i ↔ ∃ e ∈ mulDivFunctions, (bits w 0 11).toNat = e.1 ∧ i = e.2 d a b)) ∧
  (∀ (s : State) (d a b : Reg), Ready s [d, a, b] →
    let x := X s a; let y := X s b
    exec (.mul d a b) s = .next (writes s d (BitVec.ofNat 64 (x.toNat * y.toNat))) ∧
    exec (.mulh d a b) s = .next (writes s d (BitVec.ofInt 64 (x.toInt * y.toInt / 2 ^ 64))) ∧
    exec (.mulhu d a b) s = .next (writes s d (BitVec.ofNat 64 (x.toNat * y.toNat / 2 ^ 64))) ∧
    exec (.mulhsu d a b) s = .next (writes s d (BitVec.ofInt 64 (x.toInt * y.toNat / 2 ^ 64))) ∧
    exec (.div d a b) s = .next (writes s d (if y = 0 then BitVec.ofInt 64 (-1)
      else if x.toInt = -2 ^ 63 ∧ y.toInt = -1 then BitVec.ofInt 64 (-2 ^ 63)
      else BitVec.ofInt 64 (x.toInt.tdiv y.toInt))) ∧
    exec (.rem d a b) s = .next (writes s d (if y = 0 then x
      else if x.toInt = -2 ^ 63 ∧ y.toInt = -1 then 0
      else BitVec.ofInt 64 (x.toInt - x.toInt.tdiv y.toInt * y.toInt))) ∧
    exec (.divu d a b) s = .next (writes s d (if y = 0 then BitVec.ofNat 64 (2 ^ 64 - 1)
      else BitVec.ofNat 64 (x.toNat / y.toNat))) ∧
    exec (.remu d a b) s = .next (writes s d (if y = 0 then x
      else BitVec.ofNat 64 (x.toNat - x.toNat / y.toNat * y.toNat))))

/-- csrr reads each register in its layout, csrw and its kin write its fields; an unassigned number or a reserved rounding
mode traps. Whenever the sequencer may issue, csrr of each assigned number answers the state in which rd holds the register
in the layout of R136 to R142, pc has advanced by 4 and nothing else has changed: SQ_STATUS with TH, PF and PB, the trap
registers, the cycle count, SQ_CTX, SQ_CORE of the core's own position, SQ_COHORT, the device identity, the rounding mode,
and SQ_FLAGS with the selected set, SEL and NZ. SQ_CTX and SQ_COHORT as a cohort's start writes them hold the context, its
class, the threads, the live values divided by 8 and the three indices in the fields of R139, and every reserved bit of them
is zero. Whenever the sequencer may issue with a handler installed, a CSR instruction that names an unassigned register, and
a csrw, csrs or csrc that would leave 6 or 7 in SQ_FPDEF, enter the handler with code 0x01 and the instruction's word as
INFO, once the store issued before has performed, and change neither SQ_FPDEF nor rd. Whenever the sequencer may issue: rd
takes the old value, csrw gives each RW field X[ra]'s bits, csrs and csrc set and clear them, csrw clears the PF bits and the
flags of the newly selected set where X[ra] has a 1, csrs and csrc clear none of them, and read-only and reserved fields do
not change. (05_sequencer.md R135 to R142, R156; 05_sequencer.md R141, R154, R155, R156) -/
def Obligations.CsrReadsAndWrites : Prop :=
  (((∀ (s : State) (d : Reg), Ready s [d] →
    let q := (cur s).seq; let n := s.core
    (∃ v, exec (.csrr d 0) s = .next (writes s d v) ∧ ∀ i : Nat, v.getLsbD i =
      if i = 0 then q.th else if 8 ≤ i ∧ i < 16 then q.pf.getLsbD (i - 8)
      else if 16 ≤ i ∧ i < 24 then decide (pennant q (i - 16) ≠ 0) else false) ∧
    exec (.csrr d 1) s = .next (writes s d q.cause) ∧ exec (.csrr d 2) s = .next (writes s d q.epc) ∧
    exec (.csrr d 3) s = .next (writes s d q.tvec) ∧ exec (.csrr d 4) s = .next (writes s d q.cycle) ∧
    exec (.csrr d 5) s = .next (writes s d q.ctxReg) ∧
    exec (.csrr d 6) s = .next (writes s d (BitVec.ofNat 64 (n % 4 + 4 * (n / 4 % 6) + 32 * (n / 24) + 65536 * n))) ∧
    exec (.csrr d 7) s = .next (writes s d q.cohReg) ∧
    exec (.csrr d 8) s = .next (writes s d 0x0000000100010001) ∧
    exec (.csrr d 9) s = .next (writes s d (q.fpdef.setWidth 64)) ∧
    (∃ v, exec (.csrr d 10) s = .next (writes s d v) ∧ ∀ i : Nat, v.getLsbD i =
      if i < 5 then (flagSet (cur s) q.sel.toNat).getLsbD i else if 8 ≤ i ∧ i < 12 then q.sel.getLsbD (i - 8)
      else if 16 ≤ i ∧ i < 25 then decide (flagSet (cur s) (i - 16) ≠ 0) else false)) ∧
  (∀ (s : State) (l : Launch) (h : Cohort) (cy : Word), l.ctx < 64 → (ctxAt s l.ctx).cls < 4 → h.nthr ≤ 4096 → h.live ≤ 32 →
    h.coh < 4 → h.cg < 8 → h.dg < 16 → let x := (startSeq s l h cy).ctxReg; let y := (startSeq s l h cy).cohReg
    let f := fun (v : Word) (b k : Nat) => (v.extractLsb' b k).toNat
    f x 0 6 = l.ctx ∧ f x 6 2 = 0 ∧ f x 8 2 = (ctxAt s l.ctx).cls ∧ f x 10 54 = 0 ∧
    f y 0 13 = h.nthr ∧ f y 13 3 = 0 ∧ f y 16 6 = h.live ∧ f y 22 2 = 0 ∧ f y 24 2 = h.coh ∧ f y 26 2 = 0 ∧
    f y 28 3 = h.cg ∧ f y 31 1 = 0 ∧ f y 32 4 = h.dg ∧ f y 36 28 = 0)) ∧
  (∀ (s : State) (d a : Reg) (r : BitVec 8), Ready s [d, a] → Handler (begun s) →
    let ill := fun (i : Instr) => trapped (begun s) (1 + 64 * ((encode32 i).getD 0).toNat)
    (csrOk r = false → exec (.csrr d r) s = .next (ill (.csrr d r)) ∧ exec (.csrw d a r) s = .next (ill (.csrw d a r)) ∧
      exec (.csrs d a r) s = .next (ill (.csrs d a r)) ∧ exec (.csrc d a r) s = .next (ill (.csrc d a r))) ∧
    (6 ≤ ((X s a).extractLsb' 0 3).toNat → exec (.csrw d a 9) s = .next (ill (.csrw d a 9))) ∧
    (6 ≤ ((cur s).seq.fpdef ||| (X s a).extractLsb' 0 3).toNat → exec (.csrs d a 9) s = .next (ill (.csrs d a 9))) ∧
    (6 ≤ ((cur s).seq.fpdef &&& ~~~((X s a).extractLsb' 0 3)).toNat → exec (.csrc d a 9) s = .next (ill (.csrc d a 9))))) ∧
  (∀ (s : State) (d a : Reg), Ready s [d, a] →
    let q := (cur s).seq; let x := X s a; let n := s.core; let c := ran s
    let put := fun (r : BitVec 8) (c' : Core) => setCur s { c' with seq := { setX c'.seq d (csrValue n (cur s) r) with pc := q.pc + 4 } }
    exec (.csrw d a 0) s = .next (put 0 { c with seq := { c.seq with pf := q.pf &&& ~~~(x.extractLsb' 8 8) } }) ∧
    exec (.csrs d a 0) s = .next (put 0 c) ∧ exec (.csrc d a 0) s = .next (put 0 c) ∧
    exec (.csrw d a 1) s = .next (put 1 { c with seq := { c.seq with cause := x } }) ∧
    exec (.csrs d a 1) s = .next (put 1 { c with seq := { c.seq with cause := q.cause ||| x } }) ∧
    exec (.csrc d a 1) s = .next (put 1 { c with seq := { c.seq with cause := q.cause &&& ~~~x } }) ∧
    exec (.csrw d a 2) s = .next (put 2 { c with seq := { c.seq with epc := x &&& ~~~3 } }) ∧
    exec (.csrw d a 3) s = .next (put 3 { c with seq := { c.seq with tvec := x &&& ~~~3 } }) ∧
    exec (.csrs d a 2) s = .next (put 2 { c with seq := { c.seq with epc := (q.epc ||| x) &&& ~~~3 } }) ∧
    exec (.csrc d a 2) s = .next (put 2 { c with seq := { c.seq with epc := q.epc &&& ~~~x &&& ~~~3 } }) ∧
    exec (.csrs d a 3) s = .next (put 3 { c with seq := { c.seq with tvec := (q.tvec ||| x) &&& ~~~3 } }) ∧
    exec (.csrc d a 3) s = .next (put 3 { c with seq := { c.seq with tvec := q.tvec &&& ~~~x &&& ~~~3 } }) ∧
    (∀ r : BitVec 8, 4 ≤ r.toNat → r.toNat ≤ 8 → exec (.csrw d a r) s = .next (put r c) ∧
      exec (.csrs d a r) s = .next (put r c) ∧ exec (.csrc d a r) s = .next (put r c)) ∧
    ((x.extractLsb' 0 3).toNat < 6 →
      exec (.csrw d a 9) s = .next (put 9 { c with seq := { c.seq with fpdef := x.extractLsb' 0 3 } })) ∧
    ((q.fpdef ||| x.extractLsb' 0 3).toNat < 6 →
      exec (.csrs d a 9) s = .next (put 9 { c with seq := { c.seq with fpdef := q.fpdef ||| x.extractLsb' 0 3 } })) ∧
    ((q.fpdef &&& ~~~(x.extractLsb' 0 3)).toNat < 6 →
      exec (.csrc d a 9) s = .next (put 9 { c with seq := { c.seq with fpdef := q.fpdef &&& ~~~(x.extractLsb' 0 3) } })) ∧
    exec (.csrw d a 10) s = .next (put 10 (clearIn { c with seq := { c.seq with sel := x.extractLsb' 8 4 } }
      (x.extractLsb' 8 4).toNat (x.extractLsb' 0 5))) ∧
    exec (.csrs d a 10) s = .next (put 10 { c with seq := { c.seq with sel := q.sel ||| x.extractLsb' 8 4 } }) ∧
    exec (.csrc d a 10) s = .next (put 10 { c with seq := { c.seq with sel := q.sel &&& ~~~(x.extractLsb' 8 4) } }))

/-- A load whose translation succeeds reads its bytes and extends them. Whenever the sequencer may issue and the effective
address is canonical, aligned, outside the local aperture, translates for reading and lies in memory without an uncorrectable
error, each of the seven loads answers a next state: the state after the walk, in which rd holds the extended little-endian
value at the physical address and pc has advanced by 4; nothing else changes after the walk. The load begins once the store
issued before it has performed; with no such store it begins in the same state. The bytes are those of memory at the load,
or, when it has read them ahead in an earlier turn, those that stood there then: a turn that lets it do so changes nothing
but that. That a load may read ahead at such a turn is how the model allows the outcomes of R160 (log entry 83).
(05_sequencer.md R144, R149, R150, R160; notes/assumptions/83.md) -/
def Obligations.LoadsReadMemoryAtHome : Prop :=
  (∀ (s u : State) (d a : Reg) (i : BitVec 16) (t : Tlb), ∀ e ∈ loads, Ready s [d, a] →
    let ea := X s a + BitVec.ofInt 64 i.toInt
    ((cur s).unstored = none → begun s = setCur s (ran s)) ∧
    (canonical ea = true → ea.toNat % e.1 = 0 → inAperture ea = false →
      translateAt (begun s) s.core ea .read = (u, .ok t) → placeBad u (t.phys ea) e.1 = false →
      exec (e.2.1 d a i) s = .next (writesIn u d (e.2.2 (seen u (t.phys ea) e.1))))) ∧
  (∀ (s : State) (n pa : Nat) (r : List Turn), s.agenda = ⟨n, .early pa⟩ :: r → n < 384 → let c := coreAt s n
    (issuing c.seq = true → c.unstored = none → pa % 8 = 0 → placeBad s pa 8 = false →
      step s = .next (setCore { s with agenda := r } n { c with early := some (pa, memRead s.mem pa 8) })) ∧
    (issuing c.seq = false ∨ c.unstored ≠ none → step s = .next { s with agenda := r }))

/-- A store whose translation succeeds is issued, performs later (when: log entry 83), and writes its bytes and nothing else.
Under the same conditions for writing, each of the four stores answers a next state: the state after the walk in which the
core holds the physical address with the low bytes of X[rd] as its store not yet performed, and pc has advanced by 4: no byte
of memory changes. When that store performs, in a place that is still one, the bytes stand at their address with the watches
on them checked; every byte of memory outside them reads as before, when no watch entry is held in a spill area, and in
canonical memory without watch entries they read back. It performs at the latest at a fence, an ifence or a core cycle (and
before the next load, store, atomic or waitu begins). That a store performs in a later step than the one that issues it, and
no later than the core's next cycle, is the model's choice (log entry 83). (05_sequencer.md R144, R149, R150, R157, R160;
15_home_slices_and_watch.md R391; notes/assumptions/83.md) -/
def Obligations.StoresWriteMemoryAtHome : Prop :=
  (∀ (s u : State) (d a : Reg) (i : BitVec 16) (t : Tlb), ∀ e ∈ stores, Ready s [d, a] →
    let ea := X s a + BitVec.ofInt 64 i.toInt
    canonical ea = true → ea.toNat % e.1 = 0 → inAperture ea = false →
    translateAt (begun s) s.core ea .write = (u, .ok t) → placeBad u (t.phys ea) e.1 = false →
    exec (e.2 d a i) s = .next (stored (setCur u { cur u with unstored := some (t.phys ea, leBytes e.1 (X s d).toNat) }))) ∧
  (∀ (s : State) (pa : Nat) (bs : List Byte) (sc : BitVec 3), (cur s).unstored = some (pa, bs) → placeBad s pa bs.length = false →
    let w := performStore s s.core
    w = placeWrite (setCur s { cur s with unstored := none }) pa bs ∧
    ((∀ e ∈ s.slices, e.2.spill = []) → ∀ p, p < pa ∨ pa + bs.length ≤ p → memGet w.mem p = memGet s.mem p) ∧
    (s.slices = [] → s.mem.wf = true → memRead w.mem pa bs.length = bs) ∧
    (Ready s [] → exec (.fence sc) s = .next (passed (ordered s)) ∧
      ∃ v, exec .ifence s = .next v ∧ (cur v).unstored = none ∧ v.mem = (begun s).mem) ∧
    ∃ v, exec .coreCycle s = .next v ∧ (cur v).unstored = none ∧ v.mem = w.mem)

/-- A sequencer access of the local aperture reaches the scratchpad and tile store. Whenever the sequencer may issue and the
aligned effective address lies in the local aperture: each load of a scratchpad byte of a core that runs the same launch, or
of the core's own tile store in a tile that is not Busy, reads that store and extends the value, while a load of a tile that
is Busy enters WAIT at the same pc; each store there writes its bytes at once, a tile so written becoming Filling (that it
performs at issue and not later is the model's choice: log entry 83); amo of a 4-byte type replaces a scratchpad word as one
event by the word of R387, raises the flags of a binary32 one in the core's flag set 8, and gives rd its old value. An access
to nothing, a store into a Full or Busy tile, and an amo of the tile store or of an 8-byte type enter the handler with code
0x08 and the offset. The aperture's map: offsets 0 to 2^24 - 1 name the scratchpad byte [20:0] of the core of rank [23:22] of
the cluster when bit 21 is 0, the byte exists and that core runs a cohort of the same launch; offsets 2^24 to 2^24 + 2^20 - 1
name a byte of the core's own tile store; every other offset names nothing. (05_sequencer.md R150, R151;
10_scratchpad_units.md R264; 13_matrix_engine.md R332; 15_home_slices_and_watch.md R386, R387; notes/assumptions/83.md;
05_sequencer.md R151) -/
def Obligations.LocalApertureAccesses : Prop :=
  ((∀ (s : State) (d a : Reg) (i : BitVec 16), Ready s [d, a] →
    let ea := X s a + BitVec.ofInt 64 i.toInt; let o := ea.toNat - 0xFFFFFFFF00000000; let u := begun s
    0xFFFFFFFF00000000 ≤ ea.toNat →
    (∀ e ∈ loads, ea.toNat % e.1 = 0 →
      (∀ m f, localOf u o = .scratch m f → isBad (coreAt u m).badScratch f e.1 = false →
        exec (e.2.1 d a i) s = .next (writesIn u d (e.2.2 (leNat (memRead (coreAt u m).scratch f e.1))))) ∧
      (∀ b, localOf u o = .tile b → isBad (cur u).badTile b e.1 = false → tagOf (cur u).mx (b / 16384) ≠ .busy →
        exec (e.2.1 d a i) s = .next (writesIn u d (e.2.2 (leNat (memRead (cur u).mx.tile b e.1))))) ∧
      (∀ b, localOf u o = .tile b → tagOf (cur u).mx (b / 16384) = .busy → (cur u).seq.st ≠ .dead →
        exec (e.2.1 d a i) s = .next (setCur u { cur u with seq := { (cur u).seq with st := .wait } })) ∧
      (Handler u → localOf u o = .none → exec (e.2.1 d a i) s = .next (trapped u (0x08 + 64 * o)))) ∧
    (∀ e ∈ stores, ea.toNat % e.1 = 0 →
      (∀ m f, localOf u o = .scratch m f → isBad (coreAt u m).badScratch f e.1 = false →
        exec (e.2 d a i) s = .next (stored (updCore u m fun c =>
          { c with scratch := memWrite c.scratch f (leBytes e.1 (X s d).toNat) }))) ∧
      (∀ b, localOf u o = .tile b → isBad (cur u).badTile b e.1 = false →
        (tagOf (cur u).mx (b / 16384) = .empty ∨ tagOf (cur u).mx (b / 16384) = .filling →
          exec (e.2 d a i) s = .next (stored (setCur u { cur u with
            mx := { setTag (cur u).mx (b / 16384) .filling with
              tile := memWrite (cur u).mx.tile b (leBytes e.1 (X s d).toNat) } }))) ∧
        (Handler u → tagOf (cur u).mx (b / 16384) = .full ∨ tagOf (cur u).mx (b / 16384) = .busy →
          exec (e.2 d a i) s = .next (trapped u (0x08 + 64 * o)))) ∧
      (Handler u → localOf u o = .none → exec (e.2 d a i) s = .next (trapped u (0x08 + 64 * o))))) ∧
  (∀ (s : State) (d a b : Reg) (o ty : BitVec 3), Ready s ([d, a, b] ++ if o == 7 then [a + 1] else []) → ty.toNat ≤ 4 →
    let ea := X s a; let off := ea.toNat - 0xFFFFFFFF00000000; let u := begun s
    0xFFFFFFFF00000000 ≤ ea.toNat → ea.toNat % amoSize ty = 0 →
    (∀ m f k, localOf u off = .scratch m f → (ty = 0 ∧ k = 5 ∨ ty = 1 ∧ k = 6 ∨ ty = 4 ∧ k = 7) →
      isBad (coreAt u m).badScratch f 4 = false → let old := leNat (memRead (coreAt u m).scratch f 4)
      let y := (X s b).toNat % 2 ^ 32; let e := if o = 7 then (X s (a + 1)).toNat % 2 ^ 32 else 0
      let w := updCore u m fun c => { c with scratch := memWrite c.scratch f (leBytes 4 (atomicWord (o.toNat + 2) k old y e)) }
      exec (.amo d a b o ty) s = .next (writesIn (setCur w (raiseIn (cur w) 8 (atomicFlags (o.toNat + 2) k old y))) d
        (if ty = 0 then BitVec.ofInt 64 (BitVec.ofNat 32 old).toInt else BitVec.ofNat 64 old))) ∧
    (Handler u → (∀ m f, localOf u off ≠ .scratch m f) ∨ ty = 2 ∨ ty = 3 →
      exec (.amo d a b o ty) s = .next (trapped u (0x08 + 64 * off))))) ∧
  (∀ (s : State) (h : Cohort) (o : Nat), (cur s).coh = some h →
    (2 ^ 24 ≤ o → o < 2 ^ 24 + 2 ^ 20 → localOf s o = .tile (o - 2 ^ 24)) ∧
    (2 ^ 24 + 2 ^ 20 ≤ o → localOf s o = .none) ∧
    (o < 2 ^ 24 → let m := s.core / 4 * 4 + o / 2 ^ 22
      let runs := ∃ g : Cohort, ((coreAt s m).coh = some g ∨ (coreAt s m).prev = some g) ∧ g.launch = h.launch
      (o / 2 ^ 21 % 2 = 0 → o % 2 ^ 21 < 1179648 → runs → localOf s o = .scratch m (o % 2 ^ 21)) ∧
      (o / 2 ^ 21 % 2 = 1 ∨ 1179648 ≤ o % 2 ^ 21 ∨ ¬ runs → localOf s o = .none)))

/-- A load or store at a non-canonical or misaligned address traps before it acts. Whenever the sequencer may issue with a
handler installed: at a non-canonical effective address every load traps with code 0x05 and every store with 0x06; at a
canonical misaligned one each load of 2, 4 or 8 bytes traps with 0x03 and each such store with 0x04; INFO is ea[57:0]. The
trap is entered from the state in which the store issued before it has performed; no register but the trap registers changes,
and the access itself changes no memory. (05_sequencer.md R149, R150, R155) -/
def Obligations.BadEffectiveAddressTraps : Prop :=
  ∀ (s : State) (d a : Reg) (i : BitVec 16), Ready s [d, a] → Handler (begun s) →
    let ea := X s a + BitVec.ofInt 64 i.toInt; let info := 64 * (ea.toNat % 2 ^ 58); let u := begun s
    (∀ e ∈ loads, (canonical ea = false → exec (e.2.1 d a i) s = .next (trapped u (0x05 + info))) ∧
      (canonical ea = true → ea.toNat % e.1 ≠ 0 → exec (e.2.1 d a i) s = .next (trapped u (0x03 + info)))) ∧
    (∀ e ∈ stores, (canonical ea = false → exec (e.2 d a i) s = .next (trapped u (0x06 + info))) ∧
      (canonical ea = true → ea.toNat % e.1 ≠ 0 → exec (e.2 d a i) s = .next (trapped u (0x04 + info)))) ∧
    (∀ r k, X (trapped u k) r = X u r) ∧ (∀ k, (trapped u k).mem = u.mem) ∧ ((cur s).unstored = none → u.mem = s.mem)

/-- A walk reads one entry a level; a translation fault parks the sequencer. When the translation of an aligned canonical
address outside the aperture fails with cause e while a cohort of the core runs, each load, each store and a demand fetch
with no cached translation answer the state after the walk with the sequencer in STALL on the instruction, one parked fault
that names the context's next fault number, and one waiting record of kind 0x0B with PARK set, the address and the cause; the
pc and every register keep their values. At a readable, error-free table entry the walk faults with cause 0x02 when it is not
valid and 0x04 when it is malformed; a leaf faults with 0x03 when it lacks a permission and with 0x05 when the address it
gives is not a place; otherwise it answers the page, and the entry in memory takes AC, and DT where the access writes, when
it lacks them; a table entry sends the walk one level down and is cached under its level and prefix, the oldest of more than
64 cached entries leaving (which one leaves, and that each is cached, is the model's choice: log entry 112); an unreadable
table faults with 0x04 and an uncorrectable error with 0x06. (05_sequencer.md R143, R152; 06_configuration_loader.md R187;
18_launch_and_preemption.md R455; 06_configuration_loader.md R184 to R187; notes/assumptions/112.md) -/
def Obligations.TranslationWalksAndParks : Prop :=
  (∀ (s u : State) (e : Nat) (h : Cohort), u.core = s.core → (cur u).coh = some h → (cur u).seq.st ≠ .dead →
    let z := (ctxAt u h.ctx).seq
    let parks := fun (ea : Word) (w : State) => (cur w).seq = { (cur u).seq with st := .stall } ∧
      (cur w).parked = (cur u).parked ++ [{ seq := z, who := .sequencer, va := ea, inRing := false, answer := 0 }] ∧
      (ctxAt w h.ctx).seq = z + 1 ∧ w.mem = u.mem ∧
      w.lu.fbuf = u.lu.fbuf ++ [(recordWords { Record.mk' 0x0B 7 e false with park := true, core := u.core, addr := ea }
        h.ctx z h.lid, h.ctx)]
    (∀ (d a : Reg) (i : BitVec 16), Ready s [d, a] → let ea := X s a + BitVec.ofInt 64 i.toInt
      canonical ea = true → inAperture ea = false →
      (translateAt (begun s) s.core ea .read = (u, .error e) →
        ∀ l ∈ loads, ea.toNat % l.1 = 0 → ∃ w, exec (l.2.1 d a i) s = .next w ∧ parks ea w) ∧
      (translateAt (begun s) s.core ea .write = (u, .error e) →
        ∀ l ∈ stores, ea.toNat % l.1 = 0 → ∃ w, exec (l.2 d a i) s = .next w ∧ parks ea w)) ∧
    (issuing (cur s).seq = true → let pc := (cur s).seq.pc
      canonical pc = true → pc.toNat % 4 = 0 → inAperture pc = false → itlbHit (cur s).seq pc = none →
      translateAt s s.core pc .exec = (u, .error e) → ∃ w, exec (.sequencerFetch 0) s = .next w ∧ parks pc w)) ∧
  (∀ (s : State) (wc : WalkCache) (va lvl t fuel : Nat) (need : Need),
    let a := t + lvlIndex va lvl; let e : Word := BitVec.ofNat 64 (memNat s.mem a 8)
    let addr := (e.extractLsb' 8 44).toNat * 256; let r := walkFrom (fuel + 1) s wc va need lvl t
    (paOk s a = false → r = (s, wc, .error 0x04)) ∧
    (paOk s a = true → isBad s.badMem a 8 = true → r = (s, wc, .error 0x06)) ∧
    (paOk s a = true → isBad s.badMem a 8 = false →
      (e.getLsbD 0 = false → r = (s, wc, .error 0x02)) ∧
      (e.getLsbD 0 = true → badEntry e lvl = true → r = (s, wc, .error 0x04)) ∧
      (e.getLsbD 0 = true → badEntry e lvl = false → e.getLsbD 1 = false →
        r = walkFrom fuel s ((wc ++ [(lvl + 1, va / 2 ^ lvlShift lvl, addr)]).drop (wc.length + 1 - 64)) va need (lvl + 1) addr) ∧
      (e.getLsbD 0 = true → badEntry e lvl = false → e.getLsbD 1 = true →
        let ok := match need with
          | .read => e.getLsbD 2 | .write => e.getLsbD 3 | .both => e.getLsbD 2 && e.getLsbD 3 | .exec => e.getLsbD 4
        (ok = false → r = (s, wc, .error 0x03)) ∧
        (ok = true → paOk s (addr + va % 2 ^ lvlShift lvl) = false → r = (s, wc, .error 0x05)) ∧
        (ok = true → paOk s (addr + va % 2 ^ lvlShift lvl) = true →
          let e' := e ||| (if need = .write ∨ need = .both then 0x60#64 else 0x20#64)
          ∃ p, r = (if e' = e then s else placeWrite s a (leBytes 8 e'.toNat), wc, .ok p) ∧
          p.pa = addr ∧ p.size = 2 ^ lvlShift lvl ∧ p.va = va / p.size * p.size ∧ p.rd = e.getLsbD 2 ∧ p.wr = e.getLsbD 3 ∧
          p.ex = e.getLsbD 4))))

/-- Branches and jumps go to their target; a bad target traps before any write. Whenever the sequencer may issue, a branch
whose condition holds and whose target is canonical and outside the local aperture makes pc the target, one whose condition
fails makes pc advance by 4 wherever its target lies, and nothing else changes. Whenever the sequencer may issue with a
handler installed, jalr, j, jal and each of the six branches that is taken, at a non-canonical target, trap with code 0x07,
at a canonical misaligned one with 0x02, and at an aligned one in the local aperture with 0x08 and its offset; SQ_EPC names
the instruction, no register changes, and the store issued before has performed. Whenever the sequencer may issue and the
target is canonical, a multiple of 4 and outside the local aperture, j makes pc the target, jal also writes pc + 4 to s31,
jalr also writes pc + 4 to rd and computes its target from the old value of ra, and nothing else changes. (05_sequencer.md
R153; 05_sequencer.md R153, R154, R155) -/
def Obligations.BranchesAndJumpsGoToTheirTarget : Prop :=
  ((∀ (s : State) (a b : Reg) (o : BitVec 16), Ready s [a, b] →
    let x := X s a; let y := X s b; let pc := (cur s).seq.pc; let tgt := pc + 4 * BitVec.ofInt 64 o.toInt
    let ok := canonical tgt = true ∧ pc.toNat % 4 = 0 ∧ inAperture tgt = false
    let goes := fun (i : Instr) (c : Prop) => (c → ok → exec i s = .next (withSeq s fun q => { q with pc := tgt })) ∧
      (¬ c → exec i s = .next (withSeq s fun q => { q with pc := pc + 4 }))
    goes (.beq a b o) (x = y) ∧ goes (.bne a b o) (x ≠ y) ∧ goes (.blt a b o) (x.toInt < y.toInt) ∧
    goes (.bge a b o) (x.toInt ≥ y.toInt) ∧ goes (.bltu a b o) (x.toNat < y.toNat) ∧ goes (.bgeu a b o) (x.toNat ≥ y.toNat)) ∧
  (∀ (s : State) (d a : Reg) (i : BitVec 16) (o : BitVec 26), Ready s [d, a, 31] → Handler (begun s) →
    let pc := (cur s).seq.pc; let tj := pc + 4 * BitVec.ofInt 64 o.toInt; let tr := X s a + BitVec.ofInt 64 i.toInt
    let tb := pc + 4 * BitVec.ofInt 64 i.toInt
    let bad := fun (t : Word) (n : Nat) =>
      (canonical t = false ∧ n = 0x07 + 64 * (t.toNat % 2 ^ 58)) ∨
      (canonical t = true ∧ t.toNat % 4 ≠ 0 ∧ n = 0x02 + 64 * (t.toNat % 2 ^ 58)) ∨
      (t.toNat % 4 = 0 ∧ 0xFFFFFFFF00000000 ≤ t.toNat ∧ n = 0x08 + 64 * (t.toNat - 0xFFFFFFFF00000000))
    ∀ n : Nat, let z := trapped (begun s) n
    (bad tr n → exec (.jalr d a i) s = .next z) ∧
    (bad tj n → exec (.j o) s = .next z ∧ exec (.jal o) s = .next z) ∧
    (bad tb n → let x := X s a; let y := X s d
      (x = y → exec (.beq a d i) s = .next z) ∧ (x ≠ y → exec (.bne a d i) s = .next z) ∧
      (x.toInt < y.toInt → exec (.blt a d i) s = .next z) ∧ (x.toInt ≥ y.toInt → exec (.bge a d i) s = .next z) ∧
      (x.toNat < y.toNat → exec (.bltu a d i) s = .next z) ∧ (x.toNat ≥ y.toNat → exec (.bgeu a d i) s = .next z)) ∧
    (∀ r, X z r = X (begun s) r) ∧ (cur (begun s)).seq.pc = pc)) ∧
  (∀ (s : State) (d a : Reg) (i : BitVec 16) (o : BitVec 26),
    let pc := (cur s).seq.pc; let tj := pc + 4 * BitVec.ofInt 64 o.toInt; let tr := X s a + BitVec.ofInt 64 i.toInt
    (Ready s [31] → canonical tj = true → tj.toNat % 4 = 0 → inAperture tj = false →
      exec (.j o) s = .next (withSeq s fun q => { q with pc := tj }) ∧
      exec (.jal o) s = .next (withSeq s fun q => { setX q 31 (pc + 4) with pc := tj })) ∧
    (Ready s [d, a] → canonical tr = true → tr.toNat % 4 = 0 → inAperture tr = false →
      exec (.jalr d a i) s = .next (withSeq s fun q => { setX q d (pc + 4) with pc := tr })))

/-- A trap enters the handler, and without one ends the cohort; tret returns. Whenever the sequencer may issue: with TH = 0
and a handler installed, trap n saves the pc in SQ_EPC, 0x0A + 64*n in SQ_CAUSE, sets TH and goes to SQ_TVEC, and an illegal
word w enters with 1 + 64*w; each from the state in which the store issued before has performed. With TH = 1, tret makes pc
SQ_EPC and clears TH; with TH = 0, tret is an illegal instruction, and with TH = 0, kend enters DONE at its own pc (that the
pc stays at the kend is deduced: log entry 11). With TH = 1, kend is an illegal instruction and so ends the cohort fatally.
Whenever the sequencer may issue with TH = 1 or SQ_TVEC = 0 and its core runs a cohort that has not ended once the store
issued before has performed, trap n and an illegal word, and with TH = 1 kend, answer a state in which the sequencer is DEAD
with its pc at the instruction, the cohort and its launch are marked fatal, and one record of kind 0x0C waits whose STATUS is
the cause's low 32 bits, ADDR the pc and UNIT 7; no register, SQ_CAUSE or SQ_EPC changes. (05_sequencer.md R154, R155, R157;
notes/assumptions/11.md; 05_sequencer.md R155; 18_launch_and_preemption.md R455) -/
def Obligations.TrapsEnterTheHandlerOrEndTheCohort : Prop :=
  (∀ (s : State) (n : BitVec 8) (w : W32), Ready s [] →
    (let u := begun s; Handler u → exec (.trap n) s = .next (trapped u (0x0A + 64 * n.toNat)) ∧
      exec (.illegalInstruction w) s = .next (trapped u (1 + 64 * w.toNat)) ∧
      ((cur s).seq.th = false → exec .tret s = .next (trapped u (1 + 64 * 0xB0000030)))) ∧
    ((cur s).seq.th = true → exec .tret s = .next (withSeq s fun q => { q with pc := q.epc, th := false })) ∧
    ((cur s).seq.th = false → exec .kend s = .next (setCur s { ran s with
      seq := { (cur s).seq with st := .done }, bs := { (cur s).bs with hold := false, armHold := false } }))) ∧
  (∀ (s : State) (n : BitVec 8) (w : W32) (h : Cohort), Ready s [] → let u := begun s
    (cur u).seq.th = true ∨ (cur u).seq.tvec = 0 → (cur u).seq.st ≠ .dead → (cur u).coh = some h → h.fatal = false →
    (∃ t, exec (.trap n) s = .next t ∧ EndsFatally u h (0x0A + 64 * n.toNat) t) ∧
    (∃ t, exec (.illegalInstruction w) s = .next t ∧ EndsFatally u h (1 + 64 * w.toNat) t) ∧
    ((cur s).seq.th = true → (cur u).seq.th = true ∧
      ∃ t, exec .kend s = .next t ∧ EndsFatally u h (1 + 64 * 0xB0000031) t))

/-- Fences and waits end when nothing is outstanding; waitu registers or ends at once. Whenever the sequencer may issue: a
fence of any scope performs the store issued before it, advances pc by 4, drops what a load has read ahead and changes
nothing else; ifence does so and empties the instruction buffer; waitp with no pennant of its mask holding advances pc and
drops what has been read ahead, and with one that holds (its count is not 0, or a command that names it waits for acceptance)
enters WAIT at the same pc. Whenever the sequencer may issue, once the store issued before it has performed and where that
has not ended the cohort: an operand that breaks R405 gives status 0x02 and pc advances; with valid operands and a handler
installed, a non-canonical address traps with code 0x05 and a canonical misaligned one with 0x03, and nothing is registered;
with valid operands and an address that is canonical and aligned, one in the aperture or of the capacity tier gives status
0x15; with one that is readable elsewhere and without an error, if the condition holds on the word, waitu writes 0x11 to rd
and the value to rd + 1 and advances pc; else, with room in the home slice's table, the sequencer enters WAIT at the same pc
and the entry stands in that slice. (05_sequencer.md R144, R157, R159; 15_home_slices_and_watch.md R390, R392, R405, R406;
05_sequencer.md R154, R155) -/
def Obligations.FencesAndWaits : Prop :=
  (∀ (s : State) (sc : BitVec 3) (m : BitVec 8), Ready s [] →
    let now := { ran s with early := none }
    exec (.fence sc) s = .next (passed (ordered s)) ∧
    exec .ifence s = .next (passed (performStore (setCur s { now with seq := { now.seq with ibuf := [] } }) s.core)) ∧
    ((cur s).unstored = none → exec (.fence sc) s = .next (passed (setCur s now))) ∧
    ((∀ p : Nat, p < 8 → m.getLsbD p = true → pennant (cur s).seq p = 0) →
      (∀ k ∈ (cur s).cmds, k.rdWait = true → ∀ p, k.pen = some p → m.getLsbD p = false) →
      exec (.waitp m) s = .next (passed (setCur s now))) ∧
    ((∃ p : Nat, p < 8 ∧ m.getLsbD p = true ∧ pennant (cur s).seq p ≠ 0) ∨
      (∃ k ∈ (cur s).cmds, k.rdWait = true ∧ ∃ p, k.pen = some p ∧ m.getLsbD p = true) →
      exec (.waitp m) s = .next (withSeq s fun q => { q with st := .wait }))) ∧
  (∀ (s u : State) (d a b : Reg) (t : Tlb) (h : Cohort), Ready s [d, d + 1, a, a + 1, a + 2, b] →
    let ea := X s a; let k := X s (a + 1); let m := X s (a + 2); let w := k.getLsbD 3; let n := if w then 8 else 4
    let ends := fun (v : State) (c : Word) (y : Option Word) => setCur v { cur v with seq :=
      { (match y with | some y => setX (setX (cur v).seq d c) (d + 1) y | none => setX (cur v).seq d c) with
        pc := (cur v).seq.pc + 4, st := .run, waitu := none } }
    let o := ordered s; (cur o).seq.st ≠ .dead →
    (waituBad k m = true → exec (.waitu d a b) s = .next (ends o 2 none)) ∧
    (waituBad k m = false → Handler o → let info := 64 * (ea.toNat % 2 ^ 58)
      (canonical ea = false → exec (.waitu d a b) s = .next (trapped o (0x05 + info))) ∧
      (canonical ea = true → ea.toNat % n ≠ 0 → exec (.waitu d a b) s = .next (trapped o (0x03 + info)))) ∧
    (waituBad k m = false → canonical ea = true → ea.toNat % n = 0 → inAperture ea = true →
      exec (.waitu d a b) s = .next (ends o 0x15 none)) ∧
    (waituBad k m = false → canonical ea = true → ea.toNat % n = 0 → inAperture ea = false →
      translateAt o s.core ea .read = (u, .ok t) → isCap (t.phys ea) = true → (cur u).seq.st ≠ .dead →
      exec (.waitu d a b) s = .next (ends u 0x15 none)) ∧
    (waituBad k m = false → canonical ea = true → ea.toNat % n = 0 → inAperture ea = false → (cur u).coh = some h →
      translateAt o s.core ea .read = (u, .ok t) → isCap (t.phys ea) = false →
      placeBad u (t.phys ea) n = false → (cur u).seq.st ≠ .dead →
      let v := BitVec.ofNat 64 (leNat (memRead u.mem (t.phys ea) n))
      let x := if w then X s b else BitVec.ofNat 64 ((X s b).toNat % 2 ^ 32)
      let yes := holds (k.toNat % 8) w v x (m.setWidth 32)
      (yes = true → exec (.waitu d a b) s = .next (ends u 0x11 (some v))) ∧
      (yes = false → (sliceAt u (homeSlice u (t.phys ea))).onchip.length < min (sliceAt u (homeSlice u (t.phys ea))).wlimit 4096 →
        ∃ (e : Watch) (z : State), exec (.waitu d a b) s = .next z ∧ (cur z).seq.st = .wait ∧ (cur z).seq.pc = (cur u).seq.pc ∧
          (cur z).seq.waitu = some (d.toNat, w) ∧ (sliceAt z (homeSlice u (t.phys ea))).onchip =
            (sliceAt u (homeSlice u (t.phys ea))).onchip ++ [e] ∧
          e.pa = t.phys ea ∧ e.agent = 1 ∧ e.ctx = h.ctx ∧ e.cmp = k.toNat % 8 ∧ e.opnd = x)))

/-- A fetch through a cached translation puts the word of memory into the instruction buffer. When the sequencer may issue,
the address is canonical, aligned and outside the aperture, a fetch translation covers it and its place is readable,
SEQUENCER_FETCH answers the state whose buffer holds the four bytes of memory there as a little-endian word, and changes
nothing else: another word that the buffer holds then, it held before; a demand fetch with a handler installed at a
non-canonical pc traps with code 0x07, at an aligned pc in the local aperture with 0x08 and its offset, and at a translated
pc whose word meets an uncorrectable error or is no place with 0x09, each once the store issued before has performed; a
read-ahead at such an address does nothing. (05_sequencer.md R143, R153, R154) -/
def Obligations.SequencerFetchFillsTheBuffer : Prop :=
  ∀ (s : State) (k pa : Nat), issuing (cur s).seq = true →
    let va := (cur s).seq.pc + BitVec.ofNat 64 (4 * k)
    (canonical va = true → va.toNat % 4 = 0 → inAperture va = false → itlbHit (cur s).seq va = some pa →
      placeBad s pa 4 = false → ∃ b, exec (.sequencerFetch k) s = .next (setCur s { cur s with seq := { (cur s).seq with ibuf := b } }) ∧
      mapGet b va.toNat = some (BitVec.ofNat 32 (leNat (memRead s.mem pa 4))) ∧
      ∀ p w, mapGet b p = some w → p = va.toNat ∨ mapGet (cur s).seq.ibuf p = some w) ∧
    (canonical va = false ∨ 0xFFFFFFFF00000000 ≤ va.toNat → k ≠ 0 → exec (.sequencerFetch k) s = .next s) ∧
    (canonical va = true → va.toNat % 4 = 0 → inAperture va = false → itlbHit (cur s).seq va = some pa → placeBad s pa 4 = true →
      k ≠ 0 → exec (.sequencerFetch k) s = .next s) ∧
    (let u := performStore s s.core; k = 0 → Handler u →
      (canonical va = false →
        exec (.sequencerFetch 0) s = .next (trapped u (0x07 + 64 * (va.toNat % 2 ^ 58)))) ∧
      (va.toNat % 4 = 0 → 0xFFFFFFFF00000000 ≤ va.toNat →
        exec (.sequencerFetch 0) s = .next (trapped u (0x08 + 64 * (va.toNat - 0xFFFFFFFF00000000)))) ∧
      (canonical va = true → va.toNat % 4 = 0 → inAperture va = false → itlbHit (cur s).seq va = some pa →
        placeBad s pa 4 = true →
        exec (.sequencerFetch 0) s = .next (trapped u (0x09 + 64 * (va.toNat % 2 ^ 58)))))

/-- amo replaces the word at home as one event and gives rd its old value. Whenever the sequencer may issue and the effective
address is canonical, aligned to the type's size, outside the aperture, translates for reading and writing and lies in memory
without an error, amo answers a next state: the state after the walk with the new value written at the physical address and
its watches checked, the old value in rd (sign extended for .s32, zero extended for .n32 and .f32), and pc advanced by 4. For
an integer type the new value is the wrapped sum, the lesser, the greater, the bitwise combination, the operand, or for cas
the operand where the old value equals the expected one and the old value elsewhere; for .f32 it is the once-rounded sum, the
lesser or the greater by R63, a bitwise combination, the operand, or for cas the operand where the old word equals the
expected one, and the sum's, minimum's and maximum's flags are raised in the core's flag set 8. It begins once the store
issued before it has performed. (15_home_slices_and_watch.md R385 to R387; 04_encodings.md R104; 02_numbers.md R61, R63) -/
def Obligations.AmoReadsAndReplacesTheWord : Prop :=
  ∀ (s u : State) (d a b : Reg) (o ty : BitVec 3) (t : Tlb), Ready s ([d, a, b] ++ if o == 7 then [a + 1] else []) →
    ty.toNat ≤ 4 → let k := if ty.toNat = 2 ∨ ty.toNat = 3 then 8 else 4; let ea := X s a
    canonical ea = true → ea.toNat % k = 0 → inAperture ea = false →
    translateAt (begun s) s.core ea .both = (u, .ok t) → placeBad u (t.phys ea) k = false →
    let old := leNat (memRead u.mem (t.phys ea) k); let y := (X s b).toNat % 2 ^ (8 * k)
    let z := if o == 7 then (X s (a + 1)).toNat % 2 ^ (8 * k) else 0
    let num := fun (v : Nat) => if ty = 0 ∨ ty = 2 then (BitVec.ofNat (8 * k) v).toInt else (v % 2 ^ (8 * k) : Nat)
    let new := match o.toNat with
      | 0 => (old + y) % 2 ^ (8 * k) | 1 => if num old ≤ num y then old else y | 2 => if num old ≤ num y then y else old
      | 3 => old &&& y | 4 => old ||| y | 5 => old ^^^ y | 6 => y | _ => if old = z then y else old
    let w := if ty = 4 then updCur (placeWrite u (t.phys ea) (leBytes 4 (atomicWord (o.toNat + 2) 7 old y z))) fun c =>
        raiseIn c 8 (atomicFlags (o.toNat + 2) 7 old y)
      else placeWrite u (t.phys ea) (leBytes k new)
    let r := if ty = 0 then BitVec.ofInt 64 (BitVec.ofNat 32 old).toInt else BitVec.ofNat 64 old
    exec (.amo d a b o ty) s = .next (writesIn w d r)

/-- cpin and cunpin on a line of HBM; wcancel cancels the entries it names. With no engine command outstanding and a live
cohort, cpin and cunpin write one status to rd and advance pc: 0x02 for a non-canonical address; and where the address
translates for reading, 0x1C for a line that is not in HBM. In HBM, cpin of a line that no context has pinned answers 0x18
where its set has 14 pinned lines, else 0x19 where its context has no quota left at that slice, and else records one pin of
that context; cpin of a pinned line answers 0x1A where another context has pinned it, 0x03 at a count of 255, and else counts
one pin more. cunpin answers 0x1B where the context has not pinned the line; it takes one pin away, and removes the line at
the last. With no engine command outstanding, a live cohort, a selector of 0 to 3, a canonical 4-byte-aligned address that
translates for reading, and no bucket of a spilled entry with a memory error: wcancel answers a state in which no entry of
the issuing context that the selector names is left on the word, one wake of cause 0x13 stands for each entry taken, and rd
holds their number, at most 65,535, in bits [31:16]. That an entry stands on the word when its own address is that of the
operand, so that an 8-byte entry named by its upper half stays, is deduced (log entry 26); registrations that wait for room
count with the entries (log entry 70). (15_home_slices_and_watch.md R384; 15_home_slices_and_watch.md R393, R407;
notes/assumptions/26.md; notes/assumptions/70.md) -/
def Obligations.PinsAndCancellation : Prop :=
  (∀ (s u : State) (d a : Reg) (h : Cohort) (t : Tlb), Alone s none h → let pa := t.phys (X s a); let line := pa / 1024
    let ends := fun (i : Instr) (k : Word) (ps : List (Nat × Nat × Nat)) => ∃ z, exec i s = .next z ∧ z.pins = ps ∧
      (d ≠ 0 → X z d = k) ∧ (cur z).seq.pc = (cur s).seq.pc + 4 ∧ (cur z).cmds = []
    (canonical (X s a) = false → exec (.cpin d a) s = .next (replied s d 0x02) ∧ exec (.cunpin d a) s = .next (replied s d 0x02)) ∧
    (canonical (X s a) = true → translateAt (issued s d [a] none (.cpin d a)) s.core (X s a) .read = (u, .ok t) →
      (rangeOf u pa ≠ some .hbm → ends (.cpin d a) 0x1C u.pins) ∧
      (rangeOf u pa = some .hbm →
        ((∀ p ∈ u.pins, p.1 ≠ line) →
          let inSet := ((pinsAt u pa).filter fun p => cacheSet (1024 * p.1) == cacheSet pa).length
          let mine := ((pinsAt u pa).filter fun p => p.2.1 == h.ctx).length
          (14 ≤ inSet → ends (.cpin d a) 0x18 u.pins) ∧
          (inSet < 14 → (ctxAt u h.ctx).pinq ≤ mine → ends (.cpin d a) 0x19 u.pins) ∧
          (inSet < 14 → mine < (ctxAt u h.ctx).pinq → ends (.cpin d a) 0 (u.pins ++ [(line, h.ctx, 1)]))) ∧
        (∀ x k, u.pins = [(line, x, k)] →
          (x ≠ h.ctx → ends (.cpin d a) 0x1A u.pins) ∧ (x = h.ctx → 255 ≤ k → ends (.cpin d a) 0x03 u.pins) ∧
          (x = h.ctx → k < 255 → ends (.cpin d a) 0 [(line, x, k + 1)])))) ∧
    (canonical (X s a) = true → translateAt (issued s d [a] none (.cunpin d a)) s.core (X s a) .read = (u, .ok t) →
      (rangeOf u pa ≠ some .hbm → ends (.cunpin d a) 0x1C u.pins) ∧
      (rangeOf u pa = some .hbm →
        ((∀ p ∈ u.pins, p.1 = line → p.2.1 ≠ h.ctx) → ends (.cunpin d a) 0x1B u.pins) ∧
        (∀ k, u.pins = [(line, h.ctx, k)] → ends (.cunpin d a) 0 (if k ≤ 1 then [] else [(line, h.ctx, k - 1)]))))) ∧
  (∀ (s u : State) (d a b : Reg) (h : Cohort) (t : Tlb), Alone s none h → canonical (X s a) = true →
    (X s a).toNat % 4 = 0 → (X s b).toNat < 4 → d ≠ 0 →
    translateAt (issued s d [a, b] none (.wcancel d a b)) s.core (X s a) .read = (u, .ok t) →
    (∀ x ∈ u.slices, ∀ e ∈ x.2.spill, bucketBad u e.1 = false) →
    let p := cancelNames h (X s b).toNat (t.phys (X s a))
    let gone := pickWatches u p ++ u.slices.flatMap fun x => x.2.retry.filter p
    ∃ z, exec (.wcancel d a b) s = .next z ∧ pickWatches z p = [] ∧
      X z d = BitVec.ofNat 64 (min gone.length 65535 * 65536) ∧ (cur z).seq.pc = (cur s).seq.pc + 4 ∧
      z.wakes = u.wakes ++ gone.map fun e => { cause := 0x13, value := watchValue u e, e := e })

/-- Writes of the home map. While the management window answers, and once every store that a sequencer has issued has
performed (log entry 83): a write that populates an unpopulated entry, and passes the checks of R378, gives the entry its
named fields; a write of MODE 00 to a populated entry leaves it unpopulated, removes the pins of its lines and, where no
bucket of a spilled entry has a memory error, wakes every watch on its words, those still waiting for room included (the
model's choice, log entry 70), with cause 0x13; a write of another MODE to a populated entry changes nothing; and without the
window nothing changes. (15_home_slices_and_watch.md R378, R379; 19_host_peers_and_trust.md R470, R472;
notes/assumptions/70.md; notes/assumptions/83.md) -/
def Obligations.HomeMapWritesPopulateAndDepopulate : Prop :=
  ∀ (s : State) (n : Nat) (v : Word), n < 2048 → let old := mapGetD s.homeMap n 0
    (s.mod.window = false → exec (.homeMapWrite n v) s = .next s ∧ exec (.homeMapDepopulate n v) s = .next s) ∧
    (s.mod.window = true → let u := performStores s
      ((∀ e ∈ s.cores, e.2.unstored = none) → u = s) ∧
      (v.extractLsb' 0 2 ≠ 0 → old.extractLsb' 0 2 = 0 → homeRefused u n v = false →
        ∃ z, exec (.homeMapWrite n v) s = .next z ∧ z.homeMap = mapSet s.homeMap n (homeFields v) ∧
          z.cores = u.cores ∧ z.slices = u.slices ∧ z.pins = u.pins ∧ (u.hbm = [] → z.mem = u.mem)) ∧
      (v.extractLsb' 0 2 ≠ 0 → old.extractLsb' 0 2 ≠ 0 → exec (.homeMapWrite n v) s = .next u) ∧
      (old.extractLsb' 0 2 ≠ 0 → ∃ z, exec (.homeMapDepopulate n v) s = .next z ∧
        (mapGetD z.homeMap n 0).extractLsb' 0 2 = 0 ∧ (∀ p ∈ z.pins, 1024 * p.1 / 2 ^ 30 ≠ n) ∧
        (pickWatches z fun e => e.pa / 2 ^ 30 == n) = [] ∧
        ((∀ x ∈ u.slices, ∀ e ∈ x.2.spill, bucketBad u e.1 = false) →
          z.wakes = u.wakes ++ ((pickWatches u fun e => e.pa / 2 ^ 30 == n) ++
            u.slices.flatMap fun x => x.2.retry.filter fun e => e.pa / 2 ^ 30 == n).map
            fun e => { cause := 0x13, value := watchValue u e, e := e })))

/-- Sweeps, timeouts, spill moves, wake delivery and thread wakes. A sweep at a slice where no registration waits for room
raises its sweep number modulo 2^16; a write of HS_WCFG through the window sets WLIMIT; an entry whose sweep has come leaves
with one wake of cause 0x12 and the word's value; where spilling is enabled and the line's buckets have no error, an on-chip
entry moves into the first free place of its buckets; a wake for the launch unit waits for it; and a wake of a sequencer's
waitu that its core receives writes the cause to rd and the value to rd + 1, advances the pc and ends the wait. When a core
that is not saving holds a thread wake first among its wakes and runs a cohort, THREAD_WAKE takes it, removes the threads of
its mask from WATCH and sets their bits in waiting[CONT]. With L live values a thread, and v the number of them, each of
these threads has the cause in lv(v - 8), the low half of the value in lv(v - 7) and, for an 8-byte watch, the upper half in
lv(v - 6), else 0 there; every other live value is as before. A wake at scope .t or .c leaves the banks as they are; one at
.k or wider, of a core whose banks hold one sector, makes a clean one invalid and leaves its dirty bytes partial.
(15_home_slices_and_watch.md R393 to R400, R406; 15_home_slices_and_watch.md R404) -/
def Obligations.WatchTableEvents : Prop :=
  (∀ (s : State) (n i : Nat) (v : Word) (e : Watch) (w : Wake) (k : Nat) (d : Nat) (f : Bool), n < 256 → let sl := sliceAt s n
    (sl.retry = [] → exec (.watchSweep n) s = .next (setSlice s n { sl with sweep := (sl.sweep + 1) % 65536, retry := [] })) ∧
    (s.mod.window = true → ∃ z, exec (.hsWcfgWrite n v) s = .next z ∧ (sliceAt z n).wlimit = v.toNat % 8192) ∧
    (sl.onchip[i]? = some e → watchDue sl e = true → exec (.watchTimeout n i) s =
      .next { setSlice s n { sl with onchip := dropNth sl.onchip i } with
        wakes := s.wakes ++ [{ cause := 0x12, value := watchValue s e, e := e }] }) ∧
    (sl.onchip[i]? = some e → sl.spen = true → freePlace s sl e.pa = some k →
      (∀ b ∈ lineBuckets sl e.pa, bucketBad s b = false) →
      ∃ z, exec (.watchSpillMove n i) s = .next z ∧ (sliceAt z n).onchip = dropNth sl.onchip i ∧
        (sliceAt z n).spill = sl.spill ++ [(k, e)] ∧ z.mem = memWrite s.mem k (watchBytes e)) ∧
    (s.wakes[i]? = some w → w.e.agent = 2 → exec (.wakeDeliver i) s = .next s) ∧
    (s.wakes[i]? = some w → w.e.agent = 1 → residentCore s w.e = some k → (coreAt s k).saving = false →
      (coreAt s k).seq.waitu = some (d, f) → (coreAt s k).seq.st = .wait → 0 < d → d < 31 →
      ∃ z, exec (.wakeDeliver i) s = .next z ∧ z.wakes = dropNth s.wakes i ∧ (coreAt z k).seq.st = .run ∧
        (coreAt z k).seq.waitu = none ∧ (coreAt z k).seq.pc = (coreAt s k).seq.pc + 4 ∧
        getX (coreAt z k).seq (BitVec.ofNat 5 d) = BitVec.ofNat 64 w.cause ∧
        getX (coreAt z k).seq (BitVec.ofNat 5 (d + 1)) = w.value)) ∧
  (∀ (s : State) (cause cont tb pa : Nat) (v : Word) (mask : Nat) (wd sc : Nat) (r : List (Nat × Word × List Nat)) (h : Cohort),
    (cur s).wakes = (cause, v, [0, cont, tb, mask, wd, sc, pa]) :: r → (cur s).saving = false →
    fabricCohort (cur s) = some h → let v0 := 8 * h.live
    let tags := (List.range 32).filterMap fun i => if mask / 2 ^ i % 2 = 1 then some (32 * tb + i) else none
    ∃ z, exec .threadWake s = .next z ∧ (cur z).wakes = r ∧
      (cur z).bs.waiting = addTags (cur s).bs.waiting cont tags ∧
      (cur z).bs.watch = (cur s).bs.watch.filter (fun t => !tags.contains t) ∧ z.mem = s.mem ∧
      (sc < 2 → (cur z).nodes = (cur s).nodes) ∧
      (∀ b nd i e, 2 ≤ sc → (cur s).nodes = [(b, nd)] → b < 8 → nd.sectors = [(i, e)] →
        (sectorAt (cur z) b i).filled = false ∧ (sectorAt (cur z) b i).dirty = e.dirty) ∧
      (1 ≤ h.live → h.live ≤ 32 → (cur s).lv.wf = true →
        (∀ t ∈ tags, lvGet (cur z) t (v0 - 8) = BitVec.ofNat 32 cause ∧ lvGet (cur z) t (v0 - 7) = v.setWidth 32 ∧
          lvGet (cur z) t (v0 - 6) = if wd = 1 then v.extractLsb' 32 32 else 0) ∧
        ∀ t i, i < 256 → (t ∉ tags ∨ i < v0 - 8 ∨ v0 - 6 < i) → lvGet (cur z) t i = lvGet (cur s) t i))

/-- Routing switch words move the token at their input to their output. When the token at the head of input i of the unit at
the locus belongs to the slot there, the word handles its kind, its output is free and it wins its output (R205), sw.route,
sw.merge from either input, sw.gate, sw.null, sw.ord and a sw.bound that orders nothing answer a next state in which the
token has left that input and stands at the output, with the slot field of the word; sw.gate adds 1 to the frame of a token
from its back input, and sw.null applies its null policy to a run, under policy identity with the identity that its slot was
given at placement. (07_fabric.md R202, R205, R209, R211; 04_encodings.md R117) -/
def Obligations.SwitchWordsMoveTheirToken : Prop :=
  ∀ (s : State) (t : Tok) (i o j n : BitVec 3) (p : BitVec 2) (sc : BitVec 3), o.toNat ≤ 4 →
    (Moves s (.swRoute i o n) i.toNat 0 t → Moved s (.swRoute i o n) i.toNat o.toNat { t with slot := n.toNat }) ∧
    (Moves s (.swOrd i o n) i.toNat 0 t → Moved s (.swOrd i o n) i.toNat o.toNat { t with slot := n.toNat }) ∧
    (Moves s (.swMerge i o j n) j.toNat 0 t → Moved s (.swMerge i o j n) j.toNat o.toNat { t with slot := n.toNat }) ∧
    (Moves s (.swMerge i o j n) i.toNat 0 t → Silent s (.swMerge i o j n) j.toNat →
      Moved s (.swMerge i o j n) i.toNat o.toNat { t with slot := n.toNat }) ∧
    (Moves s (.swGate i o j n) j.toNat 0 t →
      Moved s (.swGate i o j n) j.toNat o.toNat { t with slot := n.toNat, frame := t.frame + 1 }) ∧
    (i ≠ j → Moves s (.swGate i o j n) i.toNat 0 t → Silent s (.swGate i o j n) j.toNat →
      Moved s (.swGate i o j n) i.toNat o.toNat { t with slot := n.toNat }) ∧
    (Moves s (.swBound i o sc n) i.toNat 0 t → sc.toNat ≤ 1 → unperformed (cur s) t.tags = false →
      Moved s (.swBound i o sc n) i.toNat o.toNat { t with slot := n.toNat }) ∧
    (let d := mapGetD ((siteAt (cur s) s.locus.x s.locus.y).slot s.locus.slot).idents i.toNat 0;
      Moves s (.swNull i o p n) i.toNat d t → Moved s (.swNull i o p n) i.toNat o.toNat
        { t with slot := n.toNat, lanes := if t.isRun then (t.lanes.map fun l =>
            if !l.null then l else if p = 0 then ⟨0, true⟩ else if p = 1 then l else ⟨d, false⟩) else t.lanes })

/-- sw.fork copies, sw.steer divides, sw.sink consumes, sw.src passes its source's token, sw.ctl sets a control token aside.
Under the same conditions: sw.fork puts one copy at each output of its mask; sw.steer sends the lanes that are not null and
have the tested bit to the true port and the others to the false port, each as one run, a run with all its lanes on one side
going there whole; sw.sink consumes the token and lowers the census by one; sw.src takes the head of its source's queue to
its output; sw.ctl moves a control token to the side input with its port. (07_fabric.md R205, R209, R210, R213, R219;
09_vector_elements_conversion_and_runs.md R251) -/
def Obligations.ForkSteerSinkSourceAndControlWords : Prop :=
  ∀ (s : State) (t : Tok) (i o n tp fp : BitVec 3) (m : BitVec 6) (b : BitVec 1) (l : BitVec 2) (r : Nat) (q : Source),
    let u := siteAt (cur s) s.locus.x s.locus.y; let at' := fun (z : State) => siteAt (cur z) s.locus.x s.locus.y
    (m.toNat < 16 → Moves s (.swFork i n m) i.toNat 0 t → ∃ z, exec (.swFork i n m) s = .next z ∧
      (at' z).queue i.toNat = (u.dropSlot i.toNat s.locus.slot).queue i.toNat ∧
      ∀ p : Nat, p < 4 → m.getLsbD p = true → mapGet (at' z).out p = some { t with slot := n.toNat }) ∧
    (t.isRun = true → tp.toNat < 4 → fp.toNat < 4 → tp ≠ fp → Moves s (.swSteer i tp b fp l) i.toNat 0 t →
      let yes := steerTrue l.toNat t; let no := t.tags.filter fun a => !yes.contains a
      ∃ z, exec (.swSteer i tp b fp l) s = .next z ∧ (at' z).queue i.toNat = (u.dropSlot i.toNat s.locus.slot).queue i.toNat ∧
        (no = [] → mapGet (at' z).out tp.toNat = some t) ∧
        (no ≠ [] → yes = [] → mapGet (at' z).out fp.toNat = some t) ∧
        (no ≠ [] → yes ≠ [] → mapGet (at' z).out tp.toNat = some (steerPart t yes) ∧
          mapGet (at' z).out fp.toNat = some (steerPart t no))) ∧
    (Moves s (.swSink i) i.toNat 0 t → ∃ z, exec (.swSink i) s = .next z ∧
      (at' z).queue i.toNat = (u.dropSlot i.toNat s.locus.slot).queue i.toNat ∧ (cur z).regions = (census (cur s) t.place (-1)).regions) ∧
    (o.toNat < 4 → headOf (cur s) u s.locus.slot (.swSrc o tp n) 0 = some (16 + tp.toNat, t) → srcOf (cur s) u tp.toNat = some (r, q) →
      mapGet u.out o.toNat = none → (∀ e ∈ u.sent, e.1 ≠ 5 + tp.toNat) → mayMove (cur s) u (5 + tp.toNat) o.toNat = true →
      ∃ z, exec (.swSrc o tp n) s = .next z ∧ mapGet (at' z).out o.toNat = some { t with slot := n.toNat } ∧
        (sourceAt (cur z) r tp.toNat).map (·.q) = some (q.q.drop 1)) ∧
    (t.kind = .control → Moves s (.swCtl i) i.toNat 0 t →
      ∃ z, exec (.swCtl i) s = .next z ∧ (at' z).side = u.side ++ [(i.toNat, t)] ∧
        (at' z).queue i.toNat = (u.dropSlot i.toNat s.locus.slot).queue i.toNat)

/-- A token crosses a link to the neighbouring unit's buffer, which keeps its order. When the output register of a port of a
site holds a token of the configuration placed there, the link leads to a neighbouring site whose buffer has space and whose
words handle the token, LINK_TOKEN_SEND empties the register and appends the token to that buffer; toward a memory node's, a
stream port's or a tile port's buffer likewise. A memory node sends the head of its port S to the site below it in the same
way, when the buffer of that site has space and a word there handles the token. (07_fabric.md R196, R197, R202) -/
def Obligations.LinksCarryTokensInOrder : Prop :=
  (∀ (s : State) (x y p a b q : Nat) (t : Tok) (g : Config), x < 8 → y < 6 → p < 4 →
    let c := cur s; let u := siteAt c x y
    mapGet u.out p = some t → cfgOfPlace c t.place = some g →
    (linkDest g x y p = .site a b q → siteKey a b ≠ siteKey x y → hasSpace ((siteAt c a b).queue q) t = true →
      ((siteAt c a b).wordFor t.slot q).isSome = true →
      ∃ z, exec (.linkTokenSend (.site x y) p) s = .next z ∧ mapGet (siteAt (cur z) x y).out p = none ∧
        (siteAt (cur z) a b).queue q = (siteAt c a b).queue q ++ [t]) ∧
    (linkDest g x y p = .mn a → hasSpace ((unitAt c (.mn a)).queue 0) t = true →
      (nodeRoute (unitAt c (.mn a)) t.slot).isSome = true → t.kind ≠ .control →
      ∃ z, exec (.linkTokenSend (.site x y) p) s = .next z ∧
        (unitAt (cur z) (.mn a)).queue 0 = (unitAt c (.mn a)).queue 0 ++ [t]) ∧
    (linkDest g x y p = .sp a → hasSpace (portAt c a).q t = true →
      ∃ z, exec (.linkTokenSend (.site x y) p) s = .next z ∧ (portAt (cur z) a).q = (portAt c a).q ++ [t]) ∧
    (linkDest g x y p = .me a → hasSpace (mapGetD c.mx.ports a []) t = true →
      ∃ z, exec (.linkTokenSend (.site x y) p) s = .next z ∧
        mapGet (cur z).mx.ports a = some (mapGetD c.mx.ports a [] ++ [t]))) ∧
  (∀ (s : State) (x p : Nat) (v : Tok) (r : List Tok), x < 8 → let c := cur s
    (unitAt c (.mn x)).queue 4 = v :: r → hasSpace ((siteAt c x 0).queue 0) v = true →
      ((siteAt c x 0).wordFor v.slot 0).isSome = true →
      ∃ z, exec (.linkTokenSend (.mn x) p) s = .next z ∧ (unitAt (cur z) (.mn x)).queue 4 = r ∧
        (siteAt (cur z) x 0).queue 0 = (siteAt c x 0).queue 0 ++ [v])

/-- A token at a slot with one input fires alone; two runs that pair fire their common range. When the token at a slot input
of a site or memory node that is not saved is a run or ordering token, no control token holds it back, the slot has no
accumulator and one input in use, and no other token waits there, TOKEN_MATCH takes it from the input and appends a matched
set with that token alone. For a slot with inputs 0 and 1 in use and an empty store: a contiguous run that arrives at one of
them after a contiguous run of the same context, round and frame has come to wait at the other, and that has a tag in common
with it, fires exactly the common tags, the run of input 0 first in the set; what the arriving run holds below and above the
common tags, and then what the waiting one holds, waits in the store as pieces of its own kind. With no tag in common, it
waits and nothing fires. (07_fabric.md R206, R207) -/
def Obligations.TokensMatch : Prop :=
  (∀ (s : State) (unit : UnitId) (i : Nat) (q : Waiting), unitOk unit = true → let c := cur s; let u := unitAt c unit
    slotHead c unit i = some q → q.tok.isData = true → (u.slot q.slot).acc = false → u.saved = false →
    heldByControl u q = false → inputsOf (isNode unit) (u.slot q.slot) = [q.inp] → u.store = [] →
    ∃ z, exec (.tokenMatch unit i) s = .next z ∧
      (unitAt (cur z) unit).ready = u.ready ++ [{ slot := q.slot, toks := [q.tok] }] ∧ (unitAt (cur z) unit).store = []) ∧
  (∀ (u : FUnit) (n a b c d p : Nat) (t v : Tok), t.kind = .run → v.kind = .run →
    pairs t v = true → t.tags = (List.range b).map (· + a) → v.tags = (List.range d).map (· + c) →
    0 < b → 0 < d → b ≤ 32 → d ≤ 32 → t.lanes.length = b → v.lanes.length = d → p < 2 →
    let held := { slot := n, inp := p, tok := t }
    let m := matchAll 200 { u with store := [held] } n [0, 1] [(1 - p, v)] 0
    let lo := max a c; let hi := min (a + b) (c + d); let common := (List.range (hi - lo)).map (· + lo)
    let pieces := fun (q : Nat) (k : Tok) => [k.tags.filter (· < lo), k.tags.filter (hi ≤ ·)].filterMap fun l =>
      if l = [] then none else some ({ slot := n, inp := q, tok := k.cut l } : Waiting)
    m.bad = none ∧
    (lo < hi → m.u.ready = u.ready ++ [{ slot := n, toks := if p = 0 then [t.cut common, v.cut common] else [v.cut common, t.cut common] }] ∧
      m.u.store = pieces (1 - p) v ++ pieces p t) ∧
    (hi ≤ lo → m.u.ready = u.ready ∧ m.u.store = [held, { slot := n, inp := 1 - p, tok := v }]))

/-- A round marker passes once it has come on every channel; a looped region's round closes at a census of zero. When a
site's switch carries exactly one word, from port i to port o, its marker channel to o is i alone: taking a marker at the
head of channel i forwards it to the free output o in the same event, with its round, and leaves no mark behind; when the one
word merges ports i and j to o, the marker of channel i is recorded and nothing is forwarded before that of j comes. When a
looped region that no splice replaces has a census of zero, every source of it stands at its mark or has ended and one stands
at its mark, it holds no stateful node and its output edge ports are free at sites that have not saved, LOOP_ROUND_SIGNAL
puts a marker of the round at every output edge port, and the sources reopen one round on. (07_fabric.md R215; 07_fabric.md
R218) -/
def Obligations.RoundsClose : Prop :=
  (∀ (s : State) (x y : Nat) (i o j n : BitVec 3) (t : Tok) (sl : Slot), x < 8 → y < 6 → i.toNat < 4 → o.toNat < 4 →
    let u := siteAt (cur s) x y
    sl.en = true → sl.acc = false → u.slots = [(0, sl)] → u.marks = [] → u.saved = false →
    (u.queue i.toNat).head? = some t → t.kind = .marker → t.place = u.place → mapGet u.out o.toNat = none →
    ∃ z, exec (.roundMarkerArrival (.site x y) i.toNat) s = .next z ∧
      (siteAt (cur z) x y).queue i.toNat = (u.queue i.toNat).drop 1 ∧
      (sl.words = [.swRoute i o n] → (siteAt (cur z) x y).marks = [] ∧
        (mapGet (siteAt (cur z) x y).out o.toNat).map (fun m => (m.kind, m.round)) = some (.marker, t.round)) ∧
      (sl.words = [.swMerge i o j n] → i ≠ j → j.toNat < 4 → mapGet (siteAt (cur z) x y).out o.toNat = none ∧
        (siteAt (cur z) x y).marks = [{ kind := .marker, chan := i.toNat, cons := o.toNat, round := t.round }])) ∧
  (∀ (s : State) (r : Nat) (g : Region), mapGet (cur s).regions r = some g → g.looped = true → g.census = 0 → g.succ = none →
    (∀ q ∈ g.sources, q.marked = true ∨ q.done = true) → (∃ q ∈ g.sources, q.marked = true) →
    statefulNodes (cur s) g.cfg.place = [] →
    (∀ e ∈ g.cfg.edges, epOut e = true → let u := siteAt (cur s) (edgeSite g.cfg (epPort e)).1 (edgeSite g.cfg (epPort e)).2.1
      u.saved = false ∧ mapGet u.out (edgeSite g.cfg (epPort e)).2.2 = none) →
    ∃ z, exec (.loopRoundSignal r) s = .next z ∧
      (mapGet (cur z).regions r).map (·.sources) = some (g.sources.map fun q =>
        { q with marked := false, round := if q.marked then q.round + 1 else q.round, turns := if q.marked then q.turns + 1 else q.turns }) ∧
      (∀ e ∈ g.cfg.edges, epOut e = true →
        ((mapGet (siteAt (cur z) (edgeSite g.cfg (epPort e)).1 (edgeSite g.cfg (epPort e)).2.1).out
          (edgeSite g.cfg (epPort e)).2.2).map (·.kind)) = some .marker))

/-- A stop token passes, is absorbed or passes one level lower, and releases an accumulator at its level. When a stop token
stands at an input of a slot of a site or memory node that is idle, has forwarded every marker it took and has space for a
result: at an input other than 0 it is consumed, which lowers the census by one. At input 0 of a slot that releases nothing
it leaves by the slot's output with SACT 0, is consumed with SACT 1, and with another SACT is consumed at level 1 and
otherwise leaves one level lower. At input 0 of an accumulating slot whose SLEV is not zero and at most the level of the
token, the accumulator of the token's round leaves first, as a run of one lane with tag 0 and that round, a null lane where
no value came, and starts empty again, those of other rounds staying; then SACT applies. The lane of an integer addition is
the sum of the values modulo 2^32, or with saturation clamped to the range of its type. (07_fabric.md R216, R217;
11_memory_nodes.md R284; 08_vector_elements_arithmetic.md R231) -/
def Obligations.StopTokensAct : Prop :=
  (∀ (s : State) (unit : UnitId) (i : Nat) (q : Waiting), unitOk unit = true →
    let c := cur s; let u := unitAt c unit; let sl := u.slot q.slot
    slotHead c unit i = some q → q.tok.kind = .stop → u.store = [] → u.ready = [] → u.marks = [] → u.saved = false →
    c.flights = [] → c.parked = [] → resultSpace c unit q.slot = true →
    let gone := setCur s (setUnit c unit (dropHead u unit i))
    let absorbed := updCur gone fun c => census c q.tok.place (-1)
    let due := isNode unit = false ∧ sl.en = true ∧ sl.acc = true ∧ sl.slev ≠ 0 ∧ sl.slev ≤ q.tok.level
    (q.inp ≠ 0 → exec (.stopToken unit i) s = .next absorbed) ∧
    (q.inp = 0 → ¬ due → (sl.sact = 0 → exec (.stopToken unit i) s = .next (emitTok gone s.core unit q.slot q.tok)) ∧
      (sl.sact = 1 → exec (.stopToken unit i) s = .next absorbed) ∧
      (2 ≤ sl.sact → q.tok.level ≤ 1 → exec (.stopToken unit i) s = .next absorbed) ∧
      (2 ≤ sl.sact → 1 < q.tok.level → exec (.stopToken unit i) s =
        .next (emitTok gone s.core unit q.slot { q.tok with level := q.tok.level - 1 }))) ∧
    (∀ (x y : Nat) (w : Instr), unit = .site x y → q.inp = 0 → due → isOwner unit sl = false → u.wordFor q.slot 4 = some w →
      kindOk q.tok w = true → kindOk { q.tok with kind := .run } w = true →
      let mine := fun (a : Acc) => a.slot == q.slot && a.round == q.tok.round
      let lane : Lane := match u.accs.find? mine with
        | some a => if a.vals = [] then ⟨0, true⟩ else ⟨a.res.getD (accValue sl a.vals).1, false⟩
        | none => ⟨0, true⟩
      let ctx := match fabricCohort c with | some h => h.ctx | none => 0
      let run := { bareTok .run q.slot q.tok.round ctx u.place with tags := [0], lanes := [lane] }
      ∃ z, exec (.stopToken unit i) s = .next z ∧
        (siteAt (cur z) x y).queue 4 = u.queue 4 ++ run :: (if sl.sact = 0 then [{ q.tok with slot := q.slot }]
          else if 2 ≤ sl.sact ∧ 1 < q.tok.level then [{ q.tok with slot := q.slot, level := q.tok.level - 1 }] else []) ∧
        (siteAt (cur z) x y).accs = u.accs.filter (fun a => !(mine a)))) ∧
  (∀ (sl : Slot) (vs : List W32), Stg.op sl.word0 = 0 → Stg.ty sl.word0 ≤ 1 →
    (Stg.sat sl.word0 = false → (accValue sl vs).1 = BitVec.ofInt 32 ((vs.map fun v => v.toInt).sum)) ∧
    (Stg.sat sl.word0 = true → Stg.ty sl.word0 = 0 →
      (accValue sl vs).1 = BitVec.ofInt 32 (max (-2 ^ 31) (min (2 ^ 31 - 1) ((vs.map fun v => v.toInt).sum)))) ∧
    (Stg.sat sl.word0 = true → Stg.ty sl.word0 = 1 →
      (accValue sl vs).1 = BitVec.ofNat 32 (min (2 ^ 32 - 1) ((vs.map fun v => v.toNat).sum))))

/-- A control token sets the rounding and saturation fields of the stages it names; the slot of a malformed one's record is
log entry 76. When the first control token of the side input of a site that is not saved is well formed and no token of its
port for its slot has still to fire, CONTROL_TOKEN_APPLY takes it, lowers its census by one, and rewrites exactly the stages
that it names at an even site; a malformed one changes no stage and leaves a recoverable record of cause 0x04, whose slot is
the token's own slot field: R252 would fit TSLOT too, and the choice is the model's (log entry 76).
(09_vector_elements_conversion_and_runs.md R250 to R252; notes/assumptions/76.md) -/
def Obligations.ControlTokensPatchTheirSlot : Prop :=
  ∀ (s : State) (x y p : Nat) (t : Tok) (r : List (Nat × Tok)), x < 8 → y < 6 →
    let c := cur s; let u := siteAt c x y; let v := ctlWord t; let n := v.toNat % 8; let sl := u.slot n
    u.side = (p, t) :: r → u.saved = false →
    (ctlBad u v = false → pendingFrom u n p = false → (∀ l ∈ t.lanes.drop 1, l.v = 0) →
      ∃ z, exec (.controlTokenApply x y 0) s = .next z ∧ (siteAt (cur z) x y).side = r ∧
        (∀ k, k < sl.stages.length → nthD ((siteAt (cur z) x y).slot n).stages k 0 =
          if v.getLsbD (3 + k) = true ∧ k < sl.nst ∧ (x + y) % 2 = 0 then patchStage sl.acc v (nthD sl.stages k 0) else nthD sl.stages k 0) ∧
        (cur z).regions = (census c t.place (-1)).regions) ∧
    (ctlBad u v = true → exec (.controlTokenApply x y 0) s = .next (fabricFault (setCur s
      (census (setSite c x y { u with side := r }) t.place (-1))) s.core (.site x y) t.slot 0x04 false 0 0))

/-- A firing of scld, scst or scamo resolves each acting lane in its window and sends its access to its holding unit. When
the unit of the odd site at the locus takes a matched set for its slot, some lane acts and every acting lane's address
resolves in the window, each scratchpad access instruction answers a next state with one new flight of as many outstanding
lanes, and with each acting lane's access, at its resolved rank and offset, on its way to the holding unit of that offset. A
window address resolves in the window record of the cohort that the slot's words belong to by the tests of R270, in their
order: bounds is 1, alignment 2, and else the rank is bits [23:22] and the offset is 8*BASE plus bits [20:0].
(10_scratchpad_units.md R264, R270 to R272) -/
def Obligations.ScratchpadAccessesFireToTheirHoldingUnits : Prop :=
  (∀ (s : State) (i : Instr) (win size a : Nat) (rd wr : Bool) (f : Fire) (sl : Slot) (core : Core),
    scratchForm i = some (win, size, rd, wr, a) →
    let id := UnitId.site s.locus.x s.locus.y
    takeFire s id = some (f, sl, core) → let act := (unitLanes id sl f).filter (·.act)
    let at' := fun (l : Work) => resolveWin (setCur s core) s.core
      (placeCohort core (siteAt core s.locus.x s.locus.y).place) (unitSrc sl l a) win size rd wr
    act ≠ [] → (∀ l ∈ act, ∃ p, at' l = .ok p) →
    ∃ z, exec i s = .next z ∧
      (cur z).flights = core.flights ++ [newFlight (setCur s core) id i f (unitLanes id sl f) act.length] ∧
      (∀ l ∈ act, ∀ p, at' l = .ok p →
        ∃ q ∈ mapGetD (cur z).hold (holdKey p) [], q.flight = s.nextId ∧ q.lane = l.pos ∧ q.tag = l.tag ∧
          q.addr = 2 ^ 22 * p.1 + p.2 ∧ q.size = size) ∧ z.mem = s.mem ∧ (cur z).scratch = core.scratch) ∧
  (∀ (s : State) (k n size : Nat) (h : Cohort) (v : W32) (rd wr : Bool), let w := nthD h.windows n 0
    let f := fun (b j : Nat) => (w.extractLsb' b j).toNat; let o := (v.extractLsb' 0 21).toNat; let r := (v.extractLsb' 22 2).toNat
    let a := 8 * f 3 18 + o; let d := coreAt s (k / 4 * 4 + r); let res := resolveWin s k (some h) v n size rd wr
    let bounds := v.getLsbD 21 = true ∨ v.extractLsb' 24 8 ≠ 0 ∨ f 24 21 = 0 ∨ f 24 21 < o + size ∨ w.getLsbD (48 + r) = false ∨
      (rd = true ∧ w.getLsbD 52 = false) ∨ (wr = true ∧ w.getLsbD 53 = false) ∨ 1179648 < a + size ∨
      ¬ ∃ g : Cohort, (d.coh = some g ∨ d.prev = some g) ∧ g.launch = h.launch
    (bounds → res = .error 1) ∧ (¬ bounds → a % size ≠ 0 → res = .error 2) ∧ (¬ bounds → a % size = 0 → res = .ok (r, a)))

/-- A holding unit performs a load, a store or an atomic on its bytes. When the first request that waits for a holding unit
belongs to a flight of a site's slot with further lanes outstanding that is no owner node, no lane of that run with a lower
tag waits there too, and its bytes have no error: a load gives the lane the extended value; a store writes the data's low
bytes; an atomic writes the stated new value and gives the lane the old word: the sum (integer sums wrap; a binary32 sum is
rounded once to nearest even), the lesser or the greater by the type, a bitwise combination, the operand, or for cas the
operand where the old word equals the expected one. Flags of a binary32 atomic go to its placement's set. Every other byte of
the scratchpad keeps its value. (10_scratchpad_units.md R264, R265, R271, R272) -/
def Obligations.HoldingUnitsPerformAccesses : Prop :=
  ∀ (s : State) (n x y : Nat) (a : Access) (r : List Access) (f : Flight), n < 96 → let c := cur s
    mapGetD c.hold n [] = a :: r → c.flights = [f] → f.id = a.flight → f.unit = .site x y → 1 < f.left →
    isOwner f.unit ((siteAt c x y).slot f.slot) = false → peer s.core (a.addr / 2 ^ 22) = s.core →
    let off := a.addr % 2 ^ 22; isBad c.badScratch off a.size = false → (∀ b ∈ r, b.flight = a.flight → a.tag ≤ b.tag) → let old := leNat (memRead c.scratch off a.size)
    let after := fun (z : State) (v : W32) (m : Mem) => (cur z).scratch = m ∧ z.mem = s.mem ∧
      (cur z).flights = [{ f with left := f.left - 1, res := f.res.set a.lane ⟨v, false⟩ }] ∧
      mapGetD (cur z).hold n [] = r ∧
      ∀ b, (accessKind f.op = 0 ∨ b < off ∨ off + a.size ≤ b) → memGet (cur z).scratch b = memGet c.scratch b
    ∃ z, exec (.suHoldingAccess n 0) s = .next z ∧
      (accessKind f.op = 0 → after z (accExt (accessType f.op) old) c.scratch) ∧
      (accessKind f.op = 1 → after z 0 (memWrite c.scratch off (leBytes a.size a.data.toNat))) ∧
      (a.size = 4 → 2 ≤ accessKind f.op → let ty := accessType f.op
        after z (BitVec.ofNat 32 old)
          (memWrite c.scratch off (leBytes 4 (atomicWord (accessKind f.op) ty old a.data.toNat a.cmp.toNat))) ∧
        (∀ k, regionOfPlace c (siteAt c x y).place = some k → k < c.flags.length →
          flagSet (cur z) k = flagSet c k ||| atomicFlags (accessKind f.op) ty old a.data.toNat))

/-- Circular-buffer requests queue at their home and act there; mtfill and mttag fill a tile. When the unit at the locus
takes a matched set with an acting lane: cbput and the writing forms join the producer queue of the slot's buffer, cbget and
the reading forms its consumer queue, each queue holding at most 8 requests; mttag makes an Empty or Filling tile Full, and
mtfill, with its lanes at offsets that do not overlap, writes each lane's low bytes at its offset of the tile, which becomes
Filling, and no other byte of the tile store. When the head request of a buffer's queue is that of the only flight, a site's
run whose lanes have distinct tags, on a core without a chained predecessor and without a scratchpad error, CB_REQUEST_SERVE
takes it from its queue, the run sends its result (of the slot's dst out), and: for a cbput of n lanes that finds n slots
free, writes the lanes' words in ascending tag order to the slots from the write pointer up and advances both write pointers
by n; for a cbget whose positions are all filled, gives each lane the word of its slot; for a cbadv advances the read
pointer, or both write pointers, by the count of the lane with the lowest tag; for a cbwait gives the filled or free count;
the result lanes of a cbput and a cbadv are zero. One that must wait changes nothing. A cbput of more than MAXLEN lanes, a
count above the slots, or above the filled count for cbadv.rd, and a position at or past the slots move no pointer, write no
word and send no result, and the request leaves the queue. (10_scratchpad_units.md R276 to R279; 10_scratchpad_units.md R276,
R277, R280) -/
def Obligations.CircularBuffersAndTileFills : Prop :=
  (∀ (s : State) (d a b t : BitVec 3) (f : Fire) (sl : Slot) (core : Core),
    let id := UnitId.site s.locus.x s.locus.y
    takeFire s id = some (f, sl, core) → let act := (unitLanes id sl f).filter (·.act); let n := sl.k0.toNat % 16
    act ≠ [] → core.prev = none →
    (∀ i ∈ [Instr.cbput d a, .cbadv d a 1, .cbwait d a 1], (cbAt core n).prod.length < 8 →
      ∃ z, exec i s = .next z ∧ (cbAt (cur z) n).prod = (cbAt core n).prod ++ [s.nextId]) ∧
    (∀ i ∈ [Instr.cbget d a, .cbadv d a 0, .cbwait d a 0], (cbAt core n).cons.length < 8 →
      ∃ z, exec i s = .next z ∧ (cbAt (cur z) n).cons = (cbAt core n).cons ++ [s.nextId]) ∧
    (let g := sl.k0.toNat % 64; tagOf core.mx g = .empty ∨ tagOf core.mx g = .filling →
      (∃ z, exec (.mttag d) s = .next z ∧ tagOf (cur z).mx g = .full) ∧
      ((∀ l ∈ act, let o := (unitSrc sl l a.toNat).toNat; o < 16384 ∧ o % accSize t.toNat = 0) → core.badTile = [] →
        let o := fun (l : Work) => 16384 * g + (unitSrc sl l a.toNat).toNat; let k := accSize t.toNat
        ∃ z, exec (.mtfill d a b t) s = .next z ∧ tagOf (cur z).mx g = .filling ∧
          (∀ p, (∀ l ∈ act, p < o l ∨ o l + k ≤ p) → memGet (cur z).mx.tile p = memGet core.mx.tile p) ∧
          ((act.map o).Nodup → core.mx.tile.wf = true → ∀ l ∈ act, ∀ i < k,
            memGet (cur z).mx.tile (o l + i) = nthD (leBytes k (unitSrc sl l b.toNat).toNat) i 0)))) ∧
  (∀ (s : State) (n x y : Nat) (a : BitVec 3) (f : Flight) (h : Cohort) (word : Instr), n < 16 → let c := cur s; let b := cbAt c n
    let u := siteAt c x y; let sl := u.slot f.slot; let act := (unitLanes (.site x y) sl f.fire).filter (·.act)
    c.flights = [f] → f.unit = .site x y → f.cancelled = false → c.prev = none → c.coh = some h → c.badScratch = [] → act ≠ [] →
    (act.map (·.tag)).Nodup → (act.map (·.pos)).Nodup → (∀ l ∈ act, l.pos < f.res.length) → u.wordFor f.slot 4 = some word →
    (∀ rs, kindOk { resultTok f.fire rs with slot := f.slot } word = true) →
    let w := nthD h.bufs n 0; let fld := fun (i j : Nat) => (w.extractLsb' i j).toNat; let ns := fld 24 17
    let slotAt := fun (i : Nat) => 4 * fld 2 19 + 4 * (i % ns)
    let v := fun (l : Work) => (unitSrc sl l a.toNat).toNat; let filled := (b.cp - b.rp).toNat
    let free := (BitVec.ofNat 32 ns - (b.vp - b.rp)).toNat; let m := act.length; let up := fun (k : Nat) => BitVec.ofNat 32 k
    let gives := fun (z : State) (p : Cb) (val : Work → W32) => cbAt (cur z) n = p ∧ (cur z).flights = [] ∧ ∃ rs,
      (siteAt (cur z) x y).queue 4 = u.queue 4 ++ [{ resultTok f.fire rs with slot := f.slot }] ∧ rs.length = f.res.length ∧
      (∀ l ∈ act, rs[l.pos]? = some ⟨val l, false⟩) ∧ ∀ i, (∀ l ∈ act, l.pos ≠ i) → rs[i]? = f.res[i]?
    let fails := fun (z : State) (p : Cb) => cbAt (cur z) n = p ∧ (cur z).flights = [] ∧ (cur z).scratch = c.scratch ∧
      (siteAt (cur z) x y).queue 4 = u.queue 4
    (b.prod = [f.id] → let q := { b with prod := [] }; let run := exec (.cbRequestServe n false) s
      (f.op = .cbput 1 a →
        (m ≤ sl.k1.toNat % 64 → m ≤ free → m ≤ ns → c.scratch.wf = true → ∃ z, run = .next z ∧
          gives z { q with vp := b.vp + up m, cp := b.cp + up m } (fun _ => 0) ∧
          (∀ l ∈ act, memNat (cur z).scratch (slotAt (b.vp.toNat + (act.filter fun k => decide (k.tag < l.tag)).length)) 4 = v l) ∧
          (∀ p, (∀ i < m, p < slotAt (b.vp.toNat + i) ∨ slotAt (b.vp.toNat + i) + 4 ≤ p) →
            memGet (cur z).scratch p = memGet c.scratch p)) ∧
        (sl.k1.toNat % 64 < m → ∃ z, run = .next z ∧ fails z q) ∧
        (m ≤ sl.k1.toNat % 64 → free < m → mapGet c.cbs (n + 16) = none → run = .next s)) ∧
      (∀ l ∈ act, (∀ k ∈ act, l.tag ≤ k.tag) → let k := v l
        (f.op = .cbadv 1 a 1 → k ≤ ns → k ≤ free → ∃ z, run = .next z ∧
          gives z { q with vp := b.vp + up k, cp := b.cp + up k } (fun _ => 0) ∧ (cur z).scratch = c.scratch) ∧
        (f.op = .cbwait 1 a 1 → k ≤ ns → k ≤ free → ∃ z, run = .next z ∧ gives z q (fun _ => up free) ∧ (cur z).scratch = c.scratch) ∧
        (f.op = .cbadv 1 a 1 ∨ f.op = .cbwait 1 a 1 →
          (ns < k → ∃ z, run = .next z ∧ fails z q) ∧ (k ≤ ns → free < k → mapGet c.cbs (n + 16) = none → run = .next s)))) ∧
    (b.cons = [f.id] → let q := { b with cons := [] }; let run := exec (.cbRequestServe n true) s
      (f.op = .cbget 1 a →
        ((∀ l ∈ act, v l < ns ∧ v l < filled) → ∃ z, run = .next z ∧ (cur z).scratch = c.scratch ∧
          gives z q (fun l => up (memNat c.scratch (slotAt (b.rp.toNat + v l)) 4))) ∧
        ((∃ l ∈ act, ns ≤ v l) → ∃ z, run = .next z ∧ fails z q) ∧
        ((∀ l ∈ act, v l < ns) → (∃ l ∈ act, filled ≤ v l) → mapGet c.cbs (n + 16) = none → run = .next s)) ∧
      (∀ l ∈ act, (∀ k ∈ act, l.tag ≤ k.tag) → let k := v l
        (f.op = .cbadv 1 a 0 → (k ≤ filled → ∃ z, run = .next z ∧ gives z { q with rp := b.rp + up k } (fun _ => 0) ∧
            (cur z).scratch = c.scratch) ∧ (filled < k → ∃ z, run = .next z ∧ fails z q)) ∧
        (f.op = .cbwait 1 a 0 → (ns < k → ∃ z, run = .next z ∧ fails z q) ∧
          (k ≤ ns → k ≤ filled → ∃ z, run = .next z ∧ gives z q (fun _ => up filled) ∧ (cur z).scratch = c.scratch) ∧
          (k ≤ ns → filled < k → mapGet c.cbs (n + 16) = none → run = .next s)))))

/-- A fired slot of a vector element computes its stage lane by lane; an accumulating slot takes a token. When the slot that
R205 chooses at an even site has a contiguous run without nulls on its one input and one stage, a lane operation without a
random value whose sources are that input and the constants and that only makes the result, the slot fires: a run with the
operation of each lane stands at the end of the local queue. ACC_TAKE takes the token at the index, when it is the first one
of its slot and input and no control token holds it back, into the slot's accumulator, with the values that the null policy
admits, and lowers the census by one. (08_vector_elements_arithmetic.md R224, R225, R226, R230; 07_fabric.md R216) -/
def Obligations.VectorSlotsFireTheirStages : Prop :=
  ∀ (s : State) (x y n i : Nat) (f : Fire) (u1 : FUnit) (t : Tok) (w : W32) (word : Instr) (q : Waiting), x < 8 → y < 6 →
    let c := cur s; let u := siteAt c x y; let sl := u.slot n
    let val := fun (p : Nat) (v : W32) => if Stg.src w p = 4 then sl.k0 else if Stg.src w p = 5 then sl.k1 else v
    u.saved = false →
    ((x + y) % 2 = 0 → nextSlot c (.site x y) = some n → takeReady false u n = some (f, u1) →
      f.toks = [t] → f.slot = n → t.kind = .run → consecutive t.tags = true → t.lanes.length = t.tags.length →
      (∀ l ∈ t.lanes, l.null = false) → inputsOf false sl = [0] → sl.stages = [w] → Stg.outs w = true → isRunOp (Stg.op w) = false →
      readsRnd w = false → Stg.dst w < 2 → (∀ p < 3, Stg.src w p = 0 ∨ Stg.src w p = 4 ∨ Stg.src w p = 5) →
      u.wordFor n 4 = some word → kindOk t word = true →
      ∃ z, exec (.veSlotFire x y) s = .next z ∧ (siteAt (cur z) x y).queue 4 = u.queue 4 ++
        [{ t with slot := n, level := 0, lanes := t.lanes.map fun l => ⟨(laneOp w 0 (val 0 l.v) (val 1 l.v) (val 2 l.v)).1, false⟩ }]) ∧
    (u.unitq[i]? = some q → (u.slot q.slot).acc = true → q.tok.isData = true →
      findIdx u.unitq (fun e => e.slot == q.slot && e.inp == q.inp) = some i → heldByControl u q = false →
      ∃ z, exec (.accTake x y i) s = .next z ∧ (siteAt (cur z) x y).unitq = dropNth u.unitq i ∧
        (accOf (siteAt (cur z) x y) q.slot q.tok).vals = (accOf u q.slot q.tok).vals ++ admitted (u.slot q.slot) q.tok ∧
        (cur z).regions = (census c q.tok.place (-1)).regions)

/-- A firing of a memory-node access puts each acting lane into the queue of its bank. When the memory node at the locus
takes a matched set with an acting lane, the compare queues have room and nothing stands at the crossbar, no two acting lanes
have one tag, no earlier flight still owes an ordering token, and every acting lane's address is aligned and lies in one page
that a TLB entry of the node serves: every access instruction of R297, R298 and R301 answers a next state with one new flight
of as many outstanding lanes, in which each acting lane stands, with the physical address, in the compare queue of the bank
that owns it. mord sends an ordering token with the tags; mfence begins a fence that waits for exactly the earlier access
runs of its threads: those with a lane of one of its threads on its way from a memory node, the firings of scratchpad units
with such a lane, and the parked pieces with one; mwaitu of one lane puts its thread into WATCH. Memory is unchanged.
(11_memory_nodes.md R284, R288, R289, R291, R294, R295, R300; 15_home_slices_and_watch.md R402, R403) -/
def Obligations.MemoryAccessesEnterTheirQueues : Prop :=
  ∀ (s : State) (x : Nat) (f : Fire) (sl : Slot) (core : Core), x = s.locus.x → x < 8 → let id := UnitId.mn x
    takeNode s = some (f, sl, core) → let ls := unitLanes id sl f; let act := ls.filter (·.act)
    let va := fun (g : Bool) (k a : Nat) (l : Work) => laneVa core sl g k (unitSrc sl l a)
    (∀ (i : Instr) (fm : Form) (t : Tlb), formOf i = some fm → act ≠ [] → (act.map (·.tag)).Nodup →
      (∀ e ∈ (cur s).nodes, e.2.compare.length + act.length ≤ 128 ∧ e.2.cross = []) → (∀ g ∈ core.flights, g.owes = false) →
      (∀ l ∈ act, (va fm.gather fm.size fm.a l).toNat % fm.size = 0 ∧
        tlbHit core x (va fm.gather fm.size fm.a l) fm.need = some t) →
      ∃ z, exec i s = .next z ∧ z.mem = s.mem ∧
        (cur z).flights = core.flights ++
          [{ newFlight s id i { f with run := s.nextId } ls act.length with id := s.nextId + 1 }] ∧
        ∀ l ∈ act, let pa := t.phys (va fm.gather fm.size fm.a l)
          ∃ a ∈ (nodeAt (cur z) (ownBank core pa)).compare, a.flight = s.nextId + 1 ∧ a.lane = l.pos ∧ a.tag = l.tag ∧
            a.addr = pa ∧ a.size = fm.size) ∧
    (∀ t r, f.toks = t :: r → sl.loops = false → ∃ z, exec .mord s = .next z ∧ z.mem = s.mem ∧
      ∃ o, (unitAt (cur z) id).queue 4 = (unitAt (cur s) id).queue 4 ++ [o] ∧ o.kind = .ordering ∧ o.tags = t.tags ∧
        o.slot = sl.nxt) ∧
    (∀ d k c : BitVec 3, ∃ z, exec (.mfence d k c) s = .next z ∧ z.mem = s.mem ∧
      (cur z).flights = core.flights ++ [newFlight s id (.mfence d k c) f ls 1] ∧
      ∃ w, (cur z).fences = core.fences ++ [{ flight := s.nextId, waits := w, fatal := false }] ∧
        ∀ r, r ∈ w ↔ (∃ a ∈ nodeLanes core, a.tag ∈ act.map (·.tag) ∧ a.run = r) ∨
          (∃ e ∈ scratchLanes core, e.2 ∈ act.map (·.tag) ∧ e.1 = r) ∨
          ∃ p ∈ core.parked, ∃ m g, p.who = .piece m g ∧ (∃ t ∈ g.acts, t ∈ act.map (·.tag)) ∧ g.run = r) ∧
    (∀ (a b c k n : BitVec 3) (l : Work) (t : Tlb) (h : Cohort), act = [l] →
      bankBad core (ownBank core (t.phys (va false 4 a.toNat l))) (t.phys (va false 4 a.toNat l) / 128) = false →
      fabricCohort core = some h → h.fatal = false → inVector core l.tag = false → (va false 4 a.toNat l).toNat % 4 = 0 →
      tlbHit core x (va false 4 a.toNat l) .read = some t → let pa := t.phys (va false 4 a.toNat l)
      isCap pa = false → placeBad s pa 4 = false → (sectorAt core (ownBank core pa) (pa / 128)).dirty = [] →
      (sliceAt s (homeSlice s pa)).onchip.length < min (sliceAt s (homeSlice s pa)).wlimit 4096 →
      ∃ z, exec (.mwaitu a b c k 0 n) s = .next z ∧ z.mem = s.mem ∧ (cur z).bs.watch = core.bs.watch ++ [l.tag])

/-- Lanes perform at home, at a chip or in their bank; banks evict and fill; fences complete. MN_LANE_PERFORM performs the
first lane of a bank's compare queue, the first to have reached the bank, whose flight has others outstanding: at a purlin
chip or at home, with no dirty byte of the sector in the bank, a load gives the extended value of memory, a store writes its
bytes there, and an atomic writes the word that R298 states and gives the old one, with the flags of a binary32 atomic raised
in its placement's set; at .t and .b a store to a bank with room for its line leaves memory alone and its bytes stand dirty
in the bank, and a load of a filled sector gives its bytes. BANK_EVICT writes a dirty byte to home and empties the sector;
BANK_PREFETCH fills a sector in the 64 KiB range of a demand access with home's bytes, where the bank has room;
MFENCE_COMPLETE ends a fence whose accesses have performed: at .t and .c memory and banks stay, and at .k to .y, of a core
whose banks hold one sector without an error, a release first writes its dirty bytes home and an acquire then makes a clean
sector invalid and leaves dirty bytes partial. (11_memory_nodes.md R292, R294, R297, R298, R300, R302; 03_ordering.md R82,
R83) -/
def Obligations.MemoryNodeEvents : Prop :=
  ∀ (s : State) (b x : Nat), b < 8 → let c := cur s
    let room := fun (b : Nat) => ((nodeAt c b).sectors.map fun e => e.1 / 8).eraseDups.length < 64
    (∀ (a : Access) (r : List Access) (f : Flight), (nodeAt c b).compare = a :: r → c.flights = [f] → f.id = a.flight →
      f.unit = .mn x → 1 < f.left → c.badBank = [] → (nodeAt c b).cross = [] →
      (nodeAt c b).arrived.head? = some (a.flight, a.lane) →
      placeBad s a.addr a.size = false → 0 < a.size → let v := sectorAt c (ownBank c a.addr) (a.addr / 128)
      let after := fun (z : State) (w : W32) => (nodeAt (cur z) b).compare = r ∧
        (cur z).flights.map (fun g => (g.id, g.left, g.res)) = [(f.id, f.left - 1, f.res.set a.lane ⟨w, false⟩)]
      let old := memNat s.mem a.addr a.size; let t := accessType f.op
      ∃ z, exec (.mnLanePerform b 0) s = .next z ∧
        ((formOf f.op).isSome = true → (∀ d e n, f.op ≠ .mflush d e n ∧ f.op ≠ .minv d e n) →
          (placeOf f.op a.addr ≠ .bank → v.dirty = [] →
            (accessKind f.op = 0 → after z (accExt t old) ∧ z.mem = s.mem) ∧
            (accessKind f.op = 1 → after z 0 ∧ z.mem = (placeWrite s a.addr (leBytes a.size a.data.toNat)).mem) ∧
            (2 ≤ accessKind f.op → a.size = 4 → after z (BitVec.ofNat 32 old) ∧
              z.mem = (placeWrite s a.addr (leBytes 4 (atomicWord (accessKind f.op) t old a.data.toNat a.cmp.toNat))).mem ∧
              (∀ k, regionOfPlace c (unitAt c f.unit).place = some k → k < c.flags.length →
                flagSet (cur z) k = flagSet c k ||| atomicFlags (accessKind f.op) t old a.data.toNat))) ∧
          (placeOf f.op a.addr = .bank → a.addr % 128 + a.size ≤ 128 →
            (accessKind f.op = 1 → room (ownBank c a.addr) → after z 0 ∧ z.mem = s.mem ∧ ∀ i < a.size,
              mapGet (sectorAt (cur z) (ownBank c a.addr) (a.addr / 128)).dirty (a.addr % 128 + i) =
                some (nthD (leBytes a.size a.data.toNat) i 0)) ∧
            (accessKind f.op = 0 → v.filled = true → z.mem = s.mem ∧ after z (accExt t (leNat ((List.range a.size).map fun i =>
              sectorByte v (a.addr % 128 + i)))))))) ∧
    (∀ (k i : Nat) (v : Sector), (nodeAt c b).sectors = [(k, v)] → c.badBank = [] → placeBad s (128 * k) 128 = false → s.slices = [] →
      ∃ z, exec (.bankEvict b 0) s = .next z ∧ sectorAt (cur z) b k = Sector.empty ∧
        (v.dirty = [] → z.mem = s.mem) ∧ (∀ w : Byte, v.dirty = [(i, w)] → z.mem = memPut s.mem (128 * k + i) w)) ∧
    (∀ (pa : Nat) (t : Tlb), let k := pa / 128
      ownBank c pa = b → isCap pa = false → t ∈ c.tlb2 → t.rd = true → 128 * k / 65536 ∈ t.used → room b →
      sectorAt c b k = Sector.empty → placeBad s (128 * k) 128 = false → c.coh.isSome = true →
      ∃ z, exec (.bankPrefetch b pa) s = .next z ∧ z.mem = s.mem ∧
        sectorAt (cur z) b k = { filled := true, clean := memRead s.mem (128 * k) 128, dirty := [] }) ∧
    (∀ (w : FenceW) (f : Flight) (d k n : BitVec 3), c.fences = [w] → c.flights = [f] → f.id = w.flight →
      f.op = .mfence d k n → c.parked = [] → w.fatal = false → (∀ a ∈ nodeLanes c, a.run ∉ w.waits) → (∀ e ∈ scratchLanes c, e.1 ∉ w.waits) →
      ∃ z, exec (.mfenceComplete 0) s = .next z ∧ (cur z).fences = [] ∧ (cur z).flights = [] ∧
        (n.toNat < 2 → z.mem = s.mem ∧ ∀ e i, sectorAt (cur z) e i = sectorAt c e i) ∧
        (∀ nd i v, 2 ≤ n.toNat → c.nodes = [(b, nd)] → nd.sectors = [(i, v)] → c.badBank = [] → s.slices = [] →
          placeBad s (128 * i) 128 = false → let rel := 2 ≤ k.toNat; let w := sectorAt (cur z) b i
          (rel → z.mem = v.dirty.foldl (fun m e => memPut m (128 * i + e.1) e.2) s.mem ∧ w.dirty = []) ∧
          (¬ rel → z.mem = s.mem ∧ w.dirty = v.dirty) ∧ (k.toNat % 2 = 1 → w.filled = false) ∧
          (k.toNat % 2 = 0 → w.filled = v.filled)))

/-- Stream commands bind, start, stop, query and hold generators, or are refused. A binding command on a generator that is
not FREE is refused with 0x10, one whose operands break R310 with 0x02. With no command outstanding, with its record read at
home and passing its checks, sx.bind, sx.mcast, sx.sparse, sx.remote, sx.wbload and sx.tile answer ACCEPTED, count on their
pennant and leave the generator with the record, the command and the state that the command gives it. sx.query answers the
generator's word; sx.go moves a HELD generator to QUEUED and to the end of its port's FIFO and names it in bits 31:16;
sx.stop ends a running load with a final marker behind the values gathered so far; sx.bar puts a barrier on a generator that
is not FREE. (12_stream_engine.md R306, R310 to R312, R318 to R321) -/
def Obligations.StreamCommandsAnswer : Prop :=
  ∀ (s u : State) (d a b : Reg) (p : Pen) (h : Cohort) (r : List Word) (g k : Nat), Alone s (some p.toNat) h →
    let n := s.core; let c := cur s; let pen := some p.toNat
    (∀ e ∈ [(Instr.sxBind d a b p, [a, b]), (.sxMcast d a b p, [a, b]), (.sxRemote d a b p, [a, b, a + 1]),
        (.sxWbload d a b p, [a, b]), (.sxTile d a b p, [a, b]), (.sxSparse d a b p, [a, b])],
      let m := command s d e.2 pen e.1; let g := (X s b).toNat % 16; let pair := sxCode e.1 = 6
      (sxOperandBad m = true → exec e.1 s = .next (replied s d 0x02)) ∧
      (sxOperandBad m = false → (genAt c g).st ≠ .free → exec e.1 s = .next (replied s d 0x10)) ∧
      (sxOperandBad m = false → (genAt c g).st = .free → (pair → (genAt c (g + 1)).st = .free) →
        readRecord (issued s d e.2 pen e.1) n m (if pair then 8 else 12) 0x0D 0x0A = (u, .ok r) → sxRecordBad m r = none →
        ∃ z, Accepts s e.1 d pen 0 z ∧
          { genAt (cur z) g with extents := [] } = boundGen m r [])) ∧
    (X s a = BitVec.ofNat 64 k → k < 16 → exec (.sxQuery d a) s = .next (replied s d (queryWord (genAt c k)))) ∧
    (X s a = BitVec.ofNat 64 (2 ^ g) → g < 16 → (genAt c g).fn ≠ 6 → (genAt c (g + 1)).fn ≠ 6 →
      ((genAt c g).st = .held → (genAt c g).ports = [k] → ∃ z, Accepts s (.sxGo d a) d none (BitVec.ofNat 64 (2 ^ g * 65536)) z ∧
        (genAt (cur z) g).st = .queued ∧ (portAt (cur z) k).fifo = (portAt c k).fifo ++ [(g, false)]) ∧
      ((genAt c g).st = .running → isLoad (genAt c g) = true → ∃ z, Accepts s (.sxStop d a) d none 0 z ∧
        (genAt (cur z) g).st = .ending ∧ (genAt (cur z) g).stopped = true ∧
        (genAt (cur z) g).q.getLast?.map (·.kind) = some .marker) ∧
      ((genAt c g).st ≠ .free → ∃ z, Accepts s (.sxBar d a p) d pen 0 z ∧
        (genAt (cur z) g).bars = (genAt c g).bars ++ [s.nextId]))

/-- Generators walk, ports take and give tokens, streams start and end. For a generator that leads its stream and whose
cohort lives with nothing holding it: STREAM_DISPATCH starts a queued stream whose port is free and whose scope fits;
GENERATOR_ELEMENT of a running load takes its element with the value read; LOAD_PORT_EMIT takes the head token to the source
of its port; STORE_PORT_CONSUME takes a run that fits, its tags being the elements; STREAM_COMPLETE frees an ending stream
without tokens and completes its command; GENERATOR_EXTENT_WALK adds an extent; GENERATOR_REPATCH resumes a paused stream;
REMOTE_ACK ends the wait for the far module and stores what a remote read brought; MCAST_STALL_BUDGET charges fault 0x04 at
the budget; SX_BAR_COMPLETE resumes what the barrier held. CORE_CYCLE adds one to SQ_CYCLE and to the stall counter of a
multicast stream that a port holds up. (12_stream_engine.md R308, R313, R315 to R318, R321, R323, R327;
06_configuration_loader.md R188 to R190; 05_sequencer.md R138) -/
def Obligations.StreamEvents : Prop :=
  (∀ s : State, ∃ z, exec .coreCycle s = .next z ∧ (cur z).seq.cycle = (cur s).seq.cycle + 1 ∧
      ((cur s).unstored = none → (cur z).seq = { (cur s).seq with cycle := (cur s).seq.cycle + 1 } ∧ z.mem = s.mem)) ∧
    ∀ (s : State) (g x r k : Nat) (h : Cohort), g < 16 → x < 8 → let c := cur s; let v := genAt c g; let n := s.core
    v.fn ≠ 6 → genCohort c v = some h → h.fatal = false → c.saving = false →
    (v.st = .queued → v.ports = [x] → (portAt c x).fifo = [(g, false)] → (portAt c x).cur = none → v.stopped = false →
      portScopeOk c x (isStore v) (genScope v) = true → ∃ z, exec (.streamDispatch g) s = .next z ∧
        (genAt (cur z) g).st = .running ∧ (portAt (cur z) x).cur = some (g, false) ∧ (portAt (cur z) x).fifo = []) ∧
    (v.bars = [] → v.waitAck = false → v.st = .running →
      (∀ w y, v.fn = 0 → pWrites v.rcd = false → v.pos < pN v.rcd → pNull v.rcd v.pos = false →
        let v := touch v (nextVas s n v)
        genAccess s n v (pAddr v.rcd v.pos) (pSize v.rcd) none = (s, .value y) →
        w = loadElement v h.ctx (some (accExt (pType v.rcd) y)) → queueFits w = true →
        ∃ z, exec (.generatorElement g) s = .next z ∧ genAt (cur z) g = w ∧ z.mem = s.mem) ∧
      (∀ va u t, (nextVas s n v).find? (fun a => (extentOf v a).isNone) = some va →
        translateAt s n (BitVec.ofNat 64 va) (genNeed v) = (u, .ok t) → ∃ z, exec (.generatorExtentWalk g) s = .next z ∧
          (genAt (cur z) g).extents.getLast? = some (pageExtent va t)) ∧
      (∀ t q, isStore v = true → pByTag v.rcd = false → (portAt c x).cur = some (g, false) → (portAt c x).q = t :: q →
        t.kind = .run → qBeats v.q + 2 ≤ 256 → (portAt c x).used + t.tags.length < pN v.rcd →
        ∃ z, exec (.storePortConsume x) s = .next z ∧ (portAt (cur z) x).q = q ∧
          (portAt (cur z) x).used = (portAt c x).used + t.tags.length ∧ (genAt (cur z) g).q = v.q ++
            [{ t with tags := (List.range t.tags.length).map (· + (portAt c x).used) }])) ∧
    (∀ t q a, isLoad v = true → v.ports = [x] → v.q = t :: q → t.isMark = false → spent v = false → portSource c x = some (r, k) →
      sourceOpen c r k t = true → sourceAt c r k = some a → ∃ z, exec (.loadPortEmit g) s = .next z ∧
        (genAt (cur z) g).q = q ∧ (sourceAt (cur z) r k).map (·.q.length) = some (a.q.length + 1)) ∧
    (v.st = .ending → v.q = [] → v.q2 = [] → v.waitAck = false → v.fn ≠ 9 → inFifo c v g = false →
      ∃ z, exec (.streamComplete g) s = .next z ∧ (genAt (cur z) g).st = .free ∧ cmdAt (cur z) v.cmd = none ∧
        ∀ x ∈ v.ports, (portAt (cur z) x).cur = none) ∧
    (v.st = .paused → ∃ z, exec (.generatorRepatch g) s = .next z ∧ (genAt (cur z) g).st = .running) ∧
    (∀ a, v.waitAck = true → v.stopped = true → pWrites v.rcd = false → ∃ z, exec (.remoteAck g (.ok a)) s = .next z ∧
      genAt (cur z) g = { v with waitAck := false, loaded := [], pa := 0 } ∧ z.mem = s.mem) ∧
    (∀ a, v.waitAck = true → pWrites v.rcd = true → placeBad s v.pa (pSize v.rcd) = false →
      let w := { v with waitAck := false, loaded := [], pa := 0 }
      let u := updCore { s with remote := s.remote.erase (n, g) } n fun c => putGen c g (if v.stopped then w else endIfDone w)
      exec (.remoteAck g (.ok a)) s = .next (placeWrite u v.pa (leBytes (pSize v.rcd) (leNat (a.take (pSize v.rcd)))))) ∧
    (spent v = true → exec (.mcastStallBudget g) s = .next (streamFault s n g 0x04 true v.stallAt 0)) ∧
    (blockedPort c v = some x → c.unstored = none → spent v = false → ∃ z, exec .coreCycle s = .next z ∧
      (genAt (cur z) g).stall = v.stall + 1 ∧ (genAt (cur z) g).stallAt = x) ∧
    (∀ m d a p, cmdAt c k = some m → m.op = .sxBar d a p → m.rdWait = false →
      (∀ e ∈ c.gens, k ∈ e.2.bars → e.2.bars = [k] ∧ e.2.waitAck = false ∧ e.2.st ≠ .parked ∧ (isStore e.2 = true → e.2.q = [])) →
      ∃ z, exec (.sxBarComplete k) s = .next z ∧ cmdAt (cur z) k = none ∧ ∀ e ∈ (cur z).gens, k ∉ e.2.bars)

/-- Matrix commands zero, move and tag tiles and load records. With no command outstanding and operands that keep R345: while
a named tile is Busy mx.zero, mx.tag and mx.move are refused with 0x10; else mx.zero makes every byte of its tiles 0 and
leaves the others, mx.move copies Full tiles into Empty ones, which become Full, mx.tag sets the tags; a tile in the wrong
state gives mx.move status 0x11. mx.ldsh and mx.ldwd, with no running firing that names the record, store a record that
passes its checks, read once at home, and mx.ldwd with bit 8 set removes one; a record that fails is refused with 0x01. An
accepted command writes 0 to rd and counts on its pennant. (13_matrix_engine.md R335, R338, R345 to R347) -/
def Obligations.MatrixCommandsAnswer : Prop :=
  ∀ (s u : State) (d a b : Reg) (p : Pen) (h : Cohort) (r : List Word), Alone s (some p.toNat) h →
    let n := s.core; let x := (cur s).mx; let pen := some p.toNat; let v := (X s a).toNat
    let ts := tileRange (v % 64) (v / 256 % 64 + 1); let td := tileRange (v / 65536 % 64) (v / 256 % 64 + 1)
    let tag := if v / 65536 % 2 = 1 then Tag.full else .empty; let lo := 16384 * (v % 64); let len := 16384 * (v / 256 % 64 + 1)
    let dst := 16384 * (v / 65536 % 64)
    (mxOperandBad (command s d [a] pen (.mxZero d a p)) = false →
      ((∃ t ∈ ts, tagOf x t = .busy) → exec (.mxZero d a p) s = .next (replied s d 0x10) ∧
        exec (.mxTag d a) s = .next (replied s d 0x10)) ∧
      ((∀ t ∈ ts, tagOf x t ≠ .busy) →
        (∃ z, Accepts s (.mxZero d a p) d pen 0 z ∧ (∀ t ∈ ts, tagOf (cur z).mx t = tag) ∧
          (∀ q, lo ≤ q → q < lo + len → memGet (cur z).mx.tile q = 0) ∧
          (∀ q, q < lo ∨ lo + len ≤ q → memGet (cur z).mx.tile q = memGet x.tile q) ∧ z.mem = s.mem) ∧
        (∃ z, Accepts s (.mxTag d a) d none 0 z ∧ (∀ t ∈ ts, tagOf (cur z).mx t = tag) ∧
          (∀ t, t ∉ ts → tagOf (cur z).mx t = tagOf x t) ∧ (cur z).mx.tile = x.tile ∧ z.mem = s.mem))) ∧
    (mxOperandBad (command s d [a] pen (.mxMove d a p)) = false → (∃ t ∈ ts ++ td, tagOf x t = .busy) →
      exec (.mxMove d a p) s = .next (replied s d 0x10)) ∧
    (mxOperandBad (command s d [a] pen (.mxMove d a p)) = false → (∀ t ∈ ts ++ td, tagOf x t ≠ .busy) →
      ((∃ t ∈ ts, tagOf x t ≠ .full) ∨ (∃ t ∈ td, tagOf x t ≠ .empty) → exec (.mxMove d a p) s = .next (replied s d 0x11)) ∧
      ((∀ t ∈ ts, tagOf x t = .full) → (∀ t ∈ td, tagOf x t = .empty) → x.tile.wf = true →
        ∃ z, Accepts s (.mxMove d a p) d pen 0 z ∧ (∀ t ∈ td, tagOf (cur z).mx t = .full) ∧
          (∀ q < len, memGet (cur z).mx.tile (dst + q) = memGet x.tile (lo + q)) ∧
          (∀ q, q < dst ∨ dst + len ≤ q → memGet (cur z).mx.tile q = memGet x.tile q) ∧ z.mem = s.mem)) ∧
    (let m := command s d [a, b] pen (.mxLdsh d a b p); let k := (X s b).toNat % 16;
      mxOperandBad m = false → firingNames x false k = false →
      readRecord (issued s d [a, b] pen (.mxLdsh d a b p)) n m 8 0x0E 0x04 = (u, .ok r) →
      ∃ z, exec (.mxLdsh d a b p) s = .next z ∧
        (shapeOk r = true → mapGet (cur z).mx.shapes k = some r ∧ Accepts s (.mxLdsh d a b p) d pen 0 z) ∧
        (shapeOk r = false → (cur z).mx = x ∧ (cur z).seq = (cur (replied s d 1)).seq)) ∧
    (let m := command s d [a, b] pen (.mxLdwd d a b p); let k := (X s b).toNat % 16;
      mxOperandBad m = false → firingNames x true k = false →
      ((X s b).toNat / 256 % 2 = 1 → ∃ z, Accepts s (.mxLdwd d a b p) d pen 0 z ∧ mapGet (cur z).mx.wds k = none) ∧
      ((X s b).toNat / 256 % 2 = 0 → readRecord (issued s d [a, b] pen (.mxLdwd d a b p)) n m 8 0x0E 0x04 = (u, .ok r) →
        ∃ z, exec (.mxLdwd d a b p) s = .next z ∧
          (weightOk r = true → mapGet (cur z).mx.wds k = some r ∧ Accepts s (.mxLdwd d a b p) d pen 0 z) ∧
          (weightOk r = false → (cur z).mx = x ∧ (cur z).seq = (cur (replied s d 1)).seq)))

/-- mx.mma and mx.mmas fire in their turn; the firing's completion writes the group and changes the tags. When the word at
the locus may fire, no firing runs and the formats, sizes and sparsity of its records agree, mx.mma and mx.mmas begin a
firing: the A tile and the group's tiles become Busy. When no byte has an error, MX_FIRE_COMPLETE writes the sums of the
firing's shape to the group, counts the firing, and leaves the A tile Full or Empty by KA and, without CH, the group Full.
The sum at (i, j) starts at the group word, or at 0 with AD: an integer pair's is exact modulo 2^32; a floating pair's takes
one chunk of 16 positions after the other, adding the exact sum of its products, scales applied, with one RNE rounding to
FP32. The elements come from the places that the records give, of a sparse operand from the two rows that its index nibble
names. No other word of the tile store changes. A tile port reads the words that a run's lanes name in Full tiles and
delivers them at port E of its site, emptying the tiles that RL names. (13_matrix_engine.md R332, R334, R336, R337, R341 to
R343, R348 to R350; 02_numbers.md R68, R69) -/
def Obligations.MatrixFiringsBeginAndComplete : Prop :=
  ∀ (s : State) (y : Nat) (q : MxOp), let c := cur s; let x := c.mx; let k := s.locus.slot
    (∀ i, mxFields i = some q → mxAt x k = some q → x.running = none → c.saving = false → c.prev = none → mayFire x k = true →
      let sh := mapGetD x.shapes q.sh []; let wd := mapGetD x.wds q.wd []
      pairOk (accepted s 4) (shFmt sh) (wdFmt wd) = true → wdSparse wd = q.sparse → shK sh ≤ wdK wd → shN sh ≤ wdN wd →
      ∃ z, exec i s = .next z ∧ (cur z).mx.running.map (fun f => (f.pos, f.shape, f.wd)) = some (k, sh, wd) ∧
        (∀ t ∈ q.a :: groupOf q.g, tagOf (cur z).mx t = .busy) ∧
        (∀ t, t ∉ q.a :: groupOf q.g → tagOf (cur z).mx t = tagOf x t) ∧ (cur z).mx.tile = x.tile ∧ z.mem = s.mem) ∧
    (∀ f, x.running = some f → mxAt x f.pos = some q → c.badTile = [] → c.badWeight = [] → q.a / 4 ≠ q.g →
      ∃ z, exec .mxFireComplete s = .next z ∧ (cur z).mx.tile = (fireStore x q f.shape f.wd).1 ∧ (cur z).mx.running = none ∧
        fireCount (cur z).mx f.pos = fireCount x f.pos + 1 ∧
        tagOf (cur z).mx q.a = (if q.ka = true then .full else .empty) ∧
        (q.ch = false → (∀ t ∈ groupOf q.g, tagOf (cur z).mx t = .full) ∧ q.g ∉ (cur z).mx.opened) ∧
        (q.ch = true → q.g ∈ (cur z).mx.opened)) ∧
    (∀ (sh wd : List Word), shapeOk sh = true → x.tile.wf = true → q.a / 4 ≠ q.g → let z := (fireStore x q sh wd).1
      let at' := fun (i j : Nat) => 4 * (16384 * q.g + (nthD sh 3 0).toNat % 2 ^ 14 + i * ((nthD sh 3 0).toNat / 2 ^ 16 % 2 ^ 14) +
        j * ((nthD sh 3 0).toNat / 2 ^ 32 % 2 ^ 14))
      (∀ e, (∀ i j, i < shM sh → j < shN sh → e < at' i j ∨ at' i j + 4 ≤ e) → memGet z e = memGet x.tile e) ∧
      (∀ i j, i < shM sh → j < shN sh → let c0 := if q.ad = true then 0 else memNat x.tile (at' i j) 4
        (isInt8 (shFmt sh) = true → let num := fun (f v : Nat) => if f = 8 then (BitVec.ofNat 8 v).toInt else ((v % 256 : Nat) : Int)
          memNat z (at' i j) 4 = (BitVec.ofInt 32 (c0 + ((List.range (shK sh)).map fun k => match elemB x wd k j with
            | none => 0
            | some b => (if q.na = true then -1 else 1) * num (shFmt sh) (elemA x sh q.a i k) *
                ((if q.nb = true then -1 else 1) * num (wdFmt wd) b)).sum)).toNat) ∧
        (isInt8 (shFmt sh) = false → ∃ cs : Nat → Nat, cs 0 = c0 ∧ memNat z (at' i j) 4 = cs ((shK sh + 15) / 16) ∧
          ∀ g < (shK sh + 15) / 16, ∃ t, IsSum (((List.range (shK sh)).filter fun k => k / 16 = g).filterMap
            (fireProduct x q sh wd i j)) t ∧ cs (g + 1) = rne32 (addV false (decodeF f32 (cs g)) t).1))) ∧
    (∀ (sh wd : List Word) (i j k : Nat), let b := elemBits (shFmt sh); let b' := elemBits (wdFmt wd)
      let t := b * ((nthD sh 1 0).toNat % 2 ^ 16 + i * ((nthD sh 1 0).toNat / 2 ^ 16 % 2 ^ 16) + k * ((nthD sh 1 0).toNat / 2 ^ 32 % 2 ^ 16))
      let t' := b' * ((nthD wd 2 0).toNat % 2 ^ 21 + k * ((nthD wd 2 0).toNat / 2 ^ 21 % 2 ^ 21) + j * ((nthD wd 2 0).toNat / 2 ^ 42 % 2 ^ 21))
      let p := j * (wdK wd / 4) + k / 4; let o := (nthD wd 4 0).toNat % 2 ^ 20
      let nib := (memGet x.weight (wdOff wd + o + p / 2)).toNat / (if p % 2 = 0 then 1 else 16) % 16
      let v := fun (n : Nat) => b' * (j * (wdK wd / 2) + 2 * (k / 4) + n)
      elemA x sh q.a i k = memNat x.tile (16384 * q.a + t / 8) 3 / 2 ^ (t % 8) % 2 ^ b ∧
      (wdSparse wd = false → elemB x wd k j = some (memNat x.weight (wdOff wd + t' / 8) 3 / 2 ^ (t' % 8) % 2 ^ b')) ∧
      (wdSparse wd = true → elemB x wd k j = if k % 4 = nib / 4 then some (memNat x.weight (wdOff wd + v 1 / 8) 3 / 2 ^ (v 1 % 8) % 2 ^ b')
        else if k % 4 = nib % 4 then some (memNat x.weight (wdOff wd + v 0 / 8) 3 / 2 ^ (v 0 % 8) % 2 ^ b') else none)) ∧
    (∀ t r word, y < 6 → mapGetD x.ports y [] = t :: r → t.isRun = true → (siteAt c 7 y).saved = false →
      (∀ l ∈ t.lanes, l.v.toNat / 2 ^ 18 % 2 ^ 13 = 0) → (∀ e ∈ reqTiles t, tagOf x e = .full) →
      hasSpace ((siteAt c 7 y).queue 1) t = true → c.badTile = [] → (siteAt c 7 y).wordFor t.slot 1 = some word →
      ∃ z, exec (.tilePortRead y) s = .next z ∧ mapGetD (cur z).mx.ports y [] = r ∧
        (siteAt (cur z) 7 y).queue 1 = (siteAt c 7 y).queue 1 ++ [{ t with lanes := t.lanes.map fun l =>
          if l.null then ⟨0, true⟩ else ⟨BitVec.ofNat 32 (memNat x.tile (4 * reqWord l.v) 4), false⟩ }] ∧
        (∀ l ∈ t.lanes, l.null = false → l.v.getLsbD 31 = true → tagOf (cur z).mx (reqWord l.v / 4096) = .empty))

/-- Block-scheduler commands read, seed, set policy and arm round points. With no command outstanding and operands that keep
R372: bs.query answers the block's word; bs.seed is refused with 0x12 before cfg.start and with 0x10 without a hold, and
under a hold, with the threads in no barrier vector and in no other block's vector, adds them to the block's waiting vector;
bs.policy sets the policy that the next decision takes, and the rounding mode of the demand splices from then on; bs.uniform
answers the count of straight runs and sets ST; bs.round with 1 arms a hold for the next round point, and with 0 ends the
hold. (14_block_scheduler.md R371 to R375) -/
def Obligations.SchedulerCommandsAnswer : Prop :=
  ∀ (s : State) (d a b : Reg) (p : Pen) (h : Cohort) (k : Nat), Alone s (some p.toNat) h →
    let c := cur s; let v := (X s a).toNat; let w := (X s b).toNat
    (X s a = BitVec.ofNat 64 k → k < 4096 → exec (.bsQuery d a) s = .next (replied s d (bsWord c k))) ∧
    (bsOperandBad c (command s d [a, b] none (.bsSeed d a b)) = false →
      (h.started = false → exec (.bsSeed d a b) s = .next (replied s d 0x12)) ∧
      (h.started = true → holdOn c = false → exec (.bsSeed d a b) s = .next (replied s d 0x10)) ∧
      (h.started = true → holdOn c = true → c.bs.barred = [] → (∀ e ∈ c.bs.waiting, e.1 = v % 4096) →
        ∃ z, Accepts s (.bsSeed d a b) d none 0 z ∧ ∀ t, w % 8192 ≤ t → t < w % 8192 + w / 65536 % 8192 →
          t ∈ waitingOf (cur z) (v % 4096))) ∧
    (bsOperandBad c (command s d [a, b] none (.bsPolicy d a b)) = false → ∃ z, Accepts s (.bsPolicy d a b) d none 0 z ∧
      (cur z).bs.policy = some (w % 2 == 1, w / 2 % 2 == 1, X s a) ∧ (cur z).bs.defMode = c.seq.fpdef.toNat ∧
      (cur z).bs.sel = c.bs.sel ∧ (cur z).bs.dir = c.bs.dir) ∧
    (X s a = BitVec.ofNat 64 k → k < 2 →
      (∃ z, Accepts s (.bsUniform d a) d none (BitVec.ofNat 64 (c.bs.straight.toNat * 2 ^ 32)) z ∧ (cur z).bs.st = (k == 1)) ∧
      (∃ z, Accepts s (.bsRound d a p) d (some p.toNat) 0 z ∧
        (k = 1 → (cur z).bs.armed = c.bs.armed ++ [s.nextId] ∧ (cur z).bs.armHold = true ∧ (cur z).bs.hold = c.bs.hold) ∧
        (k = 0 → (cur z).bs.hold = false ∧ (cur z).bs.armHold = false ∧ (cur z).bs.armed = c.bs.armed)))

/-- Decisions begin turns, turns inject runs, exits deposit threads, round points open barriers. While the cohort lives and
no save runs: a decision without a hold chooses a block by R364 and its turn begins on the waiting threads when a LIVE region
with an open entry source holds the block; a turn forms the next run of its snapshot, which enters by that source and takes
its threads from the waiting vector; an exit set whose directory entry is at hand deposits each of its threads in the waiting
vector of the target that the exit entry of its own exit token names, when these entries say go; at a round point with
nothing armed every thread of a barrier vector comes to wait. (14_block_scheduler.md R356, R360, R362 to R364, R370) -/
def Obligations.SchedulerEvents : Prop :=
  ∀ (s : State) (b r k i : Nat) (h : Cohort), let c := cur s
    fabricCohort c = some h → h.fatal = false → c.saving = false →
    (∀ g q, c.bs.turn = none → holdOn c = false → c.bs.policy = none → c.bs.demand = [] → chooseBlock c = some b →
      blockRegion c b = some (r, g) → g.cfg.block = b → g.phase = .live → entrySource g = some k → sourceAt c r k = some q →
      q.marked = false → q.done = false →
      ∃ z, exec .bsDecision s = .next z ∧ (cur z).bs.turn = some (b, waitingOf c b, 0) ∧ (cur z).bs.turnReady = true ∧
        (cur z).regions = c.regions) ∧
    (∀ snap q, c.bs.turn = some (b, snap, k) → c.bs.turnReady = true → openEntry c b = some (r, i) → snap ≠ [] →
      sourceAt c r i = some q → let tags := formRun c.bs.nopack snap; let t := entryRun h.ctx (runKind tags) tags
      sourceOpen c r i t = true → ∃ z, exec .bsInjectRun s = .next z ∧
        (sourceAt (cur z) r i).map (fun x => (x.q.length, (x.q.getLast?.map fun y => (y.tags, y.lanes)))) =
          some (q.q.length + 1, some (tags, tags.map fun a => ⟨BitVec.ofNat 32 a, false⟩)) ∧
        (cur z).bs.turn = some (b, snap.filter (fun a => !tags.contains a), k) ∧
        waitingOf (cur z) b = (waitingOf c b).filter fun a => !tags.contains a) ∧
    (∀ f rest t w, i < 2 → (unitAt c (.exit i)).ready = f :: rest → f.toks = [t] → unperformed c t.tags = false →
      outValues c t.place = [] → c.bs.dir ≠ 0 → c.bs.st = false → t.tags.Nodup → (∀ a ∈ t.tags, inVector c a = false) →
      mapGet c.bs.cached (match cfgOfPlace c t.place with | some g => g.block | none => 0) = some w →
      let x := fun (a : Nat) => exitEntry w (2 * exitNumber c t.place i + exitSlot f t a)
      (∀ a ∈ t.tags, (x a).getLsbD 15 = true ∧ xKind (x a) = 0) → ∃ z, exec (.exitPortFire i) s = .next z ∧
        (unitAt (cur z) (.exit i)).ready = rest ∧ ∀ a ∈ t.tags, a ∈ waitingOf (cur z) (xTarget (x a))) ∧
    (atRoundPoint c = true → c.bs.armed = [] → c.bs.armHold = false → c.bs.hold = false →
      ∃ z, exec .roundPoint s = .next z ∧ (cur z).bs.barred = [] ∧
        ∀ e ∈ c.bs.barred, ∀ a ∈ e.2, a ∈ waitingOf (cur z) e.1)

/-- emb.pool, emb.gather and emb.scatadd are accepted with their record, bind, deliver and update. With no command
outstanding each of the three is refused with 0x02 where its operands break R415 and with 0x01 where its record fails R412;
accepted, it counts on its pennant and the controller holds the record. CAP_BINDING_DONE of an active command leaves the bags
and pages of its binding, with one record for a bag marked faulted, and parks the command at a translation fault. Binding
translates each page once, and marks a bag with cause 0x03 when OFFS + LENS exceeds 2^32, and otherwise at its first index
that is NROWS or more, cause 0x01, or whose row lies outside the capacity tier, cause 0x02; a bag without a fault holds its
rows with their addresses and weights, 1.0 in a record without weights. CAP_BAG_RESULT of a pooled bag of one row sends the
runs of the pooled vector to the port and goes to the next bag. Of a gathered bag it sends the runs of the next row, null
ones for a row that cannot be read, and after the last row a stop token of level 1. CAP_ROW_UPDATE of a begun bag writes the
updated row at its rank. A pooled element is the sum of the ranks' partials in ascending rank, each the fused sum of weight
times element in bag order; a gathered element is the row's, in FP32; an updated one is weight times gradient plus the
element, over the scale of an FP8 row, rounded once to the row's format. (16_capacity_tier.md R412, R413, R415 to R422, R424;
02_numbers.md R73) -/
def Obligations.CapacityCommandsAnswerAndProceed : Prop :=
  ∀ (s u : State) (d a b : Reg) (p : Pen) (h : Cohort) (r : List Word) (j : Nat), let n := s.core; let c := cur s; let pen := some p.toNat
    (Alone s pen h → ∀ i ∈ [Instr.embPool d a b p, .embGather d a b p, .embScatadd d a b p],
      let m := command s d [a, b, a + 1] pen i
      (capOperandBad m = true → exec i s = .next (replied s d 0x02)) ∧
      (capOperandBad m = false → capVirtual m = true →
        readRecord (issued s d [a, b, a + 1] pen i) n m 8 0x11 0x06 = (u, .ok r) → ∃ z, exec i s = .next z ∧
          (bagOk r (isScatter m) = false → (cur z).caps = c.caps ∧ (cur z).seq = (cur (replied s d 1)).seq) ∧
          (bagOk r (isScatter m) = true → (cur z).caps = c.caps ++ [newCap m r] ∧ Accepts s i d pen 0 z))) ∧
    (∀ m k, capRuns c j = some (m, k) →
      (∀ ps bs, c.saving = false → k.active = true → k.bound = false → bindAll s n m k = (u, .ok (ps, bs, [])) →
        ∃ z, exec (.capBindingDone j) s = .next z ∧
          capAt (cur z) j = some { k with bound := true, bags := bs, pages := ps }) ∧
      (∀ ps bs f y v pp, c.saving = false → k.active = true → k.bound = false → bindAll s n m k = (u, .ok (ps, bs, [(f, y, v)])) →
        k.posted = [] → (cur u).coh = some h → h.fatal = false → m.prev = false → m.pen = some pp →
        ∃ z, exec (.capBindingDone j) s = .next z ∧
          (capAt (cur z) j).map (fun x => (x.bound, x.bags, x.pages)) = some (true, bs, ps) ∧
          z.lu.fbuf = u.lu.fbuf ++ [(recordWords { Record.mk' 0x11 10 (f + 256 * y) false with
            core := n, sp := pp, addr := BitVec.ofNat 64 v } h.ctx (ctxAt u h.ctx).seq h.lid, h.ctx)]) ∧
      (∀ va e, c.saving = false → k.active = true → k.bound = false → bindAll s n m k = (u, .error (.park va e)) →
        exec (.capBindingDone j) s = .next (parkCmd u n m (BitVec.ofNat 64 va) e) ∧
          capAt (cur (parkCmd u n m (BitVec.ofNat 64 va) e)) j = some k) ∧
      (∀ x b bs va pa w, capPort m = some x → (portAt c x).outq = [] → isPool m = true → k.bound = true → k.bags = b :: bs →
        b.bad = false → b.rows = [(va, pa, w)] → k.row = 0 → k.got = [] → k.lost = false → c.saving = false → capVirtual m = true →
        isBad s.badMem pa (cRowSize k.rcd) = false → ∃ z, exec (.capBagResult j) s = .next z ∧
          (portAt (cur z) x).outq = vectorToks (capCtx c m) (cD k.rcd)
            (some (pooledVector k.rcd [(pa, w, memRead s.mem pa (cRowSize k.rcd))]).1) ∧
          (capAt (cur z) j).map (fun y => (y.bags, y.next)) = some (bs, k.next + 1)) ∧
      (∀ x b bs va pa w, capPort m = some x → (portAt c x).outq = [] → isPool m = false → isScatter m = false → k.bound = true →
        k.bags = b :: bs → c.saving = false → capVirtual m = true →
        (k.row < b.len → b.rows[k.row]? = some (va, pa, w) → isBad s.badMem pa (cRowSize k.rcd) = false →
          ∃ z, exec (.capBagResult j) s = .next z ∧ (portAt (cur z) x).outq = vectorToks (capCtx c m) (cD k.rcd)
              (some (gatheredRow k.rcd (memRead s.mem pa (cRowSize k.rcd))).1) ∧
            (capAt (cur z) j).map (fun y => (y.bags, y.row)) = some (b :: bs, k.row + 1)) ∧
        (k.row < b.len → b.rows[k.row]? = none → ∃ z, exec (.capBagResult j) s = .next z ∧
          (portAt (cur z) x).outq = vectorToks (capCtx c m) (cD k.rcd) none ∧
          (capAt (cur z) j).map (fun y => (y.bags, y.row)) = some (b :: bs, k.row + 1)) ∧
        (b.len ≤ k.row → bs ≠ [] → ∃ z, exec (.capBagResult j) s = .next z ∧
          (portAt (cur z) x).outq = [stopTok (capCtx c m) 1] ∧
          (capAt (cur z) j).map (fun y => (y.bags, y.row, y.next)) = some (bs, 0, k.next + 1))) ∧
      (∀ b bs va pa w, isScatter m = true → k.bound = true → k.bags = b :: bs → b.bad = false → b.len ≠ 0 →
        b.rows[k.row]? = some (va, pa, w) → k.begun = true → isBad s.badMem pa (cRowSize k.rcd) = false →
        ∃ z, exec (.capRowUpdate j) s = .next z ∧
          z.mem = (placeWrite s pa (updatedRow k.rcd w k.grad (memRead s.mem pa (cRowSize k.rcd))).1).mem)) ∧
    (∀ (va : Nat) (need : Need) (ps : Pages), let page := ps.find? fun e => e.1 == va / 65536
      (∀ e, page = some e → capPage s n va need ps = (s, .ok (ps, e.2 * 65536 + va % 65536))) ∧
      (∀ t, page = none → translateAt s n (BitVec.ofNat 64 va) need = (u, .ok t) → let pa := t.phys (BitVec.ofNat 64 va)
        capPage s n va need ps = (u, .ok (ps ++ [(va / 65536, pa / 65536)], pa)))) ∧
    (∀ (rcd : List Word) (ps : Pages) (b : Nat), let known := fun (va : Nat) => ∃ e ∈ ps, e.1 = va / 65536
      let spot := fun (va : Nat) => match ps.find? fun e => e.1 == va / 65536 with | some e => e.2 * 65536 + va % 65536 | none => 0
      let ok := fun (va : Nat) => known va ∧ placeBad s (spot va) 4 = false
      let word := fun (va : Nat) => memNat s.mem (spot va) 4
      let o := word (capEntry rcd 2 b); let l := word (capEntry rcd 3 b)
      let x := fun (i : Nat) => word (capEntry rcd 4 (o + i)); let va := fun (i : Nat) => capRowVa rcd (x i)
      let bad := fun (i : Nat) => cRows rcd ≤ x i ∨ isCap (spot (va i)) = false
      ok (capEntry rcd 2 b) → ok (capEntry rcd 3 b) →
      (∀ i < l, ok (capEntry rcd 4 (o + i)) ∧ (cWts rcd = true → ok (capEntry rcd 5 (o + i)))) →
      (2 ^ 32 < o + l → bindBag s n rcd b ps = (s, .ok (ps, { len := l, bad := true, rows := [] }, some (3, capEntry rcd 3 b)))) ∧
      (o + l ≤ 2 ^ 32 → (∀ i < l, bad i → (∀ e < i, ¬ bad e) → (∀ e ≤ i, x e < cRows rcd → known (va e)) →
          bindBag s n rcd b ps = (s, .ok (ps, { len := l, bad := true, rows := [] },
            some (if cRows rcd ≤ x i then (1, capEntry rcd 4 (o + i)) else (2, va i))))) ∧
        ((∀ i < l, ¬ bad i ∧ known (va i)) →
          let weight := fun (i : Nat) => if cWts rcd = true then BitVec.ofNat 32 (word (capEntry rcd 5 (o + i))) else 0x3F800000
          bindBag s n rcd b ps = (s, .ok (ps, { len := l, bad := false,
                                                rows := (List.range l).map fun i => (va i, spot (va i), weight i) }, none))))) ∧
    (∀ (rcd : List Word) (rows : List (Nat × W32 × List Byte)) (w : W32) (gr : List W32) (bs : List Byte) (e : Nat), e < cD rcd →
      cFmt rcd < 5 → cFmt rcd ≠ 1 →
      (∀ y ∈ rows, 2 ^ 42 ≤ y.1 ∧ y.1 < 2 ^ 42 + 2 ^ 42) →
      let rank := fun (pa : Nat) => pa / 2 ^ 36 % 64
      let part := fun g => (rows.filter fun y => rank y.1 = g).foldl (fun acc y =>
        rne32 (fmaV false (decodeF f32 y.2.1.toNat) (rowNumber rcd y.2.2 e) (decodeF f32 acc)).1) 0
      let num := rowNumber rcd bs e; let size := if cFmt rcd = 0 then 4 else if cFmt rcd = 2 then 2 else 1
      let h := if cFmt rcd < 3 then 0 else 4
      nthD (pooledVector rcd rows).1 e 0 = BitVec.ofNat 32 (match (List.range 64).filter fun g => rows.any fun y => rank y.1 = g with
        | [] => 0
        | g :: l => l.foldl (fun acc y => rne32 (addV false (decodeF f32 acc) (decodeF f32 (part y))).1) (part g)) ∧
      (cFmt rcd = 0 → nthD (gatheredRow rcd bs).1 e 0 = BitVec.ofNat 32 (leNat ((bs.drop (4 * e)).take 4))) ∧
      (cFmt rcd ≠ 0 → nthD (gatheredRow rcd bs).1 e 0 = BitVec.ofNat 32 (rne32 num)) ∧
      (bs.length = h + size * cD rcd → let new := (updatedRow rcd w gr bs).1
        let y := (fmaV false (decodeF f32 w.toNat) (decodeF f32 (nthD gr e 0).toNat) num).1
        new.take h = bs.take h ∧ new.length = bs.length ∧ leNat ((new.drop (h + size * e)).take size) =
          (roundTo (ffmt (cFmt rcd)) 0 (cSat rcd) 0 (if cFmt rcd < 3 then y else (divV y (decodeF f32 (leNat (bs.take 4)))).1)).1))

/-- nb.fwd, nb.scan and nb.drain at nd, receipts at nu, scan steps and the end mark. On a core that holds no successor beside
its predecessor: nb.fwd moves a run from nd's queue to an empty link, when its beats fit the neighbour's buffer, and counts
it; nb.scan takes a run of one lane into the local values of the round; SCAN_COMBINE at the head of a chain combines it with
init and makes the result that INCL selects; NU_RECEIVE brings a run of the link into the region that nu feeds, which has no
token of its first stitch to make; ND_END_MARK sends one end mark at phase end; nb.drain is accepted with what nd has sent so
far and counts on its pennant. (17_relay.md R429 to R431, R433, R434, R437; 02_numbers.md R72) -/
def Obligations.RelayUnitsPassTokens : Prop :=
  ∀ (s : State), let c := cur s; let k := c.relay; let n := s.core; c.prev = none →
    (∀ t q, k.ndq = t :: q → t.kind = .run → k.linkOut = [] →
      (∃ m, chainCore s n 1 = some m ∧ qBeats ((coreAt s m).relay.nuBuf.map (·.tok)) + t.beats ≤ 32) →
      ∃ z, exec .nbFwd s = .next z ∧ (cur z).relay.ndq = q ∧ (cur z).relay.linkOut = [plainLink t] ∧
        (cur z).relay.ndSent = k.ndSent + 1) ∧
    (∀ (t m : BitVec 3) (x : BitVec 1) tok q g l, m ≠ 3 → k.ndq = tok :: q → tok.kind = .run → tok.slot = 0 → tok.tags = [g] →
      tok.lanes = [l] → l.null = false → k.locals = [] → k.solved = [] → k.runs = [] → k.sentClosed = k.localClosed →
      ∃ z, exec (.nbScan t x m) s = .next z ∧ (cur z).relay.ndq = q ∧ (cur z).relay.runs = [(k.localClosed, tok)] ∧
        (cur z).relay.locals = [{ round := k.localClosed, tag := g, a := 0, b := (widen t.toNat l.v).1, null := false, res := 0 }]) ∧
    (∀ t m sat v tok, scanWord c = some (t, m, sat) → chainHead c = true → chainCore s n 1 = none → k.locals = [v] →
      v.null = false → v.round = k.sentClosed → k.solved = [] → k.carries = [] → k.localClosed = k.sentClosed →
      k.runs = [(k.sentClosed, tok)] → tok.tags = [v.tag] → c.badScan.contains v.tag = false → let o := (scanOp t m sat (scanInit c m) (v.a, v.b)).1
      ∃ z, exec (.scanCombine v.tag) s = .next z ∧ (cur z).relay.results = k.results ++
        [{ tok with lanes := [⟨if scanIncl c = true then o.2 else (scanInit c m).2, false⟩] }]) ∧
    (∀ e q r i a, scanWord c = none → k.nuBuf = e :: q → e.carry = none → e.last = false → e.tok.kind = .run → linkBad c = false →
      k.nuDue = false →
      (∀ x ∈ k.nuBuf, x.tok.kind ≠ .preempt) → nuSource c = some (r, i) → sourceAt c r i = some a → (c.saving = true → preemptMade c r i = false) →
      sourceOpen { c with saving := false } r i e.tok = true → ∃ z, exec .nuReceive s = .next z ∧ (cur z).relay.nuBuf = q ∧
        (cur z).relay.taken = k.taken + 1 ∧ (sourceAt (cur z) r i).map (·.q.length) = some (a.q.length + 1)) ∧
    (∀ g, ndRegion c = some g → k.endSent = false → g.phase ≠ .splicing → atPhaseEnd g = true → (∀ q ∈ g.sources, q.q = []) →
      ndMarksGone c g.cfg.place = true → ndIdle k = true → (chainCore s n 1).isSome = true →
      ∃ z, exec .ndEndMark s = .next z ∧ (cur z).relay.endSent = true ∧
        (cur z).relay.linkOut = k.linkOut ++ [linkMark (fabricCtx c) true]) ∧
    (∀ d p h, Alone s (some (p : Pen).toNat) h → ∃ z, Accepts s (.nbDrain d p) d (some p.toNat) 0 z ∧
      (cur z).cmds.map (·.value) = [BitVec.ofNat 64 k.ndSent])

/-- Drain, evict, stitch, patch, start and invalidate answer and act on their region. With no command outstanding: cfg.drain
of a free region answers 0x11, and of a LIVE region is accepted and closes it for entry; cfg.evict answers 0x11 or 0x17, or
frees the region; cfg.stitch to an entry or exit port answers the first failing check of R177 or makes the stitch; cfg.patch
at phase end writes the constant; cfg.start, once, sets the bank map, zeroes live values and predicates and makes every
thread wait for the block; cfg.inv empties the walk cache, drops the translations of the second-level TLB, the memory nodes
and the fetches that meet its range, and no other, and marks invalid the extents that meet it, at which a running generator
pauses. (06_configuration_loader.md R169 to R171, R177, R180, R182, R183, R189) -/
def Obligations.LoaderCommandsAnswer : Prop :=
  ∀ (s : State) (d a b : Reg) (p : Pen) (h : Cohort) (r : Nat), let c := cur s; let pen := some p.toNat
    Alone s pen h →
    (X s a = BitVec.ofNat 64 r → r < 8 →
      (mapGet c.regions r = none → exec (.cfgDrain d a p) s = .next (replied s d 0x11) ∧
        exec (.cfgEvict d a) s = .next (replied s d 0x11)) ∧
      (∀ g, mapGet c.regions r = some g →
        (g.phase = .live → ∃ z, Accepts s (.cfgDrain d a p) d pen 0 z ∧
          (mapGet (cur z).regions r).map (fun x => (x.phase, x.drained)) = some (.closed, true)) ∧
        (g.phase = .splicing ∨ atPhaseEnd g = false → exec (.cfgEvict d a) s = .next (replied s d 0x17)) ∧
        (g.phase ≠ .splicing → atPhaseEnd g = true → c.mx.running = none → (∀ e ∈ g.stitches, e.2 ≠ .nd) →
          ∃ z, Accepts s (.cfgEvict d a) d none 0 z ∧ mapGet (cur z).regions r = none))) ∧
    (let m := command s d [a, b] pen (.cfgStitch d a b p); let e := m.fld 1 8 5; let q := m.fld 1 0 3;
      loaderOperandBad m = false →
      (∀ k, stitchRefused c m = some k → exec (.cfgStitch d a b p) s = .next (replied s d (BitVec.ofNat 64 k))) ∧
      (∀ t g, stitchRefused c m = none → stitchTarget m = some t → m.fld 2 0 3 < 2 → mapGet c.regions q = some g →
        stitchScopeBad c g e t = false → ∃ z, Accepts s (.cfgStitch d a b p) d pen 0 z ∧
          (mapGet (cur z).regions q).bind (fun x => mapGet x.stitches (stitchKey (targetOut t) e)) = some t)) ∧
    (let m := command s d [a, b] none (.cfgPatch d a b);
      ∀ g, loaderOperandBad m = false → mapGet c.regions (m.fld 1 0 3) = some g → g.phase ≠ .splicing → atPhaseEnd g = true →
        let sl := fun (z : State) => (siteAt (cur z) (g.cfg.x0 + m.fld 1 4 3) (g.cfg.y0 + m.fld 1 8 3)).slot (m.fld 1 12 3)
        ((patchSlot c g m).isNone = true → exec (.cfgPatch d a b) s = .next (replied s d 0x02)) ∧
        ((patchSlot c g m).isSome = true → ∃ z, Accepts s (.cfgPatch d a b) d none 0 z ∧
          (m.fld 1 16 1 = 0 → (sl z).k0 = (X s b).setWidth 32 ∧ (sl z).k1 = (sl s).k1) ∧
          (m.fld 1 16 1 = 1 → (sl z).k1 = (X s b).setWidth 32 ∧ (sl z).k0 = (sl s).k0))) ∧
    (let m := command s d [a, b] none (.cfgStart d a b);
      loaderOperandBad m = false → c.flights = [] → c.parked = [] → (∀ l ∈ s.launches, l.lastPred = none) →
      (h.started = true → exec (.cfgStart d a b) s = .next (replied s d 0x1A)) ∧
      (h.started = false → (∃ e ∈ c.regions, ∃ g ∈ regionCfgs e.2, g.block = m.fld 1 0 12) → (∀ e ∈ c.nodes, e.2.sectors = []) →
        ∃ z, Accepts s (.cfgStart d a b) d none 0 z ∧ (cur z).coh = some { h with bankMap := X s b, started := true } ∧
          (cur z).lv = [] ∧ (cur z).pfile = [] ∧ ∀ t < h.nthr, t ∈ waitingOf (cur z) (m.fld 1 0 12))) ∧
    (let m := command s d [a, b] pen (.cfgInv d a b p);
      loaderOperandBad m = false → c.unstored = none → ∃ z, exec (.cfgInv d a b p) s = .next z ∧ (d ≠ 0 → X z d = 0) ∧
        (cur z).seq.pc = c.seq.pc + 4 ∧ (cur z).seq.pn = (cur (taken s d [] pen m.op 0)).seq.pn ∧ (cur z).walk = [] ∧
        let lo := (X s a).toNat % 2 ^ 57; let len := (X s b).toNat
        let apart := fun (va size : Nat) => decide (len ≠ 0) && (decide (lo + len ≤ va) || decide (va + size ≤ lo))
        (cur z).tlb2 = c.tlb2.filter (fun t => apart t.va t.size) ∧
        (cur z).seq.itlb = c.seq.itlb.filter (fun t => apart t.1 t.2.1) ∧
        (cur z).nodes = c.nodes.map (fun e => (e.1, { e.2 with tlb := e.2.tlb.filter fun t => apart t.va t.size })) ∧
        ∀ g v, mapGet c.gens g = some v → lead c g = g → (∀ k, lead c k = k → (genAt c k).fn = 6 → k + 1 ≠ g) →
          let xs := v.extents.map fun x => if apart (x.va % 2 ^ 57) x.size = true then x else { x with ok := false }
          mapGet (cur z).gens g = some { v with extents := xs, st := if v.st = .running ∧ ∃ x ∈ xs, x.ok = false then .paused else v.st })

/-- cfg.fetch, cfg.place and cfg.splice, and the events that end them. With no command outstanding: cfg.fetch of a bound word
reads the image it names into the store entry, and one whose res0 bits [5:2] are not zero is refused (log entry 67);
cfg.place of an entry whose image passes every check, in a macro off the south row, places it in the free region, and answers
0x10 for a region that is placed and 0x12 for an EMPTY entry; cfg.splice makes the region SPLICING under the new
configuration, and answers 0x11 for a free region. A woken cfg.fetch goes on with the bound word of the report. A site that
the wavefront has left takes the successor's words, and the op list is replaced once every tile port has the wavefront.
(06_configuration_loader.md R170, R171, R172, R173, R175, R176, R181, R194; 07_fabric.md R221; notes/assumptions/67.md) -/
def Obligations.ImagesAreFetchedPlacedAndSpliced : Prop :=
  ∀ (s u v : State) (d a b : Reg) (p : Pen) (h : Cohort), let c := cur s; let n := s.core; let pen := some p.toNat
    (∀ e t t' w img, Alone s pen h → canonical (X s a) = true → (X s a).toNat % 8 = 0 → X s b = BitVec.ofNat 64 e → e < 16 →
      let i := Instr.cfgFetch d a b p; let m := command s d [a, b] pen i
      translateAt (issued s d [a, b] pen i) n (X s a) .both = (v, .ok t') → placeBad v (t'.phys (X s a)) 8 = false →
      (memNat v.mem (t'.phys (X s a)) 8 / 4 % 16 ≠ 0 → exec i s = .next (replied s d 1)) ∧
      (memNat v.mem (t'.phys (X s a)) 8 / 4 % 16 = 0 →
        translateAt (setEntry (takeCmd v n m 0) n e none) n (X s a) .both = (u, .ok t) →
        placeBad u (t.phys (X s a)) 8 = false → w = BitVec.ofNat 64 (memNat u.mem (t.phys (X s a)) 8) → w.toNat % 4 = 2 →
        readImage u w = .ok img → ∃ z, exec i s = .next z ∧ (d ≠ 0 → X z d = 0) ∧
          (cur z).seq.pc = c.seq.pc + 4 ∧ mapGet (cur z).entries e = some { img := img, bva := X s a, gen := w.toNat / 2 ^ 52 })) ∧
    (∀ i ∈ [Instr.cfgPlace d a b p, .cfgSplice d a b p], let m := command s d [a, b] pen i; let e := m.fld 1 0 4; let r := m.fld 1 8 3
      let x0 := m.fld 2 0 3; let y0 := m.fld 2 8 3; let place := i = Instr.cfgPlace d a b p;
      Alone s pen h → loaderOperandBad m = false →
      (place → (mapGet c.regions r).isSome = true → exec i s = .next (replied s d 0x10)) ∧
      (¬ place → mapGet c.regions r = none → exec i s = .next (replied s d 0x11)) ∧
      ((place ↔ mapGet c.regions r = none) → (∀ g, mapGet c.regions r = some g → g.phase ≠ .splicing) →
        (mapGet c.entries e = none → exec i s = .next (replied s d 0x12)) ∧
        (∀ x t v t' g, mapGet c.entries e = some x → placeRefused c r x.img x0 y0 = none →
          translateAt (issued s d [a, b] pen i) n x.bva .read = (v, .ok t') →
          translateAt (takeCmd v n m 0) n x.bva .read = (u, .ok t) → placeBad u (t.phys x.bva) 8 = false →
          memNat u.mem (t.phys x.bva) 8 / 2 ^ 52 = x.gen →
          g = { imgConfig x.img u.nextId x0 y0 with launch := h.launch } →
          imageBad (coreAt u n) x.img g = none → boundMissing x.img g = false → portColumns g = [] →
          (∀ old, mapGet (coreAt u n).regions r = some old → keptScopeBad (coreAt u n) r old g = false) →
          ∃ z, exec i s = .next z ∧ (d ≠ 0 → X z d = 0) ∧ (cur z).seq.pc = c.seq.pc + 4 ∧
            (place → (mapGet (cur z).regions r).map (·.cfg) = some g) ∧
            (¬ place → (mapGet (cur z).regions r).map (fun y => (y.phase, y.succ.map (·.cfg))) =
              some (.splicing, some g))))) ∧
    (∀ k m img, cmdAt c k = some m → m.op = .cfgFetch d a b p → m.phase = .running → m.ops[2]? = some 0x10 →
      m.value.toNat % 4 = 2 → readImage s m.value = .ok img → ∃ z, exec (.cfgFetchWake k) s = .next z ∧
        mapGet (cur z).entries (m.fld 2 0 4) = some { img := img, bva := m.opnd 1, gen := m.value.toNat / 2 ^ 52 }) ∧
    (∀ x y r g sp, x < 8 → y < 5 → splicing c (siteAt c x y).place = some (r, g, sp) → (siteAt c x y).place = g.cfg.place →
      (siteAt c x y).saved = false → (siteAt c x y).marks.contains goneMark = false → inRect sp.cfg x y = true →
      sp.units ≠ [] →
      siteDone g.looped (if onCycle c x y then [0, 1, 2, 3].foldl (forwardWave g.looped x y) c else c) x y = true →
      ∃ z, exec (.siteTakeSuccessor x y) s = .next z ∧ (siteAt (cur z) x y).place = sp.cfg.place ∧
        (siteAt (cur z) x y).slots = siteWords sp.img sp.cfg sp.mode x y) ∧
    (∀ r g sp, unitSplice c .opList = some (r, g, sp) → sp.units = [.opList, .relay] → c.mx.running = none →
      (∀ y < 6, tileWave c g y = true) → ∃ z, exec (.edgeUnitTakeSuccessor .opList) s = .next z ∧
        (cur z).mx.oplist = listWords sp.img ∧ (cur z).mx.place = sp.cfg.place ∧ (cur z).mx.fired = [])

/-- Phase end, fault replay and command completion. PHASE_END of a drained region that is fed by entry ports and that no
splice replaces, whose sources may all make their final marker (R214), outside a save, with no command outstanding, exhausts
every source. FAULT_REPLAY of a parked sequencer fault that is answered with replay takes it away and the sequencer leaves
STALL for RUN. COMMAND_COMPLETE of the one outstanding command, when its work is done, takes it away, lowers its pennant by
one and sets the pennant's fault bit when it wrote a record. (07_fabric.md R213, R214, R220; 06_configuration_loader.md R193;
05_sequencer.md R158) -/
def Obligations.EnginesFinishTheirWork : Prop :=
  ∀ (s : State), let c := cur s
    (∀ r g, mapGet c.regions r = some g → g.succ = none → g.drained = true → c.cmds = [] → c.saving = false →
      (∀ q ∈ g.sources, mayStart c r q = true ∧ ∀ o ∈ g.sources, (q.round - o.round).toNat ≠ 128) →
      (∀ q ∈ g.sources, ∃ i, fedBy g q.ep = some (.entry i)) → ∃ z, exec (.phaseEnd r) s = .next z ∧
        ∀ x, mapGet (cur z).regions r = some x → ∀ q ∈ x.sources, q.done = true) ∧
    (∀ p, c.parked = [p] → p.answer = 1 → p.who = .sequencer → c.seq.st = .stall → ∃ z, exec (.faultReplay 0) s = .next z ∧
      (cur z).parked = [] ∧ (cur z).seq.st = .run ∧ (cur z).seq.pc = c.seq.pc) ∧
    (∀ m p, c.cmds = [m] → m.phase = .finished → m.rdWait = false → m.pen = some p → p < 8 → p < c.seq.pn.length →
      ∃ z, exec (.commandComplete m.id) s = .next z ∧ (cur z).cmds = [] ∧ pennant (cur z).seq p = pennant c.seq p - 1 ∧
        (∀ q, q ≠ p → pennant (cur z).seq q = pennant c.seq q) ∧
        (cur z).seq.pf = (if m.record = true then c.seq.pf ||| BitVec.ofNat 8 (2 ^ p) else c.seq.pf))

/-- CREATE, TEARDOWN, SAVE, RESTORE, ANSWER, SHOOTDOWN and QSYNC have their effect. With the window open and no command BUSY:
CREATE of a FREE context with a good record answers OK and makes it IDLE with the record's root, class, pin quota, save area
and core blocks; TEARDOWN of a context that is not FREE answers OK, makes it FREE, takes its launches and pins and frees its
core; SAVE answers OK, sets HOLD, makes a RUNNING context SAVING, begins the save on its core, and stays BUSY; RESTORE
answers OK and clears HOLD; ANSWER with an empty list gives a parked fault whose record is in the ring the answer replay;
SHOOTDOWN answers OK and empties the walk cache of the context's core; QSYNC with a good descriptor loads it and leaves the
queue enabled or not as EN says, its head kept. A command but CREATE on a FREE context, and CREATE on another, answers
BAD_STATE and changes nothing else. (18_launch_and_preemption.md R441 to R446, R458, R459; 06_configuration_loader.md R191)
-/
def Obligations.LaunchUnitCommandsComplete : Prop :=
  ∀ (s : State) (x n q : Nat), x < 64 → s.mod.window = true → s.lu.busy = none → let k := ctxAt s x
    (∀ r, k.st = .free → ctxRecord s x = some r → ctxRecordOk s r = true → ∃ z, exec (.create x) s = .next z ∧
      z.lu.status = 0 ∧ z.lu.busy = none ∧ (ctxAt z x).st = .idle ∧ (ctxAt z x).root = rfld r 0 12 40 * 4096 ∧
      (ctxAt z x).cls = rfld r 1 0 2 ∧ (ctxAt z x).pinq = rfld r 1 8 12 ∧ (ctxAt z x).save = rSave r ∧
      (ctxAt z x).nblk = rfld r 3 0 9 ∧ (ctxAt z x).held = false ∧ z.cores = s.cores ∧ z.mem = s.mem) ∧
    (k.st ≠ .free → ∃ z, exec (.teardown x) s = .next z ∧ z.lu.status = 0 ∧ z.lu.busy = none ∧ (ctxAt z x).st = .free ∧
      (∀ l ∈ z.launches, l.ctx ≠ x) ∧ (∀ p ∈ z.pins, p.2.1 ≠ x) ∧ (ctxCores s x = [n] → (coreAt z n).coh = none)) ∧
    (k.st ≠ .free → ∃ z, exec (.save x) s = .next z ∧ z.lu.status = 0 ∧ z.lu.busy = some (3, x) ∧ (ctxAt z x).held = true ∧
      (ctxAt z x).st = (if k.st = .running then .saving else k.st) ∧
      (k.st = .running → ctxCores s x = [n] → (coreAt z n).saving = true)) ∧
    (k.st ≠ .free → exec (.restore x) s = .next (luAnswer (setCtx s x { k with held := false }) 0 none)) ∧
    (∀ p, k.st ≠ .free → s.lu.arg0 = 0 → s.lu.arg1 = 0 → ctxCores s x = [n] → (coreAt s n).parked = [p] → p.inRing = true →
      p.answer = 0 → ∃ z, exec (.answer x) s = .next z ∧ z.lu.status = 0 ∧ z.lu.busy = none ∧
        (coreAt z n).parked = [{ p with answer := 1 }]) ∧
    (k.st ≠ .free → s.lu.arg0.toNat % 65536 = 0 → canonical s.lu.arg0 = true → s.lu.arg1.toNat % 65536 = 0 →
      ctxCores s x = [n] → ∃ z, exec (.shootdown x) s = .next z ∧ z.lu.status = 0 ∧ z.lu.busy = some (6, x) ∧
        (coreAt z n).walk = []) ∧
    (let u := disableQueue (setQueue s q (queueAt s q)) q; let w := wordsOf 4 (memRead u.mem (s.lu.qtab + 32 * q) 32);
      s.lu.arg0 = BitVec.ofNat 64 q → q < 64 → s.lu.arg1.toNat < 2 ^ 32 → placeBad u (s.lu.qtab + 32 * q) 32 = false →
      queueDescOk u w = true → (ctxAt u (qCtx w)).st ≠ .free → (rfld w 1 24 1 = 1 → placeBad u (qTail w) 4 = false) →
      ∃ z, exec .qsync s = .next z ∧ z.lu.status = 0 ∧ (queueAt z q).en = decide (rfld w 1 24 1 = 1) ∧ (queueAt z q).desc = w ∧
        (queueAt z q).head = (queueAt s q).head) ∧
    (k.st = .free → ∀ i ∈ [Instr.teardown x, .save x, .restore x, .answer x, .shootdown x],
      exec i s = .next (luAnswer s 0x01 none)) ∧
    (k.st ≠ .free → exec (.create x) s = .next (luAnswer s 0x01 none))

/-- ctx.yield, ctx.mark and ctx.fault. ctx.yield answers 0x10 when nobody waits for cores, and else is accepted and begins a
save of its RUNNING context. ctx.mark is accepted and begins a save, or answers 0x11 in one. ctx.fault with a code and the
fatal bit writes one record of kind software, with the code as its status, operand 2 as its address and unit 7; without the
bit it is accepted, and with it, 0 in rd, the cohort and its launch end fatally and the sequencer is DEAD.
(18_launch_and_preemption.md R469) -/
def Obligations.ContextInstructionsComplete : Prop :=
  ∀ (s : State) (d a b : Reg) (h : Cohort), Alone s none h → let x := h.ctx; let k := ctxAt s x
    (let m := someoneWaits (issued s d [] none (.ctxYield d)) x k.cls;
      (m = false → exec (.ctxYield d) s = .next (replied s d 0x10)) ∧
      (m = true → k.st = .running → ∃ z, Accepts s (.ctxYield d) d none 0 z ∧ (ctxAt z x).st = .saving)) ∧
    (k.st = .running → ∃ z, Accepts s (.ctxMark d) d none 0 z ∧ (ctxAt z x).st = .saving) ∧
    (k.st = .saving → exec (.ctxMark d) s = .next (replied s d 0x11)) ∧
    (∀ v : Nat, v < 512 → X s a = BitVec.ofNat 64 v → ∃ z, exec (.ctxFault d a b) s = .next z ∧ (ctxAt z x).seq = k.seq + 1 ∧
      z.lu.fbuf = s.lu.fbuf ++ [(recordWords { Record.mk' 0x14 7 (v % 256) (decide (256 ≤ v)) with core := s.core, addr := X s b }
        x k.seq h.lid, x)] ∧
      (v < 256 → Accepts s (.ctxFault d a b) d none 0 z) ∧
      (256 ≤ v → (cur z).seq.st = .dead ∧ X z d = 0 ∧ (cur z).coh = some { h with fatal := true } ∧
        ∀ l ∈ z.launches, l.id = h.launch → l.fatal = true))

/-- Queues, dependences, the choice and start of launches, retirement, completion and the fault ring. At its tail a queue
writes its head count and watches the tail word again; a copied good record joins the pending list with its tables, one that
breaks R447 is refused with cause 0x01, and the head rises by one; a wake ends its dependence; with one queue and no saved
context the ready head of the queue is picked when its deficit allows; a picked launch of one core starts its cohort there
with pc and s1 from the record; a chained cohort starts beside its predecessor and keeps the pennants; a cohort that meets
R35 retires; a finished launch leaves the list, its completion record written; the oldest buffered fault record goes to the
ring. (18_launch_and_preemption.md R446 to R453, R457; 01_the_device.md R35; 05_sequencer.md R134) -/
def Obligations.LaunchesRunAndComplete : Prop :=
  ∀ (s u : State) (q n : Nat) (l : Launch), let c := cur s; let v := queueAt s q
    (∀ t, q < 64 → s.lu.en = true → v.en = true → v.woken = some t → v.head = t → exec (.queueTailWake q) s =
      .next (armQueue (setQueue (writeHead s q) q { queueAt s q with seen := t, woken := none }) q)) ∧
    (∀ t, let a := qBase v.desc + 128 * (v.head.toNat % qSize v.desc); let r := wordsOf 16 (memRead s.mem a 128)
      q < 64 → s.lu.en = true → v.en = true → v.woken = some t → t = v.head + 2 → 2 ≤ qSize v.desc → pendingOf s q < 4096 →
      placeBad s a 128 = false → recordOk r = false → ∃ z, exec (.queueRecordCopy q) s = .next z ∧
        (queueAt z q).head = v.head + 1 ∧ z.launches.length = s.launches.length + 1 ∧
        z.launches.getLast?.map (fun k => (k.queue, k.st)) = some (q, .refused 1)) ∧
    (∀ t ws bs gs, let a := qBase v.desc + 128 * (v.head.toNat % qSize v.desc); let r := wordsOf 16 (memRead s.mem a 128)
      let x := ctxAt s (qCtx v.desc)
      q < 64 → s.lu.en = true → v.en = true → v.woken = some t → t = v.head + 2 → 2 ≤ qSize v.desc → pendingOf s q < 4096 →
      placeBad s a 128 = false → recordOk r = true → lNthr r ≤ min 4096 (262144 / (8 * lLive r)) → x.st ≠ .free →
      neverFits r x.nblk = false → lNdep r = 0 →
      readTables (setQueue s q { v with head := v.head + 1 }) x.root r = (u, some (ws, bs, gs)) →
      ∃ z, exec (.queueRecordCopy q) s = .next z ∧ (queueAt z q).head = v.head + 1 ∧
        z.launches.map (·.id) = s.launches.map (·.id) ++ [u.nextId] ∧
        z.launches.getLast?.map (fun k => (k.queue, k.ctx, k.rcd, k.st, k.windows, k.bufs, k.segs, k.deps)) =
          some (q, qCtx v.desc, r, .pending, ws, bs, gs, [false, false])) ∧
    (∀ i w, s.launches.find? (fun k => k.id == l.id) = some l → s.wakes.find? (fun w => depWatch l i w.e) = some w →
      ∃ z, exec (.dependenceWake l.id i) s = .next z ∧
        (z.launches.find? fun k => k.id == l.id).map (·.deps) = some (l.deps.set i false) ∧ z.mem = s.mem) ∧
    (∀ w, s.lu.en = true → s.lu.picked = [] → s.queues = [(q, w)] → readyHead s q = some l → queueClass s q < 4 →
      (∀ e ∈ s.ctxs, e.2.st ≠ .saved) → lCores l.rcd ≤ w.deficit + 24 * qWeight w.desc →
      ∃ z, exec .launchPick s = .next z ∧ mapGet z.lu.picked (queueClass s q) = some (l.id, false)) ∧
    (∀ k, s.lu.en = true → s.lu.picked = [(k, (l.id, false))] → s.launches = [l] → eligible s l = true →
      chainPred s l = none → allocFor s l (coreFree s) = some [n] → coreFree s n = true → ∃ z, exec .launchStart s = .next z ∧
        z.launches.map (fun k => (k.id, k.st, k.cores, k.live)) = [(l.id, .running, [n], 1)] ∧
        (coreAt z n).coh = some (cohortOf s l 0) ∧ (coreAt z n).seq.st = .run ∧ (coreAt z n).seq.pc = nthD l.rcd 1 0 ∧
        getX (coreAt z n).seq 1 = nthD l.rcd 2 0) ∧
    (∀ i h, s.lu.en = true → s.launches = [l] → l.waiting = [i] → l.cores[i]? = some s.core → (ctxAt s l.ctx).st = .running →
      c.prev = none → c.coh = some h → h.fatal = false → c.seq.st = .done → c.unstored = none → ∃ z, exec .chainedCohortStart s = .next z ∧
        (cur z).prev = some h ∧ (cur z).coh = some (cohortOf s l i) ∧ (cur z).seq.st = .run ∧ (cur z).seq.pc = nthD l.rcd 1 0 ∧
        (cur z).seq.pn = c.seq.pn) ∧
    (∀ h, c.prev = none → c.coh = some h → mayRetire c h = true → s.launches = [l] → l.id = h.launch → c.unstored = none → ∃ z,
      exec .cohortRetire s = .next z ∧ (cur z).coh = none ∧ (cur z).seq.st = .idle ∧ z.launches.map (·.live) = [l.live - 1] ∧
        (h.fatal = false → c.saving = false → (cur z).left = some h.launch)) ∧
    (∀ st pa, let d := nthD l.rcd 5 0
      s.launches.find? (fun k => k.id == l.id) = some l → launchStatus l = some st → ∃ z, exec (.launchComplete l.id) s = .next z ∧
        (∀ k ∈ z.launches, k.id ≠ l.id) ∧ (d = 0 → z.mem = s.mem) ∧
        (d ≠ 0 → d.toNat % 16 = 0 → translateRoot s (ctxAt s l.ctx).root d .write = (u, .ok pa) → placeBad u pa 16 = false →
          z.mem = (placeWrite (placeWrite u (pa + 8) (leBytes 8 l.nfault.toNat)) pa
            (leBytes 8 ((lLid l.rcd).toNat + 2 ^ 32 * st))).mem)) ∧
    (∀ ws x r, let a := s.lu.fringBase + 32 * (s.lu.fprod.toNat % 2 ^ s.lu.fringLog); let b := ws.flatMap fun w : Word => leBytes 8 w.toNat
      s.lu.fbuf = (ws, x) :: r → ringRoom s.lu = true → ∃ z, exec .faultRingWrite s = .next z ∧ z.lu.fprod = s.lu.fprod + 1 ∧
        z.lu.fbuf = r ∧ (s.lu.fnote = 0 → placeBad s a b.length = false → z.mem = (placeWrite s a b).mem))

/-- A saving context stops its sequencer, its sites and its core; a chosen one is restored (save layout and order of causes:
log entries 22, 49, 79, 87). While its core saves, a sequencer that runs, waits or is done, with every command's rd written,
enters SAVED and keeps its state; a site with markers on every forward input, no work that the save waits for and its outputs
empty saves and sends a marker on each output that its words use; a core whose own units have come to their save, and that
CORE_QUIESCENT has reported, empties its banks, writes its core block, is kept in the context and becomes free.
CONTEXT_RESTORE of the picked context, with cores free for its launches, makes it RUNNING, its saved core on its new core,
when its record is good, its area readable and of this device's MODEL, its channel headers good and its shift possible;
without one of these it fails with the cause of R466. What the block holds and where, which reads make the area bad, which
headers and shifts fail and in which order the causes are taken follow log entries 22, 49, 79 and 87. CORE_QUIESCENT reports
whether every region is at phase end or waits, or in a save every unit of the core has come to it (log entry 69).
(05_sequencer.md R161; 18_launch_and_preemption.md R459 to R462, R465, R466; 06_configuration_loader.md R192;
notes/assumptions/22.md; notes/assumptions/49.md; notes/assumptions/69.md; notes/assumptions/79.md; notes/assumptions/87.md)
-/
def Obligations.ContextsSaveAndRestore : Prop :=
  ∀ (s : State), let c := cur s; let n := s.core
    (c.saving = true → c.seqSaved = false → c.seq.st ≠ .dead → c.seq.st ≠ .idle → c.seq.st ≠ .saved →
      (∀ m ∈ c.cmds, m.rdWait = false) →
      exec .sequencerSave s = .next (setCur s { c with seqSaved := true, seq := { c.seq with st := .saved, held := c.seq.st } })) ∧
    (∀ x y g, x < 8 → y < 6 → let w := siteAt c x y; let outs := [0, 1, 2, 3].filter (usesOut w)
      cfgOfPlace c w.place = some g → c.saving = true → w.saved = false → w.marks.contains goneMark = false →
      forwardMarked c g x y = true → siteSettled c g x y = true → w.out = [] → ∃ z, exec (.siteSave x y) s = .next z ∧
        (siteAt (cur z) x y).saved = true ∧ (∀ p ∈ outs, mapGet (siteAt (cur z) x y).out p = some (preemptTok w.place)) ∧
        (siteAt (cur z) x y).store = w.store ∧ (siteAt (cur z) x y).inq = w.inq) ∧
    (∀ h, let u := emptyBanks (performStore s n) n; let d := coreAt u n
      fabricCohort c = some h → c.saving = true → coreFatal c = false → c.quiet = true → coreQuietToSave s n = true → coreFatal d = false →
      ∃ z, exec .coreSaved s = .next z ∧ (cur z).coh = none ∧ (cur z).prev = none ∧
        z.mem = writeBlock u.mem (blockBase (ctxAt u h.ctx).save d.block) d ∧
        (ctxAt z h.ctx).saved = (ctxAt u h.ctx).saved ++ [{ core := d, old := n, model := deviceModel }]) ∧
    (∀ x, let k := ctxAt s x; x < 64 → k.st = .restoring → (s.lu.picked.head?.any fun e => e.2 == (x, true)) = true →
      (ctxRecord s x = none → exec (.contextRestore x) s = .next (restoreFails s x 0x03)) ∧
      (∀ r, ctxRecord s x = some r →
        (areaBad s k = true → exec (.contextRestore x) s = .next (restoreFails s x 0x03)) ∧
        (areaBad s k = false → (∃ v ∈ k.saved, v.model ≠ deviceModel) →
          exec (.contextRestore x) s = .next (restoreFails s x 0x04)) ∧
        (areaBad s k = false → (∀ v ∈ k.saved, v.model = deviceModel) →
          let bad := k.saved.any fun v => channelsBad s.mem 50000 (blockBase k.save v.core.block + 0x40000)
          (bad = true → exec (.contextRestore x) s = .next (restoreFails s x 0x01)) ∧
          (bad = false →
            (shiftBad (shiftOf r).1 (shiftOf r).2 k.saved = true →
              exec (.contextRestore x) s = .next (restoreFails s x 0x02)) ∧
            (∀ plan, shiftBad (shiftOf r).1 (shiftOf r).2 k.saved = false → s.lu.busy = none →
              restorePlan (restoreFree s) (liveLaunches s x) [] = some plan → ∃ z, exec (.contextRestore x) s = .next z ∧
                (ctxAt z x).st = .running ∧ (ctxAt z x).saved = [] ∧
                ∀ v m h, k.saved = [v] → ctxCores s x = [] → v.core.coh = some h → (∀ p ∈ v.core.parked, p.answer ≠ 2) →
                  planned s plan v = some m → (coreAt z m).coh = some h))))) ∧
    (∃ z, exec .coreQuiescent s = .next z ∧ (cur z).quiet = (c.coh.isSome &&
      ((c.regions.all fun e => regionStill c e.2) || (c.saving && coreQuietToSave s n))))

/-- Reset, register writes, clocks and limits (registers without a reset value, host memory, the mailbox and POWER: log
entries 3, 4, 53, 55). A module reset, by MOD_RESET while the window is open, leaves every launch-unit register, module
register but the host link's width, home slice, HY_WIN and lens, the home map, every grant and context at its reset value, no
queue, launch, pin or watch entry and every byte below the host range zero, and keeps host memory (log entry 3); each
sequencer is at its reset value, of which pc and the registers are the model's (log entry 4). With the window open a write of
LU_CTL.EN = 1 with FACC0 bit 0 set enables the launch unit and captures the feature words, a write of LU_FCONS, MOD_CLK or
LU_ARG0 sets that register, and a misaligned register write does nothing; a write to the mailbox payload stores its eight
bytes (where the payload stands: log entry 53). Reads of the window give FEAT0, LU_ARG0, the status of the last command, and
zero for write-only registers. A clock step applies the requested step, at most 14; the limits raise steps and set POWER (for
the average limit log entry 55) or THERM; a thermal trip logs its event with the die and the entry's number and resets the
module; an uncharged error sets UE and logs. (19_host_peers_and_trust.md R470 to R474, R481, R482, R484;
18_launch_and_preemption.md R440; notes/assumptions/3.md; notes/assumptions/4.md; notes/assumptions/53.md;
notes/assumptions/55.md) -/
def Obligations.ManagementWritesAct : Prop :=
  ∀ (s : State) (v : Word) (d : Nat) (w : LinkWidth), d < 16 → let m := s.mod
    (∀ i ∈ [Instr.moduleReset .powerOn, .moduleReset .cxl, .moduleReset .modReset, .thermalTrip (.junction d),
        .thermalTrip .inputVoltage], (i = .moduleReset .modReset → m.window = true) → ∃ z, exec i s = .next z ∧
        z.lu = State.reset.lu ∧ (∀ x, ctxAt z x = Ctx.reset) ∧ (∀ n, (coreAt z n).seq = Seq.reset) ∧
        (∀ a, a < 2 ^ 51 → memGet z.mem a = 0) ∧ (∀ a, 2 ^ 51 ≤ a → memGet z.mem a = memGet s.mem a) ∧
        z.mod = { Module.reset with link := m.link, flash := z.mod.flash } ∧ z.homeMap = State.reset.homeMap ∧ z.slices = [] ∧
        z.pins = [] ∧ z.wakes = [] ∧ z.queues = [] ∧ z.launches = [] ∧ z.remote = [] ∧ z.trust.grants = Trust.reset.grants) ∧
    (s.trust.log.length < 256 → ∀ e ∈ [(Instr.thermalTrip (.junction d), 1 + 256 * d), (.thermalTrip .inputVoltage, 2)],
      ∃ z, exec e.1 s = .next z ∧ z.trust.log = s.trust.log ++
        [(BitVec.ofNat 64 (e.2 + s.trust.logNext % 2 ^ 16 * 2 ^ 16), 
          BitVec.ofNat 64 (s.trust.cycles + Config.trustCycles s.trust.tick))]) ∧
    (exec (.hostLinkTrain w) s = .next { s with mod := { m with link := w } }) ∧
    (m.window = true →
      (v.getLsbD 0 = true → s.lu.en = false → (nthD m.facc 0 0).getLsbD 0 = true → exec (.luCtlWrite v) s =
        .next { s with lu := { s.lu with en := true }, mod := { m with feat := some m.facc } }) ∧
      (v.getLsbD 0 = false → exec (.luCtlWrite v) s = .next { s with lu := { s.lu with en := false } }) ∧
      (exec (.luFconsWrite v) s = .next { s with lu := { s.lu with fcons := v.setWidth 32 } }) ∧
      (exec (.modClkWrite v) s = .next { s with mod := { m with clkReq := v } }) ∧
      (exec (.registerWrite 0x1048 v) s = .next { s with lu := { s.lu with arg0 := v } }) ∧
      (∀ o, o < 2 ^ 24 → o % 8 ≠ 0 → exec (.registerWrite o v) s = .next s)) ∧
    (∀ o, (∃ z, exec (.registerWrite o v) s = .next z) ∧
      (s.trust.mode ≠ .boot → 0x1000 ≤ o → o + 8 ≤ 0x10000 → exec (.registerWrite (2 ^ 24 + o) v) s = .next { s with trust :=
        { s.trust with payload := memWrite s.trust.payload (o - 0x1000) (leBytes 8 v.toNat) } })) ∧
    (readWindow s 0 = 0x1F ∧ readWindow s 0x48 = 0 ∧ readWindow s 0x1048 = s.lu.arg0 ∧ readWindow s 0x1058 = 0 ∧
      (readWindow s 0x1060).toNat = s.lu.busy.isSome.toNat + 256 * s.lu.status.toNat) ∧
    (m.window = false → ∀ i ∈ [Instr.luCtlWrite v, .luFconsWrite v, .modClkWrite v, .registerWrite 0x1048 v, .moduleReset .modReset],
      exec i s = .next s) ∧
    (exec (.clockStepApply d) s = .next { s with mod := { m with clkNow := setStep m.clkNow d (min (stepOf m.clkReq d) 14) } }) ∧
    (s.trust.mode = .running → stepOf m.clkReq d < 14 → exec (.powerAvgLimit [d]) s = .next { s with mod :=
      { m with clkReq := setStep m.clkReq d (stepOf m.clkReq d + 1), err := m.err ||| 8 } }) ∧
    (exec .powerFastLimit s = .next { s with mod := { m with clkReq := 0xEEEEEEEEEEEEEEEE, err := m.err ||| 8 } }) ∧
    (exec (.thermalStep d) s = .next { s with mod :=
      { m with clkReq := setStep m.clkReq d 14, clkNow := setStep m.clkNow d 14, err := m.err ||| 4 } }) ∧
    (∃ z, exec (.unchargedMemoryError d) s = .next z ∧ z.mod = { m with err := m.err ||| 2 } ∧ z.mem = s.mem ∧
      (s.trust.log.length < 256 → z.trust.log.length = s.trust.log.length + 1))

/-- Host and peer accesses, service firmware, the mailbox and out-of-band reads (log answers and host writes: log entries 54,
57). A host read or write of existing HBM, or a write of host memory through the cache, when the feature is accepted
(HOST_CACHE_INVALIDATION carries the bytes: log entry 57), reads or writes its bytes; a peer's access through an open window
of a port that is up likewise, and a refused one changes nothing but the answer; service firmware reaches only granted bytes.
In running mode GRANT_SET with a good entry and a number below 16 sets it, GRANT_READ gives it back, GRANT_CLEAR with
argument 0 disables every entry; by mailbox and over MCTP the attestation report, the identity key and the log from the index
on (which entries: log entry 54) answer with their status; a port that goes down is noted in the log with its die and number;
the boot checks open the window or leave the module in recovery; PLDM reads a step and a log entry and stages an image.
(19_host_peers_and_trust.md R471, R475, R477 to R481, R483, R484; 15_home_slices_and_watch.md R379, R391;
notes/assumptions/54.md; notes/assumptions/57.md) -/
def Obligations.HostPeersAndTrustCore : Prop :=
  ∀ (s : State) (a n p : Nat) (b : List Byte) (v : Word) (g : BitVec 56), let t := s.trust
    (hostMem s a n = .performs → isBad s.badMem a n = false →
      exec (.hostCxlMemRead a n) s = .next { s with hostData := memRead s.mem a n }) ∧
    (hostMem s a b.length = .performs → isBad s.badMem a b.length = false →
      exec (.hostCxlMemWrite a b) s = .next (placeWrite s a b)) ∧
    (2 ^ 51 ≤ a → a + b.length ≤ 2 ^ 52 → exec (.hostCacheInvalidation a b) s =
      .next (if Machine.accepted s 3 = true then placeWrite s a b else s)) ∧
    (p < 12 → exec (.halyardFlitRetry p) s = .next s) ∧
    (p < 12 → Machine.accepted s 2 = true → nthD s.mod.ports p false = true →
      (halyardResolve s p v n false = none → exec (.halyardInboundAccess p v (.read n)) s =
        .next { s with peerOut := some (p, .refused) }) ∧
      (halyardResolve s p v b.length true = none → exec (.halyardInboundAccess p v (.write b)) s =
        .next { s with peerOut := some (p, .refused) }) ∧
      (halyardResolve s p v n false = some a → isBad s.badMem a n = false →
        exec (.halyardInboundAccess p v (.read n)) s = .next { s with peerOut := some (p, .ok (memRead s.mem a n)) }) ∧
      (halyardResolve s p v b.length true = some a → isBad s.badMem a b.length = false →
        exec (.halyardInboundAccess p v (.write b)) s =
          .next (placeWrite { s with peerOut := some (p, .ok []) } a b))) ∧
    (p < 12 → s.remote = [] → ∃ z, exec (.halyardPortDown p) s = .next z ∧ nthD z.mod.ports p false = false ∧ z.cores = s.cores ∧
      (t.log.length < 256 → z.trust.log.getLast?.map (·.1) = some (BitVec.ofNat 64 (5 +
        256 * nthD [0, 1, 2, 3, 4, 7, 8, 11, 12, 13, 14, 15] p 0 + 4096 * p + t.logNext % 2 ^ 16 * 2 ^ 16)))) ∧
    (t.mode = .running →
      (firmwareOk s false a n = true → isBad s.badMem a n = false →
        exec (.firmwareMemoryAccess a (.read n)) s = .next { s with hostData := memRead s.mem a n }) ∧
      (firmwareOk s false a n = false →
        exec (.firmwareMemoryAccess a (.read n)) s = .next { s with hostData := List.replicate n 0 }) ∧
      (firmwareOk s true a b.length = true → isBad s.badMem a b.length = false →
        exec (.firmwareMemoryAccess a (.write b)) s = .next (placeWrite s a b)) ∧
      (firmwareOk s true a b.length = false → exec (.firmwareMemoryAccess a (.write b)) s = .next s) ∧
      (let e := (BitVec.ofNat 64 (memNat t.payload 0 8), BitVec.ofNat 64 (memNat t.payload 8 8));
        g.toNat < 16 → grantOk e.1 e.2 = true → ∃ z, exec (.grantSet g) s = .next z ∧ z.trust.mbCode = 0 ∧
          grantAt z g.toNat = e) ∧
      (g.toNat < 16 → exec (.grantRead g) s = .next (mbDone s 0
        (leBytes 8 (grantAt s g.toNat).1.toNat ++ leBytes 8 (grantAt s g.toNat).2.toNat))) ∧
      (∃ z, exec (.grantClear 0) s = .next z ∧ z.trust.mbCode = 0 ∧ ∀ e ∈ z.trust.grants, e.2.1.getLsbD 0 = false)) ∧
    (t.mode ≠ .boot →
      (let mctp := fun (o : List Byte) => { s with mctpOut := o, trust := { t with mctpCode := 0 } };
        let log := (logFrom s g.toNat).flatMap fun e => leBytes 8 e.1.toNat ++ leBytes 8 e.2.toNat
        exec (.attest true 0 b) s = .next (mctp (report s b)) ∧ exec (.idkey true 0) s = .next (mctp Config.idKey) ∧
        exec (.idkey false 0) s = .next (mbDone s 0 Config.idKey) ∧
        (g.toNat < 2 ^ 16 → exec (.logRead true g) s = .next (mctp log) ∧
          exec (.logRead false g) s = .next (mbDone s 0 log))) ∧
      (let u := { s with trust := { t with payload := memWrite t.payload 0 (b.take 32) } };
        exec (.attest false 0 b) s = .next (mbDone u 0 (report u (memRead u.trust.payload 0 32)))) ∧
      (g ≠ 0 → exec (.idkey false g) s = .next (mbDone s 2 []) ∧
        exec (.idkey true g) s = .next { s with mctpOut := [], trust := { t with mctpCode := 2 } })) ∧
    (t.mode = .boot → let f := s.mod.flash
      let good := Config.signatureOk f (Config.digest f) && decide (Config.fusedMinimum ≤ (Config.imageVersion f).toNat)
      ∃ z, exec .trustBoot s = .next z ∧ z.trust.mode = (if good = true then .running else .recovery) ∧
        z.mod.window = (if good = true then true else s.mod.window)) ∧
    (∀ d, d < 16 → exec (.pldmSensorRead (.clockStep d) v) s = .next { s with mctpOut := leBytes 8 (stepOf s.mod.clkReq d) }) ∧
    (∀ m e, t.log.find? (fun e => e.1.toNat / 2 ^ 16 % 2 ^ 16 == m % 2 ^ 16) = some e →
      exec (.pldmSensorRead (.logEntry m) v) s = .next { s with mctpOut := leBytes 8 e.1.toNat ++ leBytes 8 e.2.toNat }) ∧
    exec (.pldmFirmwareUpdate b) s = .next { s with trust := { t with staged := some b } }

/-- The value and flags of every lane operation of a vector element. Integer vadd, vsub, vmul, vneg and vabs give the exact
result wrapped to 32 bits, or clamped to the type's range under saturation; vmulh its upper half; vmin, vmax and vcmp compare
as the type says; the logical, shift, count, reverse, carry-less, select, move and predicate operations give their bits; none
of these raises a flag. Floating vadd, vsub, vmul, the four fused forms and vdiv round the exact result once, with the flags
of R61; vneg and vabs change the sign and give the canonical NaN for a NaN; vmin, vmax and vcmp follow R62 and R63. A
conversion between any two formats rounds, clamps or wraps the exact value of its source once, and writes an integer sign- or
zero-extended; vmxe rounds an element times 2^(s - 127), a NaN for s = 0xFF. The special functions round their exact value,
with the tabled results at zeros and infinities. (08_vector_elements_arithmetic.md R237 to R245;
09_vector_elements_conversion_and_runs.md R247, R249, R255 to R258; 02_numbers.md R58 to R63) -/
def Obligations.VectorLaneOperationsCompute : Prop :=
  ∀ (w a b c : W32) (r : Nat), let op := Stg.op w; let t := Stg.ty w; let m := Stg.rnd w; let sat := Stg.sat w
    let v := laneOp w r a b c; let n := b.toNat % 32
    let A : Int := if t = 0 then a.toInt else a.toNat; let B : Int := if t = 0 then b.toInt else b.toNat
    let lo : Int := if t = 0 then -2147483648 else 0; let hi : Int := if t = 0 then 2147483647 else 4294967295
    let bit := fun (p : Bool) => (((if p then 1 else 0) : W32), (0 : Flags))
    let odd := fun (k : Nat) => ((List.range 32).filter fun i => b.getLsbD i && decide (i ≤ k) && a.getLsbD (k - i)).length % 2 == 1
    let rounded := fun (u : Nat) (e : Val × Flags) =>
      let y := roundTo (typeFmt u) m sat r e.1; ((BitVec.ofNat 32 y.1, e.2 ||| y.2) : W32 × Flags)
    let x := fval t a; let y := fval t b; let z := fval t c; let rdn := m == 2
    (t ≤ 1 →
      (∀ e ∈ [(0x00, A + B), (0x01, A - B), (0x02, A * B), (0x08, -A), (0x09, if A < 0 then -A else A)], op = e.1 →
        v = (BitVec.ofInt 32 (if sat = true then max lo (min hi e.2) else e.2), 0)) ∧
      (op = 0x03 → v = (BitVec.ofInt 32 (A * B / 4294967296), 0)) ∧
      (op = 0x0A → v = (if A ≤ B then a else b, 0)) ∧ (op = 0x0B → v = (if A ≤ B then b else a, 0)) ∧
      (∀ e ∈ [(0, decide (A = B)), (1, decide (A ≠ B)), (2, decide (A < B)), (3, decide (A ≤ B)), (4, decide (B < A)),
        (5, decide (B ≤ A))], op = 0x20 → Stg.mod w = e.1 → v = bit e.2)) ∧
    (∀ e ∈ [(0x10, a &&& b), (0x11, a ||| b), (0x12, a ^^^ b), (0x13, ~~~a), (0x14, a &&& ~~~b), (0x15, a <<< n), (0x16, a >>> n),
      (0x17, a.sshiftRight n), (0x18, a.rotateLeft n), (0x21, if a.getLsbD 0 then b else c), (0x26, a)], op = e.1 → v = (e.2, 0)) ∧
    (∀ e ∈ [(0x22, a.getLsbD 0 && b.getLsbD 0), (0x23, a.getLsbD 0 || b.getLsbD 0), (0x24, a.getLsbD 0 != b.getLsbD 0),
      (0x25, !(a.getLsbD 0))], op = e.1 → v = bit e.2) ∧
    (op = 0x19 → v.1.toNat = ((List.range 32).filter a.getLsbD).length ∧ v.2 = 0) ∧
    (op = 0x1A → v.2 = 0 ∧ (a = 0 → v.1 = 32) ∧ (a ≠ 0 → 2 ^ (31 - v.1.toNat) ≤ a.toNat ∧ a.toNat < 2 ^ (32 - v.1.toNat))) ∧
    (op = 0x1B → v.2 = 0 ∧ ∀ i, i < 32 → v.1.getLsbD i = a.getLsbD (31 - i)) ∧
    (op = 0x1C → v.2 = 0 ∧ ∀ k, k < 32 → v.1.getLsbD k = odd k) ∧
    (op = 0x1D → v.2 = 0 ∧ ∀ k, k < 32 → v.1.getLsbD k = odd (32 + k)) ∧
    (1 < t →
      (∀ e ∈ [(0x00, addV rdn x y), (0x01, addV rdn x (vneg y)), (0x02, mulV x y)], op = e.1 → v = rounded t e.2) ∧
      (op = 0x0A → v = (BitVec.ofNat 32 (fminmax (typeFmt t) false a.toNat b.toNat).1,
        (fminmax (typeFmt t) false a.toNat b.toNat).2)) ∧
      (op = 0x0B → v = (BitVec.ofNat 32 (fminmax (typeFmt t) true a.toNat b.toNat).1,
        (fminmax (typeFmt t) true a.toNat b.toNat).2)) ∧
      (op = 0x20 → v = ((bit (fcmp (Stg.mod w) x y).1).1, (fcmp (Stg.mod w) x y).2))) ∧
    (∀ e ∈ [(0x04, fmaV rdn x y z), (0x05, fmaV rdn x y (vneg z)), (0x06, fmaV rdn x y z true),
      (0x07, fmaV rdn x y (vneg z) true)], op = e.1 → v = rounded t e.2) ∧
    (∀ e ∈ [(3, 0x80000000#32, 0xFFFFFFFF#32, 0x7FC00000#32), (4, 0x8000#32, 0xFFFF#32, 0x7E00#32),
      (5, 0x8000#32, 0xFFFF#32, 0x7FC0#32)], t = e.1 →
      (op = 0x08 → v = (if isNan x = true then e.2.2.2 else (a ^^^ e.2.1) &&& e.2.2.1, nvOf [x])) ∧
      (op = 0x09 → v = (if isNan x = true then e.2.2.2 else a &&& e.2.2.1 &&& ~~~e.2.1, nvOf [x]))) ∧
    (op = 0x38 → v = rounded 3 (divV (fval 3 a) (fval 3 b))) ∧
    (∀ k, 0x30 ≤ op → op ≤ 0x37 → k = op → v = rounded 3 (specialV k (fval 3 a))) ∧
    (∀ d f, d < 14 → op = 0x40 + d → Stg.fmt w = f → f < 15 → f ≠ d →
      let i : Int := nthD [(a.setWidth 8).toInt, (a.setWidth 16).toInt, a.toInt, ((a.toNat % 2 ^ 8 : Nat) : Int), ((a.toNat % 2 ^ 16 : Nat) : Int),
        (a.toNat : Int)] (f - 8) 0
      let lane := fun (e : Int) => nthD [(BitVec.ofInt 8 e).signExtend 32, (BitVec.ofInt 16 e).signExtend 32, BitVec.ofInt 32 e,
        (BitVec.ofInt 8 e).setWidth 32, (BitVec.ofInt 16 e).setWidth 32, BitVec.ofInt 32 e] (d - 8) 0
      let least : Int := nthD [-2 ^ 7, -2 ^ 15, -2 ^ 31, 0, 0, 0] (d - 8) 0
      let most : Int := nthD [2 ^ 7 - 1, 2 ^ 15 - 1, 2 ^ 31 - 1, 2 ^ 8 - 1, 2 ^ 16 - 1, 2 ^ 32 - 1] (d - 8) 0
      let s := a.toNat % 256
      let src : Val := if f < 8 then decodeF (ffmt f) a.toNat
        else if f = 14 then (if s = 255 then .nan false else .fin false 1 ((s : Int) - 127) false)
        else .fin (decide (i < 0)) i.natAbs 0 false
      let nv : Flags := if isSnan src = true then fNV else 0
      (d < 8 → v = (BitVec.ofNat 32 (roundTo (ffmt d) m sat r src).1, nv ||| (roundTo (ffmt d) m sat r src).2)) ∧
      (8 ≤ d → 8 ≤ f → f < 14 → v = (lane (if sat = true then max least (min most i) else i), 0)) ∧
      (8 ≤ d → f < 8 → let y := cvtInt (nthD [8, 16, 32, 8, 16, 32] (d - 8) 0) (decide (d < 11)) m sat r src
        v = (lane y.1, nv ||| y.2))) ∧
    (op = 0x51 → Stg.fmt w < 3 → Stg.mod w < 5 → let s : Nat := a.toNat / 2 ^ 8 % 2 ^ 8; let e := decodeF (ffmt (Stg.mod w + 3)) a.toNat
      let x : Val := if s = 255 ∨ isNan e = true then .nan false else match e with
        | .fin n k q st => .fin n k (q + s - 127) st
        | y => y
      let y := roundTo (ffmt (Stg.fmt w)) m sat r x
      v = (BitVec.ofNat 32 y.1, (if isSnan e = true then fNV else 0) ||| y.2)) ∧
    (∀ e ∈ [(0x30, 0#32, 0x7F800000#32, fDZ), (0x30, 0x80000000#32, 0xFF800000#32, fDZ), (0x30, 0x7F800000#32, 0#32, 0),
      (0x30, 0xFF800000#32, 0x80000000#32, 0), (0x31, 0#32, 0x7F800000#32, fDZ), (0x31, 0x80000000#32, 0xFF800000#32, fDZ),
      (0x31, 0x7F800000#32, 0#32, 0), (0x31, 0xFF800000#32, 0x7FC00000#32, fNV), (0x32, 0x80000000#32, 0x80000000#32, 0),
      (0x32, 0x7F800000#32, 0x7F800000#32, 0), (0x32, 0xFF800000#32, 0x7FC00000#32, fNV), (0x33, 0#32, 0x3F800000#32, 0),
      (0x33, 0xFF800000#32, 0#32, 0), (0x33, 0x7F800000#32, 0x7F800000#32, 0), (0x34, 0#32, 0xFF800000#32, fDZ),
      (0x34, 0x7F800000#32, 0x7F800000#32, 0), (0x34, 0xFF800000#32, 0x7FC00000#32, fNV), (0x35, 0x80000000#32, 0x80000000#32, 0),
      (0x35, 0x7F800000#32, 0x7FC00000#32, fNV), (0x36, 0#32, 0x3F800000#32, 0), (0x36, 0x7F800000#32, 0x7FC00000#32, fNV),
      (0x37, 0x80000000#32, 0x80000000#32, 0), (0x37, 0xFF800000#32, 0xBF800000#32, 0)], op = e.1 → a = e.2.1 → v = (e.2.2.1, e.2.2.2))

/-- vscan, vred, vshuf, vbcast and vtag combine the lanes of a run; vmxq forms an MX block. On a run all of whose lanes act,
with distinct tags, in a stage that writes no live value or predicate: vtag gives each lane its tag and position; vbcast
gives every lane the value of the lane with the lowest tag; vshuf gives each lane the value at the position it names, or a
null; vscan and vred fold the values in ascending tag order, from the first one exactly: an integer addition is exact, taken
modulo 2^32 or with saturation clamped to its type's range, one of binary32 is rounded once, min and max compare as the type
says and those of binary32 are R63's; vscan gives each lane the value after it, vred gives every lane the last, with the
flags of every step; so an unsigned vred add without saturation gives every lane the sum of all values modulo 2^32, and vscan
the sum over the lanes whose tags are not above its own. An MX block's scale is 0xFF with a NaN or an infinity, 0x7F for
zeros alone, and else follows the largest magnitude, clamped; an element is the scaled value rounded with saturation, and one
that saturates raises inexact and not overflow. (09_vector_elements_conversion_and_runs.md R254, R259 to R263; 02_numbers.md
R52, R63, R70) -/
def Obligations.RunOperationsCombineLanes : Prop :=
  (∀ (sl : Slot) (w : W32) (x : Run), let av := fun (l : Work) (p : Nat) => source x.core sl w l p
    let z := runStage sl w x
    (∀ l ∈ x.lanes, l.act = true) → (x.lanes.map (·.tag)).Nodup → (x.lanes.map (·.pos)).Nodup → Stg.dst w < 2 →
    (Stg.op w = 0x64 → z.lanes.map (·.prev) = x.lanes.map fun l => BitVec.ofNat 32 (l.tag + 4096 * l.pos)) ∧
    (∀ k ∈ x.lanes, Stg.op w = 0x63 → (∀ l ∈ x.lanes, k.tag ≤ l.tag) → z.lanes.map (·.prev) = x.lanes.map fun _ => av k 0) ∧
    (∀ (i : Nat) (l : Work), Stg.op w = 0x62 → x.lanes[i]? = some l →
      (∀ k ∈ x.lanes, k.pos = (av l 1).toNat % 32 → z.lanes[i]?.map (·.prev) = some (av k 0)) ∧
      ((∀ k ∈ x.lanes, k.pos ≠ (av l 1).toNat % 32) → z.lanes[i]?.map (fun k => (k.act, k.res)) = some (false, ⟨0, true⟩))) ∧
    (∀ (L : List Work) (a : W32) (r : List W32), Stg.op w = 0x60 ∨ Stg.op w = 0x61 → Stg.ty w ≤ 1 ∨ Stg.ty w = 3 → Stg.mod w ≤ 2 →
      L.Perm x.lanes → L.Pairwise (fun k l => k.tag < l.tag) → L.map (fun l => av l 0) = a :: r →
      let last := r.foldl (folded w) (a, x.lfsr, 0)
      z.lfsr = last.2.1 ∧ z.fl = x.fl ||| last.2.2 ∧
      (Stg.op w = 0x61 → z.lanes.map (·.prev) = x.lanes.map fun _ => last.1) ∧
      (Stg.op w = 0x60 → ∀ (i k : Nat) (l : Work), L[i]? = some l → x.lanes[k]? = some l →
        z.lanes[k]?.map (·.prev) = some ((r.take i).foldl (folded w) (a, x.lfsr, 0)).1)) ∧
    (Stg.ty w = 1 → Stg.mod w = 0 → Stg.sat w = false →
      (Stg.op w = 0x61 → z.lanes.map (·.prev) = x.lanes.map fun _ => BitVec.ofNat 32 (x.lanes.map fun k => (av k 0).toNat).sum) ∧
      (Stg.op w = 0x60 → z.lanes.map (·.prev) = x.lanes.map fun l =>
        BitVec.ofNat 32 ((x.lanes.filter fun k => decide (k.tag ≤ l.tag)).map fun k => (av k 0).toNat).sum))) ∧
  (∀ (f : Nat) (vs : List Val), 3 ≤ f → f ≤ 7 → let emax : Int := nthD [8, 15, 4, 2, 2] (f - 3) 0
    ((∃ v ∈ vs, isNan v = true ∨ ∃ n, v = .inf n) → mxScale f vs = 255) ∧
    ((∀ v ∈ vs, ∃ n e, v = .fin n 0 e false) → mxScale f vs = 127) ∧
    (∀ g : Int, (∀ v ∈ vs, ∃ n m e, v = .fin n m e false ∧ (m ≠ 0 → Nat.log2 m + e ≤ g)) →
      (∃ n m e, m ≠ 0 ∧ Val.fin n m e false ∈ vs ∧ Nat.log2 m + e = g) →
      (mxScale f vs : Int) = max 0 (min 254 (g - emax + 127)))) ∧
  (∀ (f m s r : Nat) (n : Bool) (k : Nat) (e : Int), s ≠ 255 → let y := roundTo (ffmt f) m true r (.fin n k (e + 127 - s) false)
    mxElem f m 255 r (.fin n k e false) = (0, 0) ∧ mxElem f m s r (.fin n k e false) = (y.1, if y.2 &&& fOF = 0 then y.2 else fNX))

/-- Sums, products, quotients, roots and comparisons are exact, with the special cases of R61, R62 and R256. Before its one
rounding a floating sum or product of finite values is their exact sum or product, with R61's sign of an exact zero; a fused
form is the sum of the product and the third operand. A quotient, a square root and a reciprocal square root are given
exactly, or to more bits than any format has with the rest marked. NaN, infinite and zero operands give the results and flags
of IEEE 754-2019, and a negative one of a root or logarithm NaN and invalid. Comparisons order the exact values. 2^x of an
integer and the logarithm of a power of two are exact. (02_numbers.md R61, R62; 09_vector_elements_conversion_and_runs.md
R256) -/
def Obligations.FloatingOperationsAreExactBeforeRounding : Prop :=
  ∀ (x y z : Val) (rdn g : Bool), let nv : Flags := if isSnan x = true ∨ isSnan y = true then fNV else 0
    let order := cmpV x y
    (isNan x = true ∨ isNan y = true → (∀ e ∈ [addV rdn x y, mulV x y, divV x y], e = (.nan false, nv)) ∧
      ∀ p, fcmp p x y = (decide (p = 1), if p ≤ 1 then nv else fNV)) ∧
    (∀ a, x = .inf a →
      (∀ b, y = .inf b → addV rdn x y = (if a = b then (.inf a, 0) else (.nan false, fNV)) ∧ mulV x y = (.inf (a != b), 0) ∧
        divV x y = (.nan false, fNV) ∧ order = (if a = b then 0 else if a = true then -1 else 1)) ∧
      (∀ b m e, y = .fin b m e false → addV rdn x y = (.inf a, 0) ∧ addV rdn y x = (.inf a, 0) ∧
        mulV x y = (if m = 0 then (.nan false, fNV) else (.inf (a != b), 0)) ∧
        mulV y x = (if m = 0 then (.nan false, fNV) else (.inf (a != b), 0)) ∧ divV x y = (.inf (a != b), 0) ∧
        divV y x = (.fin (b != a) 0 0 false, 0) ∧ order = (if a = true then -1 else 1) ∧ cmpV y x = (if a = true then 1 else -1))) ∧
    (∀ a m e b n f, x = .fin a m e false → y = .fin b n f false → let s := realOf x + realOf y
      (∃ c k q, addV rdn x y = (.fin c k q false, 0) ∧ realOf (.fin c k q false) = s ∧ (s ≠ 0 → c = decide (s < 0)) ∧
        (s = 0 → c = if m = 0 ∧ n = 0 ∧ a = b then a else rdn)) ∧
      (∃ k q, mulV x y = (.fin (a != b) k q false, 0) ∧ realOf (.fin (a != b) k q false) = realOf x * realOf y) ∧
      (n = 0 → divV x y = if m = 0 then (.nan false, fNV) else (.inf (a != b), fDZ)) ∧
      (m = 0 → n ≠ 0 → divV x y = (.fin (a != b) 0 0 false, 0)) ∧
      (m ≠ 0 → n ≠ 0 → ∃ k q st, divV x y = (.fin (a != b) k q st, 0) ∧ 2 ^ 70 ≤ k ∧ Spans k q st |realOf x / realOf y|) ∧
      order = (if realOf x < realOf y then -1 else if realOf x = realOf y then 0 else 1)) ∧
    (isNan x = false → isNan y = false → ∀ e ∈ [(0, decide (order = 0)), (1, decide (order ≠ 0)), (2, decide (order = -1)),
      (3, decide (order ≤ 0)), (4, decide (order = 1)), (5, decide (0 ≤ order))], fcmp e.1 x y = (e.2, 0)) ∧
    (let p := mulV x y; let t := addV rdn (if g = true then vneg p.1 else p.1) z
      fmaV rdn x y z g = (t.1, p.2 ||| t.2 ||| (if isSnan x = true ∨ isSnan y = true ∨ isSnan z = true then fNV else 0))) ∧
    (∀ op, 0x30 ≤ op → op ≤ 0x37 → isNan x = true → specialV op x = (.nan false, if isSnan x = true then fNV else 0)) ∧
    (isNan x = false → specialV 0x30 x = divV (.fin false 1 0 false) x) ∧
    (∀ m e, m ≠ 0 → x = .fin true m e false → ∀ op ∈ [0x31, 0x32, 0x34], specialV op x = (.nan false, fNV)) ∧
    (∀ m e, m ≠ 0 → x = .fin false m e false →
      (∃ k q st, specialV 0x32 x = (.fin false k q st, 0) ∧ 2 ^ 70 ≤ k ∧ (let lo : ℚ := k * 2 ^ q; let hi : ℚ := (k + 1) * 2 ^ q
        if st = true then lo * lo < realOf x ∧ realOf x < hi * hi else realOf x = lo * lo)) ∧
      (∃ k q st, specialV 0x31 x = (.fin false k q st, 0) ∧ 2 ^ 70 ≤ k ∧ (let lo : ℚ := k * 2 ^ q; let hi : ℚ := (k + 1) * 2 ^ q
        if st = true then lo * lo * realOf x < 1 ∧ 1 < hi * hi * realOf x else lo * lo * realOf x = 1))) ∧
    (∀ (j : Nat) (e : Int), x = .fin false (2 ^ j) e false →
      specialV 0x34 x = (.fin (decide (j + e < 0)) (j + e).natAbs 0 false, 0)) ∧
    (∀ (n : Bool) (m : Nat) (e i : Int), m ≠ 0 → -640 ≤ e → i.natAbs < 1024 → x = .fin n m e false → realOf x = i →
      specialV 0x33 x = (.fin false 1 i false, 0))

/-- Before their rounding 2^x, log2, sin, cos and tanh lie within 2^-200 of the real function. For every finite non-zero
binary32 operand: vexp2 forms 2^x within a factor 1 ± 2^-200 while |x| < 1024, and beyond that a value that every format
overflows or loses; vlog2 of a positive operand, vsin and vcos form the logarithm to base 2, the sine and the cosine in
radians within 2^-200; vtanh the hyperbolic tangent within 2^-200 below 64 and within 2^-99, short of 1, from there on. None
of these raises a flag before the rounding. (09_vector_elements_conversion_and_runs.md R256) -/
def Obligations.SpecialFunctionsFollowTheRealFunctions : Prop :=
  ∀ (n : Bool) (m : Nat) (e : Int), m ≠ 0 → m < 2 ^ 24 → -149 ≤ e → e ≤ 104 →
    let x := Val.fin n m e false; let X : ℝ := ((realOf x : ℚ) : ℝ); let d : ℝ := (2 : ℝ) ^ (-200 : Int)
    let near := fun (op : Nat) (t err : ℝ) => ∃ c k q st, specialV op x = (.fin c k q st, 0) ∧
      |((realOf (.fin c k q st) : ℚ) : ℝ) - t| ≤ err
    (|X| < 1024 → near 0x33 ((2 : ℝ) ^ X) (d * (2 : ℝ) ^ X)) ∧
    (1024 ≤ X → specialV 0x33 x = (.fin false 1 400 true, 0)) ∧ (X ≤ -1024 → specialV 0x33 x = (.fin false 1 (-400) true, 0)) ∧
    (n = false → near 0x34 (Real.logb 2 X) d) ∧ near 0x35 (Real.sin X) d ∧ near 0x36 (Real.cos X) d ∧
    (|X| < 64 → near 0x37 (Real.tanh X) d) ∧
    (64 ≤ |X| → near 0x37 (Real.tanh X) ((2 : ℝ) ^ (-99 : Int)) ∧ ∃ k q, specialV 0x37 x = (.fin n k q true, 0) ∧ (k : ℚ) * 2 ^ q < 1)

/-- Rounding, saturation, conversion to integers, minimum and maximum, and the LFSR. In every format of R45 and under every
mode: a value of the format rounds to itself without a flag; a NaN gives the canonical NaN, or +0 and invalid where the
format has none; an infinity that the format lacks gives invalid with the largest value or the NaN; a finite value is rounded
to the grid that R54 gives at its magnitude, to the neighbour that R53 and R55 name; beyond the largest finite value that
raises overflow and inexact and gives the largest value, an infinity or the NaN as R57 says, and else inexact when it differs
from the value, with underflow when the result rounded without a lower exponent limit is below the normal range. Rounding a
fraction to an integer takes the neighbour that R53 names, under SR the farther one when the first 16 bits of the fraction
and r carry; beyond the integer's range it clamps or wraps with invalid. fmin and fmax give an operand bit for bit, the
non-NaN one first, -0 below +0. The LFSR steps as R55 says. (02_numbers.md R45, R46, R53 to R55, R57, R59, R63) -/
def Obligations.RoundingDeliversNeighbours : Prop :=
  (∀ (k m r : Nat) (sat : Bool), k < 8 → let F := ffmt k
    (∀ v, v < 2 ^ F.width → isNan (decodeF F v) = false → roundTo F m sat r (decodeF F v) = (v, 0)) ∧
    (∀ g, roundTo F m sat r (.nan g) = if k < 5 then (nthD [0x7FC00000, 0x7E00, 0x7FC0, 0x7F, 0x7E] k 0, 0) else (0, fNV)) ∧
    (∀ n, k = 3 → roundTo F m sat r (.inf n) = (if sat = true then (if n = true then 0xFE else 0x7E) else 0x7F, fNV)) ∧
    (∀ n, 5 ≤ k → roundTo F m sat r (.inf n) = (F.encMax n, fNV)) ∧
    (∀ n p e, p ≠ 0 → F.topField - F.bias < Nat.log2 p + e → roundTo F m sat r (.fin n p e false) =
      (if sat = true ∨ 5 ≤ k ∨ m = 1 ∨ (m = 2 ∧ n = false) ∨ (m = 3 ∧ n = true) then F.encMax n
       else if k = 3 then 0x7F else F.encInf n, fOF ||| fNX)) ∧
    F.encMax false = nthD [0x7F7FFFFF, 0x7BFF, 0x7F7F, 0x7E, 0x7B, 0x1F, 0x1F, 0x7] k 0) ∧
  (∀ (k m r p : Nat) (sat n st : Bool) (e : Int) (a : ℚ), k < 8 → m < 6 → p ≠ 0 → Spans p e st a → (st = true → 2 ^ 70 ≤ p) →
    let mb : Int := nthD [23, 10, 7, 3, 2, 2, 3, 1] k 0; let emin : Int := nthD [-126, -14, -126, -6, -14, -2, 0, 0] k 0
    let top : ℚ := nthD [(2 ^ 24 - 1) * 2 ^ 104, 65504, (2 ^ 8 - 1) * 2 ^ 120, 448, 57344, 28, 15 / 2, 6] k 0
    let lg : Int := Nat.log2 p + e; let y := onGrid m n a (2 ^ (max lg emin - mb)) r; let u := onGrid m n a (2 ^ (lg - mb)) r
    let z := roundTo (ffmt k) m sat r (.fin n p e st)
    (top < y → z = (if sat = true ∨ 5 ≤ k ∨ m = 1 ∨ (m = 2 ∧ n = false) ∨ (m = 3 ∧ n = true) then (ffmt k).encMax n
      else if k = 3 then 0x7F else (ffmt k).encInf n, fOF ||| fNX)) ∧
    (y ≤ top → (∃ j q, decodeF (ffmt k) z.1 = .fin n j q false ∧ (j : ℚ) * 2 ^ q = y) ∧ z.1 < 2 ^ (ffmt k).width ∧
      z.2 = if y = a then 0 else if u < 2 ^ emin then fUF ||| fNX else fNX)) ∧
  (∀ (w m r p j : Nat) (sg sat n : Bool), 0 < w → m < 6 → 0 < j → let x : Int := if n = true then -(p : Int) else p
    let d : Int := 2 ^ j; let y := cvtInt w sg m sat r (.fin n p (-(j : Int)) false)
    y.2 ≠ fNV →
      (x % d = 0 → y = (x / d, 0)) ∧
      (x % d ≠ 0 → y.2 = fNX ∧ (y.1 = x / d ∨ y.1 = x / d + 1) ∧
        (m = 0 → 2 * (x - y.1 * d) ≤ d ∧ 2 * (y.1 * d - x) ≤ d ∧ (2 * (x % d) = d → y.1 % 2 = 0)) ∧
        (m = 1 → y.1.natAbs * 2 ^ j ≤ p) ∧ (m = 2 → y.1 = x / d) ∧ (m = 3 → y.1 = x / d + 1) ∧
        (m = 4 → 2 * (x - y.1 * d) ≤ d ∧ 2 * (y.1 * d - x) ≤ d ∧ (2 * (x % d) = d → p < y.1.natAbs * 2 ^ j)) ∧
        (m = 5 → y.1.natAbs = p / 2 ^ j + if 65536 ≤ p % 2 ^ j * 65536 / 2 ^ j + r then 1 else 0))) ∧
  (∀ (w m r p : Nat) (sg sat n : Bool), 0 < w → let x : Int := if n = true then -(p : Int) else p
    let lo : Int := if sg = true then -2 ^ (w - 1) else 0; let hi : Int := if sg = true then 2 ^ (w - 1) - 1 else 2 ^ w - 1
    let y := cvtInt w sg m sat r (.fin n p 0 false)
    (∀ g, cvtInt w sg m sat r (.nan g) = (0, fNV)) ∧
    cvtInt w sg m sat r (.inf n) = (if sat = true then (if n = true then lo else hi) else 0, fNV) ∧
    (lo ≤ x → x ≤ hi → y = (x, 0)) ∧
    (x < lo ∨ hi < x → y.2 = fNV ∧ (sat = true → y.1 = max lo (min hi x)) ∧ (sat = false → (y.1 - x) % 2 ^ w = 0))) ∧
  (∀ (k a b : Nat) (hi : Bool), k < 8 → let F := ffmt k; a < 2 ^ F.width → b < 2 ^ F.width →
    let x := decodeF F a; let y := decodeF F b; let z := fminmax F hi a b
    z.2 = (if isSnan x = true ∨ isSnan y = true then fNV else 0) ∧
    (isNan x = true → isNan y = true → z.1 = F.canon) ∧ (isNan x = true → isNan y = false → z.1 = b) ∧
    (isNan x = false → isNan y = true → z.1 = a) ∧
    (isNan x = false → isNan y = false → (z.1 = a ∨ z.1 = b) ∧
      (cmpV x y = -1 → z.1 = if hi = true then b else a) ∧ (cmpV x y = 1 → z.1 = if hi = true then a else b) ∧
      (cmpV x y = 0 → isNeg x = true → isNeg y = false → z.1 = if hi = true then b else a))) ∧
  (∀ s : Half, lfsrStep s = (if s.getLsbD 0 = true then (s >>> 1) ^^^ 0xB400#16 else s >>> 1)) ∧
  (∀ k1 : W32, lfsrSeed k1 = if k1.toNat % 65536 = 0 then 1 else BitVec.ofNat 16 k1.toNat)
end

