-- ==== Sys2Proof/Laws/State.lean ====
section
/-! SUPPORT. What each named update of State, Core and Seq leaves of each field: true by unfolding, for the simplifier. -/

namespace Sys2Proof.Laws

open Sys2Proof.Machine

-- setCore
@[simp] theorem setCore_core (s : State) (n : Nat) (c : Core) : (setCore s n c).core = s.core := rfl
@[simp] theorem setCore_locus (s : State) (n : Nat) (c : Core) : (setCore s n c).locus = s.locus := rfl
@[simp] theorem setCore_agenda (s : State) (n : Nat) (c : Core) : (setCore s n c).agenda = s.agenda := rfl
@[simp] theorem setCore_mem (s : State) (n : Nat) (c : Core) : (setCore s n c).mem = s.mem := rfl
@[simp] theorem setCore_badMem (s : State) (n : Nat) (c : Core) : (setCore s n c).badMem = s.badMem := rfl
@[simp] theorem setCore_hbm (s : State) (n : Nat) (c : Core) : (setCore s n c).hbm = s.hbm := rfl
@[simp] theorem setCore_badHbm (s : State) (n : Nat) (c : Core) : (setCore s n c).badHbm = s.badHbm := rfl
@[simp] theorem setCore_homeMap (s : State) (n : Nat) (c : Core) : (setCore s n c).homeMap = s.homeMap := rfl
@[simp] theorem setCore_pins (s : State) (n : Nat) (c : Core) : (setCore s n c).pins = s.pins := rfl
@[simp] theorem setCore_slices (s : State) (n : Nat) (c : Core) : (setCore s n c).slices = s.slices := rfl
@[simp] theorem setCore_wakes (s : State) (n : Nat) (c : Core) : (setCore s n c).wakes = s.wakes := rfl
@[simp] theorem setCore_ctxs (s : State) (n : Nat) (c : Core) : (setCore s n c).ctxs = s.ctxs := rfl
@[simp] theorem setCore_queues (s : State) (n : Nat) (c : Core) : (setCore s n c).queues = s.queues := rfl
@[simp] theorem setCore_launches (s : State) (n : Nat) (c : Core) : (setCore s n c).launches = s.launches := rfl
@[simp] theorem setCore_lu (s : State) (n : Nat) (c : Core) : (setCore s n c).lu = s.lu := rfl
@[simp] theorem setCore_mod (s : State) (n : Nat) (c : Core) : (setCore s n c).mod = s.mod := rfl
@[simp] theorem setCore_trust (s : State) (n : Nat) (c : Core) : (setCore s n c).trust = s.trust := rfl
@[simp] theorem setCore_remote (s : State) (n : Nat) (c : Core) : (setCore s n c).remote = s.remote := rfl
@[simp] theorem setCore_hostData (s : State) (n : Nat) (c : Core) : (setCore s n c).hostData = s.hostData := rfl
@[simp] theorem setCore_peerOut (s : State) (n : Nat) (c : Core) : (setCore s n c).peerOut = s.peerOut := rfl
@[simp] theorem setCore_mctpOut (s : State) (n : Nat) (c : Core) : (setCore s n c).mctpOut = s.mctpOut := rfl
@[simp] theorem setCore_nextId (s : State) (n : Nat) (c : Core) : (setCore s n c).nextId = s.nextId := rfl

-- setCur
@[simp] theorem setCur_core (s : State) (c : Core) : (setCur s c).core = s.core := rfl
@[simp] theorem setCur_locus (s : State) (c : Core) : (setCur s c).locus = s.locus := rfl
@[simp] theorem setCur_agenda (s : State) (c : Core) : (setCur s c).agenda = s.agenda := rfl
@[simp] theorem setCur_mem (s : State) (c : Core) : (setCur s c).mem = s.mem := rfl
@[simp] theorem setCur_badMem (s : State) (c : Core) : (setCur s c).badMem = s.badMem := rfl
@[simp] theorem setCur_hbm (s : State) (c : Core) : (setCur s c).hbm = s.hbm := rfl
@[simp] theorem setCur_badHbm (s : State) (c : Core) : (setCur s c).badHbm = s.badHbm := rfl
@[simp] theorem setCur_homeMap (s : State) (c : Core) : (setCur s c).homeMap = s.homeMap := rfl
@[simp] theorem setCur_pins (s : State) (c : Core) : (setCur s c).pins = s.pins := rfl
@[simp] theorem setCur_slices (s : State) (c : Core) : (setCur s c).slices = s.slices := rfl
@[simp] theorem setCur_wakes (s : State) (c : Core) : (setCur s c).wakes = s.wakes := rfl
@[simp] theorem setCur_ctxs (s : State) (c : Core) : (setCur s c).ctxs = s.ctxs := rfl
@[simp] theorem setCur_queues (s : State) (c : Core) : (setCur s c).queues = s.queues := rfl
@[simp] theorem setCur_launches (s : State) (c : Core) : (setCur s c).launches = s.launches := rfl
@[simp] theorem setCur_lu (s : State) (c : Core) : (setCur s c).lu = s.lu := rfl
@[simp] theorem setCur_mod (s : State) (c : Core) : (setCur s c).mod = s.mod := rfl
@[simp] theorem setCur_trust (s : State) (c : Core) : (setCur s c).trust = s.trust := rfl
@[simp] theorem setCur_remote (s : State) (c : Core) : (setCur s c).remote = s.remote := rfl
@[simp] theorem setCur_hostData (s : State) (c : Core) : (setCur s c).hostData = s.hostData := rfl
@[simp] theorem setCur_peerOut (s : State) (c : Core) : (setCur s c).peerOut = s.peerOut := rfl
@[simp] theorem setCur_mctpOut (s : State) (c : Core) : (setCur s c).mctpOut = s.mctpOut := rfl
@[simp] theorem setCur_nextId (s : State) (c : Core) : (setCur s c).nextId = s.nextId := rfl

-- updCore
@[simp] theorem updCore_core (s : State) (n : Nat) (f : Core → Core) : (updCore s n f).core = s.core := rfl
@[simp] theorem updCore_locus (s : State) (n : Nat) (f : Core → Core) : (updCore s n f).locus = s.locus := rfl
@[simp] theorem updCore_agenda (s : State) (n : Nat) (f : Core → Core) : (updCore s n f).agenda = s.agenda := rfl
@[simp] theorem updCore_mem (s : State) (n : Nat) (f : Core → Core) : (updCore s n f).mem = s.mem := rfl
@[simp] theorem updCore_badMem (s : State) (n : Nat) (f : Core → Core) : (updCore s n f).badMem = s.badMem := rfl
@[simp] theorem updCore_hbm (s : State) (n : Nat) (f : Core → Core) : (updCore s n f).hbm = s.hbm := rfl
@[simp] theorem updCore_badHbm (s : State) (n : Nat) (f : Core → Core) : (updCore s n f).badHbm = s.badHbm := rfl
@[simp] theorem updCore_homeMap (s : State) (n : Nat) (f : Core → Core) : (updCore s n f).homeMap = s.homeMap := rfl
@[simp] theorem updCore_pins (s : State) (n : Nat) (f : Core → Core) : (updCore s n f).pins = s.pins := rfl
@[simp] theorem updCore_slices (s : State) (n : Nat) (f : Core → Core) : (updCore s n f).slices = s.slices := rfl
@[simp] theorem updCore_wakes (s : State) (n : Nat) (f : Core → Core) : (updCore s n f).wakes = s.wakes := rfl
@[simp] theorem updCore_ctxs (s : State) (n : Nat) (f : Core → Core) : (updCore s n f).ctxs = s.ctxs := rfl
@[simp] theorem updCore_queues (s : State) (n : Nat) (f : Core → Core) : (updCore s n f).queues = s.queues := rfl
@[simp] theorem updCore_launches (s : State) (n : Nat) (f : Core → Core) : (updCore s n f).launches = s.launches := rfl
@[simp] theorem updCore_lu (s : State) (n : Nat) (f : Core → Core) : (updCore s n f).lu = s.lu := rfl
@[simp] theorem updCore_mod (s : State) (n : Nat) (f : Core → Core) : (updCore s n f).mod = s.mod := rfl
@[simp] theorem updCore_trust (s : State) (n : Nat) (f : Core → Core) : (updCore s n f).trust = s.trust := rfl
@[simp] theorem updCore_remote (s : State) (n : Nat) (f : Core → Core) : (updCore s n f).remote = s.remote := rfl
@[simp] theorem updCore_hostData (s : State) (n : Nat) (f : Core → Core) : (updCore s n f).hostData = s.hostData := rfl
@[simp] theorem updCore_peerOut (s : State) (n : Nat) (f : Core → Core) : (updCore s n f).peerOut = s.peerOut := rfl
@[simp] theorem updCore_mctpOut (s : State) (n : Nat) (f : Core → Core) : (updCore s n f).mctpOut = s.mctpOut := rfl
@[simp] theorem updCore_nextId (s : State) (n : Nat) (f : Core → Core) : (updCore s n f).nextId = s.nextId := rfl

-- updCur
@[simp] theorem updCur_core (s : State) (f : Core → Core) : (updCur s f).core = s.core := rfl
@[simp] theorem updCur_locus (s : State) (f : Core → Core) : (updCur s f).locus = s.locus := rfl
@[simp] theorem updCur_agenda (s : State) (f : Core → Core) : (updCur s f).agenda = s.agenda := rfl
@[simp] theorem updCur_mem (s : State) (f : Core → Core) : (updCur s f).mem = s.mem := rfl
@[simp] theorem updCur_badMem (s : State) (f : Core → Core) : (updCur s f).badMem = s.badMem := rfl
@[simp] theorem updCur_hbm (s : State) (f : Core → Core) : (updCur s f).hbm = s.hbm := rfl
@[simp] theorem updCur_badHbm (s : State) (f : Core → Core) : (updCur s f).badHbm = s.badHbm := rfl
@[simp] theorem updCur_homeMap (s : State) (f : Core → Core) : (updCur s f).homeMap = s.homeMap := rfl
@[simp] theorem updCur_pins (s : State) (f : Core → Core) : (updCur s f).pins = s.pins := rfl
@[simp] theorem updCur_slices (s : State) (f : Core → Core) : (updCur s f).slices = s.slices := rfl
@[simp] theorem updCur_wakes (s : State) (f : Core → Core) : (updCur s f).wakes = s.wakes := rfl
@[simp] theorem updCur_ctxs (s : State) (f : Core → Core) : (updCur s f).ctxs = s.ctxs := rfl
@[simp] theorem updCur_queues (s : State) (f : Core → Core) : (updCur s f).queues = s.queues := rfl
@[simp] theorem updCur_launches (s : State) (f : Core → Core) : (updCur s f).launches = s.launches := rfl
@[simp] theorem updCur_lu (s : State) (f : Core → Core) : (updCur s f).lu = s.lu := rfl
@[simp] theorem updCur_mod (s : State) (f : Core → Core) : (updCur s f).mod = s.mod := rfl
@[simp] theorem updCur_trust (s : State) (f : Core → Core) : (updCur s f).trust = s.trust := rfl
@[simp] theorem updCur_remote (s : State) (f : Core → Core) : (updCur s f).remote = s.remote := rfl
@[simp] theorem updCur_hostData (s : State) (f : Core → Core) : (updCur s f).hostData = s.hostData := rfl
@[simp] theorem updCur_peerOut (s : State) (f : Core → Core) : (updCur s f).peerOut = s.peerOut := rfl
@[simp] theorem updCur_mctpOut (s : State) (f : Core → Core) : (updCur s f).mctpOut = s.mctpOut := rfl
@[simp] theorem updCur_nextId (s : State) (f : Core → Core) : (updCur s f).nextId = s.nextId := rfl

-- setCtx
@[simp] theorem setCtx_core (s : State) (n : Nat) (c : Ctx) : (setCtx s n c).core = s.core := rfl
@[simp] theorem setCtx_locus (s : State) (n : Nat) (c : Ctx) : (setCtx s n c).locus = s.locus := rfl
@[simp] theorem setCtx_agenda (s : State) (n : Nat) (c : Ctx) : (setCtx s n c).agenda = s.agenda := rfl
@[simp] theorem setCtx_cores (s : State) (n : Nat) (c : Ctx) : (setCtx s n c).cores = s.cores := rfl
@[simp] theorem setCtx_mem (s : State) (n : Nat) (c : Ctx) : (setCtx s n c).mem = s.mem := rfl
@[simp] theorem setCtx_badMem (s : State) (n : Nat) (c : Ctx) : (setCtx s n c).badMem = s.badMem := rfl
@[simp] theorem setCtx_hbm (s : State) (n : Nat) (c : Ctx) : (setCtx s n c).hbm = s.hbm := rfl
@[simp] theorem setCtx_badHbm (s : State) (n : Nat) (c : Ctx) : (setCtx s n c).badHbm = s.badHbm := rfl
@[simp] theorem setCtx_homeMap (s : State) (n : Nat) (c : Ctx) : (setCtx s n c).homeMap = s.homeMap := rfl
@[simp] theorem setCtx_pins (s : State) (n : Nat) (c : Ctx) : (setCtx s n c).pins = s.pins := rfl
@[simp] theorem setCtx_slices (s : State) (n : Nat) (c : Ctx) : (setCtx s n c).slices = s.slices := rfl
@[simp] theorem setCtx_wakes (s : State) (n : Nat) (c : Ctx) : (setCtx s n c).wakes = s.wakes := rfl
@[simp] theorem setCtx_queues (s : State) (n : Nat) (c : Ctx) : (setCtx s n c).queues = s.queues := rfl
@[simp] theorem setCtx_launches (s : State) (n : Nat) (c : Ctx) : (setCtx s n c).launches = s.launches := rfl
@[simp] theorem setCtx_lu (s : State) (n : Nat) (c : Ctx) : (setCtx s n c).lu = s.lu := rfl
@[simp] theorem setCtx_mod (s : State) (n : Nat) (c : Ctx) : (setCtx s n c).mod = s.mod := rfl
@[simp] theorem setCtx_trust (s : State) (n : Nat) (c : Ctx) : (setCtx s n c).trust = s.trust := rfl
@[simp] theorem setCtx_remote (s : State) (n : Nat) (c : Ctx) : (setCtx s n c).remote = s.remote := rfl
@[simp] theorem setCtx_hostData (s : State) (n : Nat) (c : Ctx) : (setCtx s n c).hostData = s.hostData := rfl
@[simp] theorem setCtx_peerOut (s : State) (n : Nat) (c : Ctx) : (setCtx s n c).peerOut = s.peerOut := rfl
@[simp] theorem setCtx_mctpOut (s : State) (n : Nat) (c : Ctx) : (setCtx s n c).mctpOut = s.mctpOut := rfl
@[simp] theorem setCtx_nextId (s : State) (n : Nat) (c : Ctx) : (setCtx s n c).nextId = s.nextId := rfl

-- setSlice
@[simp] theorem setSlice_core (s : State) (n : Nat) (c : Slice) : (setSlice s n c).core = s.core := rfl
@[simp] theorem setSlice_locus (s : State) (n : Nat) (c : Slice) : (setSlice s n c).locus = s.locus := rfl
@[simp] theorem setSlice_agenda (s : State) (n : Nat) (c : Slice) : (setSlice s n c).agenda = s.agenda := rfl
@[simp] theorem setSlice_cores (s : State) (n : Nat) (c : Slice) : (setSlice s n c).cores = s.cores := rfl
@[simp] theorem setSlice_mem (s : State) (n : Nat) (c : Slice) : (setSlice s n c).mem = s.mem := rfl
@[simp] theorem setSlice_badMem (s : State) (n : Nat) (c : Slice) : (setSlice s n c).badMem = s.badMem := rfl
@[simp] theorem setSlice_hbm (s : State) (n : Nat) (c : Slice) : (setSlice s n c).hbm = s.hbm := rfl
@[simp] theorem setSlice_badHbm (s : State) (n : Nat) (c : Slice) : (setSlice s n c).badHbm = s.badHbm := rfl
@[simp] theorem setSlice_homeMap (s : State) (n : Nat) (c : Slice) : (setSlice s n c).homeMap = s.homeMap := rfl
@[simp] theorem setSlice_pins (s : State) (n : Nat) (c : Slice) : (setSlice s n c).pins = s.pins := rfl
@[simp] theorem setSlice_wakes (s : State) (n : Nat) (c : Slice) : (setSlice s n c).wakes = s.wakes := rfl
@[simp] theorem setSlice_ctxs (s : State) (n : Nat) (c : Slice) : (setSlice s n c).ctxs = s.ctxs := rfl
@[simp] theorem setSlice_queues (s : State) (n : Nat) (c : Slice) : (setSlice s n c).queues = s.queues := rfl
@[simp] theorem setSlice_launches (s : State) (n : Nat) (c : Slice) : (setSlice s n c).launches = s.launches := rfl
@[simp] theorem setSlice_lu (s : State) (n : Nat) (c : Slice) : (setSlice s n c).lu = s.lu := rfl
@[simp] theorem setSlice_mod (s : State) (n : Nat) (c : Slice) : (setSlice s n c).mod = s.mod := rfl
@[simp] theorem setSlice_trust (s : State) (n : Nat) (c : Slice) : (setSlice s n c).trust = s.trust := rfl
@[simp] theorem setSlice_remote (s : State) (n : Nat) (c : Slice) : (setSlice s n c).remote = s.remote := rfl
@[simp] theorem setSlice_hostData (s : State) (n : Nat) (c : Slice) : (setSlice s n c).hostData = s.hostData := rfl
@[simp] theorem setSlice_peerOut (s : State) (n : Nat) (c : Slice) : (setSlice s n c).peerOut = s.peerOut := rfl
@[simp] theorem setSlice_mctpOut (s : State) (n : Nat) (c : Slice) : (setSlice s n c).mctpOut = s.mctpOut := rfl
@[simp] theorem setSlice_nextId (s : State) (n : Nat) (c : Slice) : (setSlice s n c).nextId = s.nextId := rfl

-- setQueue
@[simp] theorem setQueue_core (s : State) (n : Nat) (q : Queue) : (setQueue s n q).core = s.core := rfl
@[simp] theorem setQueue_locus (s : State) (n : Nat) (q : Queue) : (setQueue s n q).locus = s.locus := rfl
@[simp] theorem setQueue_agenda (s : State) (n : Nat) (q : Queue) : (setQueue s n q).agenda = s.agenda := rfl
@[simp] theorem setQueue_cores (s : State) (n : Nat) (q : Queue) : (setQueue s n q).cores = s.cores := rfl
@[simp] theorem setQueue_mem (s : State) (n : Nat) (q : Queue) : (setQueue s n q).mem = s.mem := rfl
@[simp] theorem setQueue_badMem (s : State) (n : Nat) (q : Queue) : (setQueue s n q).badMem = s.badMem := rfl
@[simp] theorem setQueue_hbm (s : State) (n : Nat) (q : Queue) : (setQueue s n q).hbm = s.hbm := rfl
@[simp] theorem setQueue_badHbm (s : State) (n : Nat) (q : Queue) : (setQueue s n q).badHbm = s.badHbm := rfl
@[simp] theorem setQueue_homeMap (s : State) (n : Nat) (q : Queue) : (setQueue s n q).homeMap = s.homeMap := rfl
@[simp] theorem setQueue_pins (s : State) (n : Nat) (q : Queue) : (setQueue s n q).pins = s.pins := rfl
@[simp] theorem setQueue_slices (s : State) (n : Nat) (q : Queue) : (setQueue s n q).slices = s.slices := rfl
@[simp] theorem setQueue_wakes (s : State) (n : Nat) (q : Queue) : (setQueue s n q).wakes = s.wakes := rfl
@[simp] theorem setQueue_ctxs (s : State) (n : Nat) (q : Queue) : (setQueue s n q).ctxs = s.ctxs := rfl
@[simp] theorem setQueue_launches (s : State) (n : Nat) (q : Queue) : (setQueue s n q).launches = s.launches := rfl
@[simp] theorem setQueue_lu (s : State) (n : Nat) (q : Queue) : (setQueue s n q).lu = s.lu := rfl
@[simp] theorem setQueue_mod (s : State) (n : Nat) (q : Queue) : (setQueue s n q).mod = s.mod := rfl
@[simp] theorem setQueue_trust (s : State) (n : Nat) (q : Queue) : (setQueue s n q).trust = s.trust := rfl
@[simp] theorem setQueue_remote (s : State) (n : Nat) (q : Queue) : (setQueue s n q).remote = s.remote := rfl
@[simp] theorem setQueue_hostData (s : State) (n : Nat) (q : Queue) : (setQueue s n q).hostData = s.hostData := rfl
@[simp] theorem setQueue_peerOut (s : State) (n : Nat) (q : Queue) : (setQueue s n q).peerOut = s.peerOut := rfl
@[simp] theorem setQueue_mctpOut (s : State) (n : Nat) (q : Queue) : (setQueue s n q).mctpOut = s.mctpOut := rfl
@[simp] theorem setQueue_nextId (s : State) (n : Nat) (q : Queue) : (setQueue s n q).nextId = s.nextId := rfl

-- setLocus, popTurn
@[simp] theorem setLocus_agenda (s : State) (n x y k : Nat) : (setLocus s n x y k).agenda = s.agenda := rfl
@[simp] theorem setLocus_cores (s : State) (n x y k : Nat) : (setLocus s n x y k).cores = s.cores := rfl
@[simp] theorem setLocus_mem (s : State) (n x y k : Nat) : (setLocus s n x y k).mem = s.mem := rfl
@[simp] theorem setLocus_badMem (s : State) (n x y k : Nat) : (setLocus s n x y k).badMem = s.badMem := rfl
@[simp] theorem setLocus_hbm (s : State) (n x y k : Nat) : (setLocus s n x y k).hbm = s.hbm := rfl
@[simp] theorem setLocus_badHbm (s : State) (n x y k : Nat) : (setLocus s n x y k).badHbm = s.badHbm := rfl
@[simp] theorem setLocus_homeMap (s : State) (n x y k : Nat) : (setLocus s n x y k).homeMap = s.homeMap := rfl
@[simp] theorem setLocus_pins (s : State) (n x y k : Nat) : (setLocus s n x y k).pins = s.pins := rfl
@[simp] theorem setLocus_slices (s : State) (n x y k : Nat) : (setLocus s n x y k).slices = s.slices := rfl
@[simp] theorem setLocus_wakes (s : State) (n x y k : Nat) : (setLocus s n x y k).wakes = s.wakes := rfl
@[simp] theorem setLocus_ctxs (s : State) (n x y k : Nat) : (setLocus s n x y k).ctxs = s.ctxs := rfl
@[simp] theorem setLocus_queues (s : State) (n x y k : Nat) : (setLocus s n x y k).queues = s.queues := rfl
@[simp] theorem setLocus_launches (s : State) (n x y k : Nat) : (setLocus s n x y k).launches = s.launches := rfl
@[simp] theorem setLocus_lu (s : State) (n x y k : Nat) : (setLocus s n x y k).lu = s.lu := rfl
@[simp] theorem setLocus_mod (s : State) (n x y k : Nat) : (setLocus s n x y k).mod = s.mod := rfl
@[simp] theorem setLocus_trust (s : State) (n x y k : Nat) : (setLocus s n x y k).trust = s.trust := rfl
@[simp] theorem setLocus_remote (s : State) (n x y k : Nat) : (setLocus s n x y k).remote = s.remote := rfl
@[simp] theorem setLocus_hostData (s : State) (n x y k : Nat) : (setLocus s n x y k).hostData = s.hostData := rfl
@[simp] theorem setLocus_peerOut (s : State) (n x y k : Nat) : (setLocus s n x y k).peerOut = s.peerOut := rfl
@[simp] theorem setLocus_mctpOut (s : State) (n x y k : Nat) : (setLocus s n x y k).mctpOut = s.mctpOut := rfl
@[simp] theorem setLocus_nextId (s : State) (n x y k : Nat) : (setLocus s n x y k).nextId = s.nextId := rfl
@[simp] theorem setLocus_core (s : State) (n x y k : Nat) : (setLocus s n x y k).core = n := rfl
@[simp] theorem setLocus_locus (s : State) (n x y k : Nat) : (setLocus s n x y k).locus = ⟨x, y, k⟩ := rfl
@[simp] theorem popTurn_core (s : State) : (popTurn s).core = s.core := rfl
@[simp] theorem popTurn_locus (s : State) : (popTurn s).locus = s.locus := rfl
@[simp] theorem popTurn_cores (s : State) : (popTurn s).cores = s.cores := rfl
@[simp] theorem popTurn_mem (s : State) : (popTurn s).mem = s.mem := rfl
@[simp] theorem popTurn_badMem (s : State) : (popTurn s).badMem = s.badMem := rfl
@[simp] theorem popTurn_hbm (s : State) : (popTurn s).hbm = s.hbm := rfl
@[simp] theorem popTurn_badHbm (s : State) : (popTurn s).badHbm = s.badHbm := rfl
@[simp] theorem popTurn_homeMap (s : State) : (popTurn s).homeMap = s.homeMap := rfl
@[simp] theorem popTurn_pins (s : State) : (popTurn s).pins = s.pins := rfl
@[simp] theorem popTurn_slices (s : State) : (popTurn s).slices = s.slices := rfl
@[simp] theorem popTurn_wakes (s : State) : (popTurn s).wakes = s.wakes := rfl
@[simp] theorem popTurn_ctxs (s : State) : (popTurn s).ctxs = s.ctxs := rfl
@[simp] theorem popTurn_queues (s : State) : (popTurn s).queues = s.queues := rfl
@[simp] theorem popTurn_launches (s : State) : (popTurn s).launches = s.launches := rfl
@[simp] theorem popTurn_lu (s : State) : (popTurn s).lu = s.lu := rfl
@[simp] theorem popTurn_mod (s : State) : (popTurn s).mod = s.mod := rfl
@[simp] theorem popTurn_trust (s : State) : (popTurn s).trust = s.trust := rfl
@[simp] theorem popTurn_remote (s : State) : (popTurn s).remote = s.remote := rfl
@[simp] theorem popTurn_hostData (s : State) : (popTurn s).hostData = s.hostData := rfl
@[simp] theorem popTurn_peerOut (s : State) : (popTurn s).peerOut = s.peerOut := rfl
@[simp] theorem popTurn_mctpOut (s : State) : (popTurn s).mctpOut = s.mctpOut := rfl
@[simp] theorem popTurn_nextId (s : State) : (popTurn s).nextId = s.nextId := rfl
@[simp] theorem popTurn_agenda (s : State) : (popTurn s).agenda = s.agenda.drop 1 := rfl

-- raiseIn, clearIn, setPennant, setTag
@[simp] theorem raiseIn_seq (c : Core) (i : Nat) (g : Flags) : (raiseIn c i g).seq = c.seq := rfl
@[simp] theorem clearIn_seq (c : Core) (i : Nat) (g : Flags) : (clearIn c i g).seq = c.seq := rfl
@[simp] theorem raiseIn_coh (c : Core) (i : Nat) (g : Flags) : (raiseIn c i g).coh = c.coh := rfl
@[simp] theorem raiseIn_unstored (c : Core) (i : Nat) (g : Flags) : (raiseIn c i g).unstored = c.unstored := rfl
@[simp] theorem raiseIn_early (c : Core) (i : Nat) (g : Flags) : (raiseIn c i g).early = c.early := rfl
@[simp] theorem clearIn_coh (c : Core) (i : Nat) (g : Flags) : (clearIn c i g).coh = c.coh := rfl
@[simp] theorem clearIn_unstored (c : Core) (i : Nat) (g : Flags) : (clearIn c i g).unstored = c.unstored := rfl
@[simp] theorem clearIn_early (c : Core) (i : Nat) (g : Flags) : (clearIn c i g).early = c.early := rfl
@[simp] theorem raiseIn_prev (c : Core) (i : Nat) (g : Flags) : (raiseIn c i g).prev = c.prev := rfl
@[simp] theorem clearIn_prev (c : Core) (i : Nat) (g : Flags) : (clearIn c i g).prev = c.prev := rfl
@[simp] theorem raiseIn_entries (c : Core) (i : Nat) (g : Flags) : (raiseIn c i g).entries = c.entries := rfl
@[simp] theorem clearIn_entries (c : Core) (i : Nat) (g : Flags) : (clearIn c i g).entries = c.entries := rfl
@[simp] theorem raiseIn_regions (c : Core) (i : Nat) (g : Flags) : (raiseIn c i g).regions = c.regions := rfl
@[simp] theorem clearIn_regions (c : Core) (i : Nat) (g : Flags) : (clearIn c i g).regions = c.regions := rfl
@[simp] theorem raiseIn_sites (c : Core) (i : Nat) (g : Flags) : (raiseIn c i g).sites = c.sites := rfl
@[simp] theorem clearIn_sites (c : Core) (i : Nat) (g : Flags) : (clearIn c i g).sites = c.sites := rfl
@[simp] theorem raiseIn_nodes (c : Core) (i : Nat) (g : Flags) : (raiseIn c i g).nodes = c.nodes := rfl
@[simp] theorem clearIn_nodes (c : Core) (i : Nat) (g : Flags) : (clearIn c i g).nodes = c.nodes := rfl
@[simp] theorem raiseIn_tlb2 (c : Core) (i : Nat) (g : Flags) : (raiseIn c i g).tlb2 = c.tlb2 := rfl
@[simp] theorem clearIn_tlb2 (c : Core) (i : Nat) (g : Flags) : (clearIn c i g).tlb2 = c.tlb2 := rfl
@[simp] theorem raiseIn_walk (c : Core) (i : Nat) (g : Flags) : (raiseIn c i g).walk = c.walk := rfl
@[simp] theorem clearIn_walk (c : Core) (i : Nat) (g : Flags) : (clearIn c i g).walk = c.walk := rfl
@[simp] theorem raiseIn_parked (c : Core) (i : Nat) (g : Flags) : (raiseIn c i g).parked = c.parked := rfl
@[simp] theorem clearIn_parked (c : Core) (i : Nat) (g : Flags) : (clearIn c i g).parked = c.parked := rfl
@[simp] theorem raiseIn_cmds (c : Core) (i : Nat) (g : Flags) : (raiseIn c i g).cmds = c.cmds := rfl
@[simp] theorem clearIn_cmds (c : Core) (i : Nat) (g : Flags) : (clearIn c i g).cmds = c.cmds := rfl
@[simp] theorem raiseIn_flights (c : Core) (i : Nat) (g : Flags) : (raiseIn c i g).flights = c.flights := rfl
@[simp] theorem clearIn_flights (c : Core) (i : Nat) (g : Flags) : (clearIn c i g).flights = c.flights := rfl
@[simp] theorem raiseIn_hold (c : Core) (i : Nat) (g : Flags) : (raiseIn c i g).hold = c.hold := rfl
@[simp] theorem clearIn_hold (c : Core) (i : Nat) (g : Flags) : (clearIn c i g).hold = c.hold := rfl
@[simp] theorem raiseIn_fences (c : Core) (i : Nat) (g : Flags) : (raiseIn c i g).fences = c.fences := rfl
@[simp] theorem clearIn_fences (c : Core) (i : Nat) (g : Flags) : (clearIn c i g).fences = c.fences := rfl
@[simp] theorem raiseIn_cbs (c : Core) (i : Nat) (g : Flags) : (raiseIn c i g).cbs = c.cbs := rfl
@[simp] theorem clearIn_cbs (c : Core) (i : Nat) (g : Flags) : (clearIn c i g).cbs = c.cbs := rfl
@[simp] theorem raiseIn_lv (c : Core) (i : Nat) (g : Flags) : (raiseIn c i g).lv = c.lv := rfl
@[simp] theorem clearIn_lv (c : Core) (i : Nat) (g : Flags) : (clearIn c i g).lv = c.lv := rfl
@[simp] theorem raiseIn_pfile (c : Core) (i : Nat) (g : Flags) : (raiseIn c i g).pfile = c.pfile := rfl
@[simp] theorem clearIn_pfile (c : Core) (i : Nat) (g : Flags) : (clearIn c i g).pfile = c.pfile := rfl
@[simp] theorem raiseIn_scratch (c : Core) (i : Nat) (g : Flags) : (raiseIn c i g).scratch = c.scratch := rfl
@[simp] theorem clearIn_scratch (c : Core) (i : Nat) (g : Flags) : (clearIn c i g).scratch = c.scratch := rfl
@[simp] theorem raiseIn_badScratch (c : Core) (i : Nat) (g : Flags) : (raiseIn c i g).badScratch = c.badScratch := rfl
@[simp] theorem clearIn_badScratch (c : Core) (i : Nat) (g : Flags) : (clearIn c i g).badScratch = c.badScratch := rfl
@[simp] theorem raiseIn_badTile (c : Core) (i : Nat) (g : Flags) : (raiseIn c i g).badTile = c.badTile := rfl
@[simp] theorem clearIn_badTile (c : Core) (i : Nat) (g : Flags) : (clearIn c i g).badTile = c.badTile := rfl
@[simp] theorem raiseIn_badWeight (c : Core) (i : Nat) (g : Flags) : (raiseIn c i g).badWeight = c.badWeight := rfl
@[simp] theorem clearIn_badWeight (c : Core) (i : Nat) (g : Flags) : (clearIn c i g).badWeight = c.badWeight := rfl
@[simp] theorem raiseIn_badBank (c : Core) (i : Nat) (g : Flags) : (raiseIn c i g).badBank = c.badBank := rfl
@[simp] theorem clearIn_badBank (c : Core) (i : Nat) (g : Flags) : (clearIn c i g).badBank = c.badBank := rfl
@[simp] theorem raiseIn_badLink (c : Core) (i : Nat) (g : Flags) : (raiseIn c i g).badLink = c.badLink := rfl
@[simp] theorem clearIn_badLink (c : Core) (i : Nat) (g : Flags) : (clearIn c i g).badLink = c.badLink := rfl
@[simp] theorem raiseIn_badScan (c : Core) (i : Nat) (g : Flags) : (raiseIn c i g).badScan = c.badScan := rfl
@[simp] theorem clearIn_badScan (c : Core) (i : Nat) (g : Flags) : (clearIn c i g).badScan = c.badScan := rfl
@[simp] theorem raiseIn_gens (c : Core) (i : Nat) (g : Flags) : (raiseIn c i g).gens = c.gens := rfl
@[simp] theorem clearIn_gens (c : Core) (i : Nat) (g : Flags) : (clearIn c i g).gens = c.gens := rfl
@[simp] theorem raiseIn_ports (c : Core) (i : Nat) (g : Flags) : (raiseIn c i g).ports = c.ports := rfl
@[simp] theorem clearIn_ports (c : Core) (i : Nat) (g : Flags) : (clearIn c i g).ports = c.ports := rfl
@[simp] theorem raiseIn_caps (c : Core) (i : Nat) (g : Flags) : (raiseIn c i g).caps = c.caps := rfl
@[simp] theorem clearIn_caps (c : Core) (i : Nat) (g : Flags) : (clearIn c i g).caps = c.caps := rfl
@[simp] theorem raiseIn_mx (c : Core) (i : Nat) (g : Flags) : (raiseIn c i g).mx = c.mx := rfl
@[simp] theorem clearIn_mx (c : Core) (i : Nat) (g : Flags) : (clearIn c i g).mx = c.mx := rfl
@[simp] theorem raiseIn_bs (c : Core) (i : Nat) (g : Flags) : (raiseIn c i g).bs = c.bs := rfl
@[simp] theorem clearIn_bs (c : Core) (i : Nat) (g : Flags) : (clearIn c i g).bs = c.bs := rfl
@[simp] theorem raiseIn_relay (c : Core) (i : Nat) (g : Flags) : (raiseIn c i g).relay = c.relay := rfl
@[simp] theorem clearIn_relay (c : Core) (i : Nat) (g : Flags) : (clearIn c i g).relay = c.relay := rfl
@[simp] theorem raiseIn_saving (c : Core) (i : Nat) (g : Flags) : (raiseIn c i g).saving = c.saving := rfl
@[simp] theorem clearIn_saving (c : Core) (i : Nat) (g : Flags) : (clearIn c i g).saving = c.saving := rfl
@[simp] theorem raiseIn_seqSaved (c : Core) (i : Nat) (g : Flags) : (raiseIn c i g).seqSaved = c.seqSaved := rfl
@[simp] theorem clearIn_seqSaved (c : Core) (i : Nat) (g : Flags) : (clearIn c i g).seqSaved = c.seqSaved := rfl
@[simp] theorem raiseIn_wakes (c : Core) (i : Nat) (g : Flags) : (raiseIn c i g).wakes = c.wakes := rfl
@[simp] theorem clearIn_wakes (c : Core) (i : Nat) (g : Flags) : (clearIn c i g).wakes = c.wakes := rfl
@[simp] theorem raiseIn_quiet (c : Core) (i : Nat) (g : Flags) : (raiseIn c i g).quiet = c.quiet := rfl
@[simp] theorem raiseIn_invs (c : Core) (i : Nat) (g : Flags) : (raiseIn c i g).invs = c.invs := rfl
@[simp] theorem raiseIn_block (c : Core) (i : Nat) (g : Flags) : (raiseIn c i g).block = c.block := rfl
@[simp] theorem raiseIn_left (c : Core) (i : Nat) (g : Flags) : (raiseIn c i g).left = c.left := rfl
@[simp] theorem clearIn_quiet (c : Core) (i : Nat) (g : Flags) : (clearIn c i g).quiet = c.quiet := rfl
@[simp] theorem clearIn_invs (c : Core) (i : Nat) (g : Flags) : (clearIn c i g).invs = c.invs := rfl
@[simp] theorem clearIn_block (c : Core) (i : Nat) (g : Flags) : (clearIn c i g).block = c.block := rfl
@[simp] theorem clearIn_left (c : Core) (i : Nat) (g : Flags) : (clearIn c i g).left = c.left := rfl
@[simp] theorem setPennant_pc (q : Seq) (p v : Nat) : (setPennant q p v).pc = q.pc := rfl
@[simp] theorem setPennant_regs (q : Seq) (p v : Nat) : (setPennant q p v).regs = q.regs := rfl
@[simp] theorem setPennant_st (q : Seq) (p v : Nat) : (setPennant q p v).st = q.st := rfl
@[simp] theorem setPennant_held (q : Seq) (p v : Nat) : (setPennant q p v).held = q.held := rfl
@[simp] theorem setPennant_th (q : Seq) (p v : Nat) : (setPennant q p v).th = q.th := rfl
@[simp] theorem setPennant_pf (q : Seq) (p v : Nat) : (setPennant q p v).pf = q.pf := rfl
@[simp] theorem setPennant_cause (q : Seq) (p v : Nat) : (setPennant q p v).cause = q.cause := rfl
@[simp] theorem setPennant_epc (q : Seq) (p v : Nat) : (setPennant q p v).epc = q.epc := rfl
@[simp] theorem setPennant_tvec (q : Seq) (p v : Nat) : (setPennant q p v).tvec = q.tvec := rfl
@[simp] theorem setPennant_cycle (q : Seq) (p v : Nat) : (setPennant q p v).cycle = q.cycle := rfl
@[simp] theorem setPennant_ctxReg (q : Seq) (p v : Nat) : (setPennant q p v).ctxReg = q.ctxReg := rfl
@[simp] theorem setPennant_cohReg (q : Seq) (p v : Nat) : (setPennant q p v).cohReg = q.cohReg := rfl
@[simp] theorem setPennant_fpdef (q : Seq) (p v : Nat) : (setPennant q p v).fpdef = q.fpdef := rfl
@[simp] theorem setPennant_sel (q : Seq) (p v : Nat) : (setPennant q p v).sel = q.sel := rfl
@[simp] theorem setPennant_ibuf (q : Seq) (p v : Nat) : (setPennant q p v).ibuf = q.ibuf := rfl
@[simp] theorem setPennant_itlb (q : Seq) (p v : Nat) : (setPennant q p v).itlb = q.itlb := rfl
@[simp] theorem setPennant_waitu (q : Seq) (p v : Nat) : (setPennant q p v).waitu = q.waitu := rfl

-- setX, wrNext
@[simp] theorem setX_pc (q : Seq) (r : Reg) (v : Word) : (setX q r v).pc = q.pc := by unfold setX; split <;> rfl
@[simp] theorem setX_st (q : Seq) (r : Reg) (v : Word) : (setX q r v).st = q.st := by unfold setX; split <;> rfl
@[simp] theorem setX_held (q : Seq) (r : Reg) (v : Word) : (setX q r v).held = q.held := by unfold setX; split <;> rfl
@[simp] theorem setX_th (q : Seq) (r : Reg) (v : Word) : (setX q r v).th = q.th := by unfold setX; split <;> rfl
@[simp] theorem setX_pf (q : Seq) (r : Reg) (v : Word) : (setX q r v).pf = q.pf := by unfold setX; split <;> rfl
@[simp] theorem setX_pn (q : Seq) (r : Reg) (v : Word) : (setX q r v).pn = q.pn := by unfold setX; split <;> rfl
@[simp] theorem setX_cause (q : Seq) (r : Reg) (v : Word) : (setX q r v).cause = q.cause := by unfold setX; split <;> rfl
@[simp] theorem setX_epc (q : Seq) (r : Reg) (v : Word) : (setX q r v).epc = q.epc := by unfold setX; split <;> rfl
@[simp] theorem setX_tvec (q : Seq) (r : Reg) (v : Word) : (setX q r v).tvec = q.tvec := by unfold setX; split <;> rfl
@[simp] theorem setX_cycle (q : Seq) (r : Reg) (v : Word) : (setX q r v).cycle = q.cycle := by unfold setX; split <;> rfl
@[simp] theorem setX_ctxReg (q : Seq) (r : Reg) (v : Word) : (setX q r v).ctxReg = q.ctxReg := by unfold setX; split <;> rfl
@[simp] theorem setX_cohReg (q : Seq) (r : Reg) (v : Word) : (setX q r v).cohReg = q.cohReg := by unfold setX; split <;> rfl
@[simp] theorem setX_fpdef (q : Seq) (r : Reg) (v : Word) : (setX q r v).fpdef = q.fpdef := by unfold setX; split <;> rfl
@[simp] theorem setX_sel (q : Seq) (r : Reg) (v : Word) : (setX q r v).sel = q.sel := by unfold setX; split <;> rfl
@[simp] theorem setX_ibuf (q : Seq) (r : Reg) (v : Word) : (setX q r v).ibuf = q.ibuf := by unfold setX; split <;> rfl
@[simp] theorem setX_itlb (q : Seq) (r : Reg) (v : Word) : (setX q r v).itlb = q.itlb := by unfold setX; split <;> rfl
@[simp] theorem setX_waitu (q : Seq) (r : Reg) (v : Word) : (setX q r v).waitu = q.waitu := by unfold setX; split <;> rfl
@[simp] theorem wrNext_st (q : Seq) (r : Reg) (v : Word) : (wrNext q r v).st = q.st := by simp [wrNext]
@[simp] theorem wrNext_held (q : Seq) (r : Reg) (v : Word) : (wrNext q r v).held = q.held := by simp [wrNext]
@[simp] theorem wrNext_th (q : Seq) (r : Reg) (v : Word) : (wrNext q r v).th = q.th := by simp [wrNext]
@[simp] theorem wrNext_pf (q : Seq) (r : Reg) (v : Word) : (wrNext q r v).pf = q.pf := by simp [wrNext]
@[simp] theorem wrNext_pn (q : Seq) (r : Reg) (v : Word) : (wrNext q r v).pn = q.pn := by simp [wrNext]
@[simp] theorem wrNext_cause (q : Seq) (r : Reg) (v : Word) : (wrNext q r v).cause = q.cause := by simp [wrNext]
@[simp] theorem wrNext_epc (q : Seq) (r : Reg) (v : Word) : (wrNext q r v).epc = q.epc := by simp [wrNext]
@[simp] theorem wrNext_tvec (q : Seq) (r : Reg) (v : Word) : (wrNext q r v).tvec = q.tvec := by simp [wrNext]
@[simp] theorem wrNext_cycle (q : Seq) (r : Reg) (v : Word) : (wrNext q r v).cycle = q.cycle := by simp [wrNext]
@[simp] theorem wrNext_ctxReg (q : Seq) (r : Reg) (v : Word) : (wrNext q r v).ctxReg = q.ctxReg := by simp [wrNext]
@[simp] theorem wrNext_cohReg (q : Seq) (r : Reg) (v : Word) : (wrNext q r v).cohReg = q.cohReg := by simp [wrNext]
@[simp] theorem wrNext_fpdef (q : Seq) (r : Reg) (v : Word) : (wrNext q r v).fpdef = q.fpdef := by simp [wrNext]
@[simp] theorem wrNext_sel (q : Seq) (r : Reg) (v : Word) : (wrNext q r v).sel = q.sel := by simp [wrNext]
@[simp] theorem wrNext_ibuf (q : Seq) (r : Reg) (v : Word) : (wrNext q r v).ibuf = q.ibuf := by simp [wrNext]
@[simp] theorem wrNext_itlb (q : Seq) (r : Reg) (v : Word) : (wrNext q r v).itlb = q.itlb := by simp [wrNext]
@[simp] theorem wrNext_waitu (q : Seq) (r : Reg) (v : Word) : (wrNext q r v).waitu = q.waitu := by simp [wrNext]
@[simp] theorem wrNext_pc (q : Seq) (r : Reg) (v : Word) : (wrNext q r v).pc = q.pc + 4 := rfl

end Sys2Proof.Laws
end

