-- ==== Sys2Proof/Laws/Ops.lean ====
section
/-! SUPPORT. The laws of the named operations: maps, memory and its canonical form, registers, issue. -/

namespace Sys2Proof.Laws

open Sys2Proof.Machine

-- maps ------------------------------------------------------------------------------------------------------------

@[simp] theorem mapGet_mapSet_same {α : Type} (m : SMap α) (k : Nat) (v : α) : mapGet (mapSet m k v) k = some v := by
  induction m with
  | nil => simp [mapSet, mapGet]
  | cons p r ih =>
    obtain ⟨a, x⟩ := p
    simp only [mapSet]
    split
    · simp [mapGet]
    · split
      · simp [mapGet]
      · rename_i h
        simp [mapGet, ih, Ne.symm h]

theorem mapGet_mapSet_other {α : Type} (m : SMap α) {k j : Nat} (v : α) (h : j ≠ k) :
    mapGet (mapSet m k v) j = mapGet m j := by
  induction m with
  | nil => simp [mapSet, mapGet, Ne.symm h]
  | cons p r ih =>
    obtain ⟨a, x⟩ := p
    simp only [mapSet]
    split
    · simp [mapGet, Ne.symm h]
    · split
      · rename_i e
        subst e
        simp [mapGet, Ne.symm h]
      · simp [mapGet, ih]

@[simp] theorem mapGet_mapDel_same {α : Type} (m : SMap α) (k : Nat) : mapGet (mapDel m k) k = none := by
  induction m with
  | nil => rfl
  | cons p r ih =>
    obtain ⟨a, x⟩ := p
    simp only [mapDel]
    split
    · exact ih
    · rename_i h
      simp [mapGet, h, ih]

theorem mapGet_mapDel_other {α : Type} (m : SMap α) {k j : Nat} (h : j ≠ k) : mapGet (mapDel m k) j = mapGet m j := by
  induction m with
  | nil => rfl
  | cons p r ih =>
    obtain ⟨a, x⟩ := p
    simp only [mapDel]
    split
    · rename_i e
      subst e
      simp [mapGet, ih, Ne.symm h]
    · simp [mapGet, ih]

@[simp] theorem mapSet_mapSet {α : Type} (m : SMap α) (k : Nat) (v w : α) :
    mapSet (mapSet m k v) k w = mapSet m k w := by
  induction m with
  | nil => simp [mapSet]
  | cons p r ih =>
    obtain ⟨a, x⟩ := p
    simp only [mapSet]
    split
    · simp [mapSet]
    · split
      · simp [mapSet]
      · rename_i h1 h2
        simp [mapSet, h1, h2, ih]

@[simp] theorem coreAt_setCore_same (s : State) (n : Nat) (c : Core) : coreAt (setCore s n c) n = c := by
  simp [coreAt, setCore, mapGetD]

theorem coreAt_setCore_other (s : State) {n m : Nat} (c : Core) (h : m ≠ n) : coreAt (setCore s n c) m = coreAt s m := by
  simp [coreAt, setCore, mapGetD, mapGet_mapSet_other _ _ h]

@[simp] theorem cur_setCur (s : State) (c : Core) : cur (setCur s c) = c := by
  simp [cur, setCur]

@[simp] theorem setCur_setCur (s : State) (c d : Core) : setCur (setCur s c) d = setCur s d := by
  simp [setCur, setCore]

@[simp] theorem setCore_setCore (s : State) (n : Nat) (c d : Core) : setCore (setCore s n c) n d = setCore s n d := by
  simp [setCore]

@[simp] theorem updCur_setCur (s : State) (c : Core) (f : Core → Core) : updCur (setCur s c) f = setCur s (f c) := by
  simp [updCur]

@[simp] theorem ctxAt_setCtx_same (s : State) (n : Nat) (c : Ctx) : ctxAt (setCtx s n c) n = c := by
  simp [ctxAt, setCtx, mapGetD]

theorem ctxAt_setCtx_other (s : State) {n m : Nat} (c : Ctx) (h : m ≠ n) : ctxAt (setCtx s n c) m = ctxAt s m := by
  simp [ctxAt, setCtx, mapGetD, mapGet_mapSet_other _ _ h]

@[simp] theorem sliceAt_setSlice_same (s : State) (n : Nat) (c : Slice) : sliceAt (setSlice s n c) n = c := by
  simp [sliceAt, setSlice, mapGetD]

@[simp] theorem queueAt_setQueue_same (s : State) (n : Nat) (q : Queue) : queueAt (setQueue s n q) n = q := by
  simp [queueAt, setQueue, mapGetD]

-- registers -------------------------------------------------------------------------------------------------------

/-- s0 reads as zero (R132). -/
@[simp] theorem getX_zero (q : Seq) : getX q 0 = 0 := by simp [getX]

/-- Writing s0 has no effect (R132). -/
@[simp] theorem setX_zero (q : Seq) (v : Word) : setX q 0 v = q := by simp [setX]

theorem getX_setX_same (q : Seq) {r : Reg} (v : Word) (h : r ≠ 0) : getX (setX q r v) r = v := by
  unfold getX setX
  rw [if_neg h]
  split
  · contradiction
  · simp

theorem getX_setX_other (q : Seq) {r k : Reg} (v : Word) (h : k ≠ r) : getX (setX q r v) k = getX q k := by
  unfold getX setX
  split
  · rfl
  · split
    · rfl
    · have : r.toNat ≠ k.toNat := fun e => h (BitVec.eq_of_toNat_eq e.symm)
      simp [Vector.getElem_set_ne _ _ this]

@[simp] theorem getX_pc (q : Seq) (v : Word) (r : Reg) : getX { q with pc := v } r = getX q r := rfl
@[simp] theorem getX_st (q : Seq) (v : SeqSt) (r : Reg) : getX { q with st := v } r = getX q r := rfl

theorem getX_wrNext_same (q : Seq) {r : Reg} (v : Word) (h : r ≠ 0) : getX (wrNext q r v) r = v :=
  getX_setX_same q v h

theorem getX_wrNext_other (q : Seq) {r k : Reg} (v : Word) (h : k ≠ r) : getX (wrNext q r v) k = getX q k :=
  getX_setX_other q v h

-- issue -----------------------------------------------------------------------------------------------------------

/-- All that issue can do: nothing, WAIT, or the instruction on the core in RUN (R105, R133). -/
theorem onIssue_cases (s : State) (rs : List Reg) (f : State → Core → State) :
    (issuing (cur s).seq = false ∧ onIssue s rs f = s) ∨
    (issuing (cur s).seq = true ∧ rs.any (regBusy (cur s)) = true ∧
      onIssue s rs f = setCur s { cur s with seq := { (cur s).seq with st := .wait } }) ∨
    (issuing (cur s).seq = true ∧ rs.any (regBusy (cur s)) = false ∧
      onIssue s rs f = f s { cur s with seq := { (cur s).seq with st := .run } }) := by
  unfold onIssue
  cases h : issuing (cur s).seq <;> cases g : rs.any (regBusy (cur s)) <;> simp [h, g]

theorem onIssue_ready (s : State) (rs : List Reg) (f : State → Core → State)
    (h : issuing (cur s).seq = true) (g : rs.any (regBusy (cur s)) = false) :
    onIssue s rs f = f s { cur s with seq := { (cur s).seq with st := .run } } := by
  simp [onIssue, h, g]

-- memory ----------------------------------------------------------------------------------------------------------

theorem wfFrom_mono {lo lo' : Nat} (m : Mem) (h : lo' ≤ lo) (w : Mem.wfFrom lo m = true) : Mem.wfFrom lo' m = true := by
  cases m with
  | nil => rfl
  | cons p r =>
    obtain ⟨k, v⟩ := p
    simp only [Mem.wfFrom, Bool.and_eq_true, decide_eq_true_eq] at w ⊢
    exact ⟨⟨by omega, w.1.2⟩, w.2⟩

/-- Below its first key a memory reads 0. -/
theorem memGet_below {lo a : Nat} (m : Mem) (w : Mem.wfFrom lo m = true) (h : a < lo) : memGet m a = 0 := by
  induction m generalizing lo with
  | nil => rfl
  | cons p r ih =>
    obtain ⟨k, v⟩ := p
    simp only [Mem.wfFrom, Bool.and_eq_true, decide_eq_true_eq] at w
    have : k ≠ a := by omega
    simp only [memGet, this, if_false]
    exact ih w.2 (by omega)

/-- A store leaves every other address as it was. -/
theorem memGet_memPut_other (m : Mem) {a b : Nat} (v : Byte) (h : b ≠ a) : memGet (memPut m a v) b = memGet m b := by
  induction m with
  | nil => simp only [memPut]; split <;> simp [memGet, Ne.symm h]
  | cons p r ih =>
    obtain ⟨k, x⟩ := p
    simp only [memPut]
    split
    · split
      · rfl
      · simp [memGet, Ne.symm h]
    · split
      · rename_i e
        subst e
        split <;> simp [memGet, Ne.symm h]
      · simp [memGet, ih]

/-- A stored byte reads back. -/
theorem memGet_memPut_same {lo : Nat} (m : Mem) (a : Nat) (v : Byte) (w : Mem.wfFrom lo m = true) :
    memGet (memPut m a v) a = v := by
  induction m generalizing lo with
  | nil => simp only [memPut]; split <;> simp_all [memGet]
  | cons p r ih =>
    obtain ⟨k, x⟩ := p
    have w' := w
    simp only [Mem.wfFrom, Bool.and_eq_true, decide_eq_true_eq] at w
    simp only [memPut]
    split
    · split
      · rename_i h e
        have : Mem.wfFrom k ((k, x) :: r) = true := by
          simp only [Mem.wfFrom, Bool.and_eq_true, decide_eq_true_eq]
          exact ⟨⟨Nat.le_refl _, w.1.2⟩, w.2⟩
        rw [memGet_below _ this h, e]
      · simp [memGet]
    · split
      · split
        · rename_i h e v0
          subst e
          rw [memGet_below r w.2 (by omega), v0]
        · rename_i e _
          simp [memGet, e]
      · rename_i e
        simp only [memGet, Ne.symm e, if_false]
        exact ih w.2

/-- A store keeps the canonical form. -/
theorem wfFrom_memPut {lo : Nat} (m : Mem) (a : Nat) (v : Byte) (w : Mem.wfFrom lo m = true) (h : lo ≤ a) :
    Mem.wfFrom lo (memPut m a v) = true := by
  induction m generalizing lo with
  | nil =>
    simp only [memPut]
    split
    · rfl
    · simp_all [Mem.wfFrom]
  | cons p r ih =>
    obtain ⟨k, x⟩ := p
    have w' := w
    simp only [Mem.wfFrom, Bool.and_eq_true, decide_eq_true_eq] at w
    simp only [memPut]
    split
    · split
      · exact w'
      · rename_i h1 h2
        simp only [Mem.wfFrom, Bool.and_eq_true, decide_eq_true_eq]
        exact ⟨⟨h, by simpa using h2⟩, ⟨by omega, w.1.2⟩, w.2⟩
    · split
      · split
        · exact wfFrom_mono r (by omega) w.2
        · rename_i e h2
          simp only [Mem.wfFrom, Bool.and_eq_true, decide_eq_true_eq]
          exact ⟨⟨w.1.1, by simpa using h2⟩, w.2⟩
      · simp only [Mem.wfFrom, Bool.and_eq_true, decide_eq_true_eq]
        exact ⟨w.1, ih w.2 (by omega)⟩

/-- One stored byte keeps the canonical form. -/
theorem wf_memPut (m : Mem) (a : Nat) (v : Byte) (w : m.wf = true) : (memPut m a v).wf = true :=
  wfFrom_memPut m a v w (Nat.zero_le a)

/-- A store of bytes keeps the canonical form. -/
theorem wf_memWrite (m : Mem) (a : Nat) (bs : List Byte) (w : m.wf = true) : (memWrite m a bs).wf = true := by
  induction bs generalizing m a with
  | nil => exact w
  | cons b r ih => exact ih _ _ (wf_memPut m a b w)

theorem wfFrom_filter {lo : Nat} (m : Mem) (p : Host.Cell → Bool) (w : Mem.wfFrom lo m = true) :
    Mem.wfFrom lo (m.filter p) = true := by
  induction m generalizing lo with
  | nil => rfl
  | cons q r ih =>
    obtain ⟨k, v⟩ := q
    simp only [Mem.wfFrom, Bool.and_eq_true, decide_eq_true_eq] at w
    simp only [List.filter_cons]
    split
    · simp only [Mem.wfFrom, Bool.and_eq_true, decide_eq_true_eq]
      exact ⟨w.1, ih w.2⟩
    · exact wfFrom_mono _ (by omega) (ih w.2)

/-- Zeroing keeps the canonical form. -/
theorem wf_memZero (m : Mem) (a n : Nat) (w : m.wf = true) : (memZero m a n).wf = true := wfFrom_filter m _ w

theorem wf_foldPut {α : Type} (l : List α) (k : α → Nat) (v : Mem → α → Byte) (m : Mem) (w : m.wf = true) :
    (l.foldl (fun acc p => memPut acc (k p) (v acc p)) m).wf = true := by
  induction l generalizing m with
  | nil => exact w
  | cons p r ih => exact ih _ (wf_memPut m _ _ w)

/-- Copying keeps the canonical form. -/
theorem wf_memMove (m : Mem) (a b n : Nat) (w : m.wf = true) : (memMove m a b n).wf = true :=
  wf_foldPut _ (fun p : Host.Cell => p.1 - a + b) (fun _ p => p.2) _ (wf_memZero m b n w)

/-- A store of bytes leaves every address outside them as it was. -/
theorem memGet_memWrite_other (m : Mem) (a b : Nat) (bs : List Byte) (h : b < a ∨ a + bs.length ≤ b) :
    memGet (memWrite m a bs) b = memGet m b := by
  induction bs generalizing m a with
  | nil => rfl
  | cons x r ih =>
    simp only [List.length_cons] at h
    rw [memWrite, ih _ _ (by omega), memGet_memPut_other m x (by omega)]

/-- Stored bytes read back. -/
theorem memRead_memWrite (m : Mem) (a : Nat) (bs : List Byte) (w : m.wf = true) :
    memRead (memWrite m a bs) a bs.length = bs := by
  induction bs generalizing m a with
  | nil => rfl
  | cons x r ih =>
    simp only [List.length_cons, memRead, memWrite]
    rw [memGet_memWrite_other _ _ _ _ (by omega), memGet_memPut_same m a x w, ih _ _ (wf_memPut m a x w)]

/-- Keys below `hi` ahead of keys from `hi` up. -/
theorem wfFrom_append {lo hi : Nat} (m r : Mem) (w : Mem.wfFrom lo m = true) (h : ∀ p ∈ m, p.1 < hi) (l : lo ≤ hi)
    (v : Mem.wfFrom hi r = true) : Mem.wfFrom lo (m ++ r) = true := by
  induction m generalizing lo with
  | nil => exact wfFrom_mono r l v
  | cons q t ih =>
    obtain ⟨k, b⟩ := q
    have hk := h (k, b) (by simp)
    simp only [Mem.wfFrom, Bool.and_eq_true, decide_eq_true_eq, List.cons_append] at w ⊢
    exact ⟨w.1, ih w.2 (fun p hp => h p (by simp [hp])) hk⟩

theorem wfFrom_shift {lo : Nat} (m : Mem) (a : Nat) (w : Mem.wfFrom lo m = true) :
    Mem.wfFrom (a + lo) (m.map fun p => (a + p.1, p.2)) = true := by
  induction m generalizing lo with
  | nil => rfl
  | cons q t ih =>
    obtain ⟨k, b⟩ := q
    simp only [Mem.wfFrom, Bool.and_eq_true, decide_eq_true_eq, List.map_cons] at w ⊢
    exact ⟨⟨by omega, w.1.2⟩, ih w.2⟩

theorem wfFrom_from {lo : Nat} (m : Mem) (a : Nat) (w : Mem.wfFrom lo m = true) :
    Mem.wfFrom a (m.filter fun p => a ≤ p.1) = true := by
  induction m generalizing lo with
  | nil => rfl
  | cons q t ih =>
    obtain ⟨k, b⟩ := q
    simp only [Mem.wfFrom, Bool.and_eq_true, decide_eq_true_eq] at w
    simp only [List.filter_cons]
    split
    · rename_i h
      simp only [Mem.wfFrom, Bool.and_eq_true, decide_eq_true_eq]
      exact ⟨⟨by simpa using h, w.1.2⟩, wfFrom_filter t _ w.2⟩
    · exact ih w.2

theorem wfFrom_back {a lo : Nat} (m : Mem) (h : a ≤ lo) (w : Mem.wfFrom lo m = true) :
    Mem.wfFrom (lo - a) (m.map fun p => (p.1 - a, p.2)) = true := by
  induction m generalizing lo with
  | nil => rfl
  | cons q t ih =>
    obtain ⟨k, b⟩ := q
    simp only [Mem.wfFrom, Bool.and_eq_true, decide_eq_true_eq, List.map_cons] at w ⊢
    refine ⟨⟨by omega, w.1.2⟩, ?_⟩
    have e : k + 1 - a = k - a + 1 := by omega
    exact e ▸ ih (by omega) w.2

/-- Replacing a section keeps the canonical form. -/
theorem wf_memSection (m : Mem) (a n : Nat) (sec : Mem) (w : m.wf = true) (v : sec.wf = true) :
    (memSection m a n sec).wf = true := by
  unfold memSection Mem.wf
  rw [List.append_assoc]
  refine wfFrom_append (hi := a) _ _ (wfFrom_filter m _ w) (by simp) (Nat.zero_le a) ?_
  refine wfFrom_append (hi := a + n) _ _ (wfFrom_shift _ a (wfFrom_filter sec _ v)) ?_ (by omega) (wfFrom_from m (a + n) w)
  intro p hp
  simp only [List.mem_map, List.mem_filter, decide_eq_true_eq] at hp
  obtain ⟨q, ⟨_, hq⟩, rfl⟩ := hp
  simp only; omega

/-- A part of a canonical memory is canonical. -/
theorem wf_memPart (m : Mem) (a n : Nat) (w : m.wf = true) : (memPart m a n).wf = true := by
  have e : (m.filter fun p => decide (a ≤ p.1) && decide (p.1 < a + n)) =
      (m.filter fun p => decide (a ≤ p.1)).filter fun p => decide (p.1 < a + n) := by
    simp [List.filter_filter, Bool.and_comm]
  unfold memPart Mem.wf
  rw [e]
  exact wfFrom_mono _ (Nat.zero_le _) (wfFrom_back _ (Nat.le_refl a) (wfFrom_filter _ _ (wfFrom_from m a w)))

theorem wfFrom_bytesMem (a : Nat) (bs : List Byte) : Mem.wfFrom a (bytesMem a bs) = true := by
  induction bs generalizing a with
  | nil => rfl
  | cons b r ih =>
    simp only [bytesMem]
    split
    · exact wfFrom_mono _ (Nat.le_succ a) (ih (a + 1))
    · rename_i h
      simp only [Mem.wfFrom, Bool.and_eq_true, decide_eq_true_eq]
      exact ⟨⟨Nat.le_refl a, by simpa using h⟩, ih (a + 1)⟩

/-- A list of bytes laid out as a memory is canonical. -/
theorem wf_bytesMem (a : Nat) (bs : List Byte) : (bytesMem a bs).wf = true :=
  wfFrom_mono _ (Nat.zero_le a) (wfFrom_bytesMem a bs)

/-- Whether a place is bad does not depend on the cores. -/
@[simp] theorem placeBad_updCore (s : State) (n pa k : Nat) (f : Core → Core) :
    placeBad (updCore s n f) pa k = placeBad s pa k := rfl

/-- All that performing the sequencer's store can do: nothing, or the store is no longer waiting, and is at home unless its
place is bad. -/
theorem performStore_cases (s : State) (n : Nat) :
    ((coreAt s n).unstored = none ∧ performStore s n = s) ∨
    (∃ pa bs, (coreAt s n).unstored = some (pa, bs) ∧
      ((placeBad s pa bs.length = true ∧ performStore s n = updCore s n fun c => { c with unstored := none }) ∨
       (placeBad s pa bs.length = false ∧
        performStore s n = placeWrite (updCore s n fun c => { c with unstored := none }) pa bs))) := by
  unfold performStore
  cases h : (coreAt s n).unstored with
  | none => exact .inl ⟨rfl, rfl⟩
  | some v =>
    refine .inr ⟨v.1, v.2, rfl, ?_⟩
    cases hb : placeBad s v.1 v.2.length
    · exact .inr ⟨rfl, by simp [placeBad_updCore, hb]⟩
    · exact .inl ⟨rfl, by simp [placeBad_updCore, hb]⟩

end Sys2Proof.Laws
end

