-- ==== Sys2Proof/Laws/Commands.lean ====
section
/-! SUPPORT. The engines' service of a sequencer's commands: a change of a core just set, and a queue of one command. -/

namespace Sys2Proof.Laws
open Sys2Proof.Machine

/-- A change of a core that has just been set. -/
theorem updCore_setCore (s : State) (n : Nat) (c : Core) (f : Core → Core) : updCore (setCore s n c) n f = setCore s n (f c) := by
  simp [updCore, setCore, coreAt, mapGetD]

theorem engineOf_lt (i : Instr) : engineOf i < 8 := by unfold engineOf; split <;> omega

theorem pumpEngine_nil (n : Nat) (s : State) : pumpEngine n [] s = s := rfl

theorem queueOf_settled (c : Core) (e : Nat) (h : ∀ k ∈ c.cmds, k.rdWait = false) : queueOf c e = [] := by
  simp only [queueOf, List.map_eq_nil_iff, List.filter_eq_nil_iff]
  intro k hk; simp [h k hk]

theorem pump_fold_settled (n : Nat) (l : List Nat) (s : State) (h : ∀ k ∈ (coreAt s n).cmds, k.rdWait = false) :
    l.foldl (fun s e => pumpEngine n (queueOf (coreAt s n) e) s) s = s := by
  induction l with
  | nil => rfl
  | cons e r ih => simp only [List.foldl_cons, queueOf_settled _ e h, pumpEngine_nil, ih]

theorem pump_fold_single (n : Nat) (m : Cmd) (l : List Nat) (s : State) (hc : (coreAt s n).cmds = [m])
    (hr : m.rdWait = true) (ha : acceptable (coreAt s n) m = true) (hm : engineOf m.op ∈ l)
    (hs : ∀ k ∈ (coreAt (serveCmd s n m).1 n).cmds, k.rdWait = false) :
    l.foldl (fun s e => pumpEngine n (queueOf (coreAt s n) e) s) s = (serveCmd s n m).1 := by
  induction l with
  | nil => simp at hm
  | cons e r ih =>
    simp only [List.foldl_cons]
    by_cases he : engineOf m.op = e
    · have hq : queueOf (coreAt s n) e = [m.id] := by simp [queueOf, hc, hr, he]
      have hk : cmdAt (coreAt s n) m.id = some m := by simp [cmdAt, hc]
      have hp : pumpEngine n [m.id] s = (serveCmd s n m).1 := by
        simp only [pumpEngine, hk, ha, Bool.not_true, Bool.false_eq_true, if_false]
        rcases hv : serveCmd s n m with ⟨u, b⟩
        cases b <;> rfl
      rw [hq, hp, pump_fold_settled n r _ hs]
    · have hq : queueOf (coreAt s n) e = [] := by simp [queueOf, hc, he]
      rw [hq, pumpEngine_nil]
      exact ih (by simpa [Ne.symm he, he, eq_comm] using hm)

/-- With one command in the core's queues the engines serve that command. -/
theorem pump_single (n : Nat) (m : Cmd) (s : State) (hc : (coreAt s n).cmds = [m]) (hr : m.rdWait = true)
    (ha : acceptable (coreAt s n) m = true) (hs : ∀ k ∈ (coreAt (serveCmd s n m).1 n).cmds, k.rdWait = false) :
    pump s n = (serveCmd s n m).1 :=
  pump_fold_single n m _ s hc hr ha (by simpa using engineOf_lt m.op) hs
end Sys2Proof.Laws
end

