-- ==== Sys2Proof/Laws/Encoding.lean ====
section
/-! SUPPORT. The fields of an encoded word read back, format by format (R101, R107, R114, R117); bytes and numbers (R3). -/

namespace Sys2Proof.Laws

open Sys2Proof

@[simp] theorem encSA_major (m : BitVec 6) (d a b : Reg) (f : BitVec 11) :
    Fld.major (encSA m d a b f) = m := by
  apply BitVec.eq_of_getLsbD_eq
  intro i h
  simp only [Fld.major, encSA, bits, BitVec.getLsbD_extractLsb', BitVec.getLsbD_append]
  grind

@[simp] theorem encSA_rd (m : BitVec 6) (d a b : Reg) (f : BitVec 11) :
    Fld.rd (encSA m d a b f) = d := by
  apply BitVec.eq_of_getLsbD_eq
  intro i h
  simp only [Fld.rd, encSA, bits, BitVec.getLsbD_extractLsb', BitVec.getLsbD_append]
  grind

@[simp] theorem encSA_ra (m : BitVec 6) (d a b : Reg) (f : BitVec 11) :
    Fld.ra (encSA m d a b f) = a := by
  apply BitVec.eq_of_getLsbD_eq
  intro i h
  simp only [Fld.ra, encSA, bits, BitVec.getLsbD_extractLsb', BitVec.getLsbD_append]
  grind

@[simp] theorem encSA_rb (m : BitVec 6) (d a b : Reg) (f : BitVec 11) :
    Fld.rb (encSA m d a b f) = b := by
  apply BitVec.eq_of_getLsbD_eq
  intro i h
  simp only [Fld.rb, encSA, bits, BitVec.getLsbD_extractLsb', BitVec.getLsbD_append]
  grind

@[simp] theorem encSA_fn11 (m : BitVec 6) (d a b : Reg) (f : BitVec 11) :
    Fld.fn11 (encSA m d a b f) = f := by
  apply BitVec.eq_of_getLsbD_eq
  intro i h
  simp only [Fld.fn11, encSA, bits, BitVec.getLsbD_extractLsb', BitVec.getLsbD_append]
  grind


@[simp] theorem encSI_major (m : BitVec 6) (d a : Reg) (j : BitVec 16) :
    Fld.major (encSI m d a j) = m := by
  apply BitVec.eq_of_getLsbD_eq
  intro i h
  simp only [Fld.major, encSI, bits, BitVec.getLsbD_extractLsb', BitVec.getLsbD_append]
  grind

@[simp] theorem encSI_rd (m : BitVec 6) (d a : Reg) (j : BitVec 16) :
    Fld.rd (encSI m d a j) = d := by
  apply BitVec.eq_of_getLsbD_eq
  intro i h
  simp only [Fld.rd, encSI, bits, BitVec.getLsbD_extractLsb', BitVec.getLsbD_append]
  grind

@[simp] theorem encSI_ra (m : BitVec 6) (d a : Reg) (j : BitVec 16) :
    Fld.ra (encSI m d a j) = a := by
  apply BitVec.eq_of_getLsbD_eq
  intro i h
  simp only [Fld.ra, encSI, bits, BitVec.getLsbD_extractLsb', BitVec.getLsbD_append]
  grind

@[simp] theorem encSI_imm (m : BitVec 6) (d a : Reg) (j : BitVec 16) :
    Fld.imm (encSI m d a j) = j := by
  apply BitVec.eq_of_getLsbD_eq
  intro i h
  simp only [Fld.imm, encSI, bits, BitVec.getLsbD_extractLsb', BitVec.getLsbD_append]
  grind

@[simp] theorem encSI_low (m : BitVec 6) (d a : Reg) (p : BitVec 6) (q r : BitVec 2) (n : BitVec 6) :
    bits (encSI m d a (p ++ q ++ r ++ n)) 0 6 = n := by
  apply BitVec.eq_of_getLsbD_eq
  intro i h
  simp only [encSI, bits, BitVec.getLsbD_extractLsb', BitVec.getLsbD_append]
  grind

@[simp] theorem encSI_select (m : BitVec 6) (d a : Reg) (p : BitVec 6) (q r : BitVec 2) (n : BitVec 6) :
    bits (encSI m d a (p ++ q ++ r ++ n)) 8 2 = q := by
  apply BitVec.eq_of_getLsbD_eq
  intro i h
  simp only [encSI, bits, BitVec.getLsbD_extractLsb', BitVec.getLsbD_append]
  grind

@[simp] theorem encSI_top (m : BitVec 6) (d a : Reg) (p : BitVec 6) (q r : BitVec 2) (n : BitVec 6) :
    bits (encSI m d a (p ++ q ++ r ++ n)) 10 6 = p := by
  apply BitVec.eq_of_getLsbD_eq
  intro i h
  simp only [encSI, bits, BitVec.getLsbD_extractLsb', BitVec.getLsbD_append]
  grind

@[simp] theorem encSI_mid (m : BitVec 6) (d a : Reg) (p : BitVec 6) (q r : BitVec 2) (n : BitVec 6) :
    bits (encSI m d a (p ++ q ++ r ++ n)) 6 2 = r := by
  apply BitVec.eq_of_getLsbD_eq
  intro i h
  simp only [encSI, bits, BitVec.getLsbD_extractLsb', BitVec.getLsbD_append]
  grind

@[simp] theorem encSJ_major (m : BitVec 6) (o : BitVec 26) :
    Fld.major (encSJ m o) = m := by
  apply BitVec.eq_of_getLsbD_eq
  intro i h
  simp only [Fld.major, encSJ, bits, BitVec.getLsbD_extractLsb', BitVec.getLsbD_append]
  grind

@[simp] theorem encSJ_off (m : BitVec 6) (o : BitVec 26) :
    bits (encSJ m o) 0 26 = o := by
  apply BitVec.eq_of_getLsbD_eq
  intro i h
  simp only [encSJ, bits, BitVec.getLsbD_extractLsb', BitVec.getLsbD_append]
  grind

@[simp] theorem encSE_major (m : BitVec 6) (d a b : Reg) (p : Pen) (f : BitVec 8) :
    Fld.major (encSE m d a b p f) = m := by
  apply BitVec.eq_of_getLsbD_eq
  intro i h
  simp only [Fld.major, encSE, bits, BitVec.getLsbD_extractLsb', BitVec.getLsbD_append]
  grind

@[simp] theorem encSE_rd (m : BitVec 6) (d a b : Reg) (p : Pen) (f : BitVec 8) :
    Fld.rd (encSE m d a b p f) = d := by
  apply BitVec.eq_of_getLsbD_eq
  intro i h
  simp only [Fld.rd, encSE, bits, BitVec.getLsbD_extractLsb', BitVec.getLsbD_append]
  grind

@[simp] theorem encSE_ra (m : BitVec 6) (d a b : Reg) (p : Pen) (f : BitVec 8) :
    Fld.ra (encSE m d a b p f) = a := by
  apply BitVec.eq_of_getLsbD_eq
  intro i h
  simp only [Fld.ra, encSE, bits, BitVec.getLsbD_extractLsb', BitVec.getLsbD_append]
  grind

@[simp] theorem encSE_rb (m : BitVec 6) (d a b : Reg) (p : Pen) (f : BitVec 8) :
    Fld.rb (encSE m d a b p f) = b := by
  apply BitVec.eq_of_getLsbD_eq
  intro i h
  simp only [Fld.rb, encSE, bits, BitVec.getLsbD_extractLsb', BitVec.getLsbD_append]
  grind

@[simp] theorem encSE_pn (m : BitVec 6) (d a b : Reg) (p : Pen) (f : BitVec 8) :
    Fld.pn (encSE m d a b p f) = p := by
  apply BitVec.eq_of_getLsbD_eq
  intro i h
  simp only [Fld.pn, encSE, bits, BitVec.getLsbD_extractLsb', BitVec.getLsbD_append]
  grind

@[simp] theorem encSE_fn8 (m : BitVec 6) (d a b : Reg) (p : Pen) (f : BitVec 8) :
    Fld.fn8 (encSE m d a b p f) = f := by
  apply BitVec.eq_of_getLsbD_eq
  intro i h
  simp only [Fld.fn8, encSE, bits, BitVec.getLsbD_extractLsb', BitVec.getLsbD_append]
  grind

@[simp] theorem encSE_kind (m : BitVec 6) (d a b : Reg) (p : Pen) (g : BitVec 2) (o t : BitVec 3) :
    bits (encSE m d a b p (g ++ o ++ t)) 3 3 = o := by
  apply BitVec.eq_of_getLsbD_eq
  intro i h
  simp only [encSE, bits, BitVec.getLsbD_extractLsb', BitVec.getLsbD_append]
  grind

@[simp] theorem encSE_type (m : BitVec 6) (d a b : Reg) (p : Pen) (g : BitVec 2) (o t : BitVec 3) :
    bits (encSE m d a b p (g ++ o ++ t)) 0 3 = t := by
  apply BitVec.eq_of_getLsbD_eq
  intro i h
  simp only [encSE, bits, BitVec.getLsbD_extractLsb', BitVec.getLsbD_append]
  grind

@[simp] theorem encOp_dst (co : BitVec 10) (d a b c t r : BitVec 3) (s : BitVec 1) (m : BitVec 3) :
    OpF.dst (encOp co d a b c t r s m) = d := by
  apply BitVec.eq_of_getLsbD_eq
  intro i h
  simp only [OpF.dst, encOp, bits, BitVec.getLsbD_extractLsb', BitVec.getLsbD_append]
  grind

@[simp] theorem encOp_srcA (co : BitVec 10) (d a b c t r : BitVec 3) (s : BitVec 1) (m : BitVec 3) :
    OpF.srcA (encOp co d a b c t r s m) = a := by
  apply BitVec.eq_of_getLsbD_eq
  intro i h
  simp only [OpF.srcA, encOp, bits, BitVec.getLsbD_extractLsb', BitVec.getLsbD_append]
  grind

@[simp] theorem encOp_srcB (co : BitVec 10) (d a b c t r : BitVec 3) (s : BitVec 1) (m : BitVec 3) :
    OpF.srcB (encOp co d a b c t r s m) = b := by
  apply BitVec.eq_of_getLsbD_eq
  intro i h
  simp only [OpF.srcB, encOp, bits, BitVec.getLsbD_extractLsb', BitVec.getLsbD_append]
  grind

@[simp] theorem encOp_srcC (co : BitVec 10) (d a b c t r : BitVec 3) (s : BitVec 1) (m : BitVec 3) :
    OpF.srcC (encOp co d a b c t r s m) = c := by
  apply BitVec.eq_of_getLsbD_eq
  intro i h
  simp only [OpF.srcC, encOp, bits, BitVec.getLsbD_extractLsb', BitVec.getLsbD_append]
  grind

@[simp] theorem encOp_ty (co : BitVec 10) (d a b c t r : BitVec 3) (s : BitVec 1) (m : BitVec 3) :
    OpF.ty (encOp co d a b c t r s m) = t := by
  apply BitVec.eq_of_getLsbD_eq
  intro i h
  simp only [OpF.ty, encOp, bits, BitVec.getLsbD_extractLsb', BitVec.getLsbD_append]
  grind

@[simp] theorem encOp_rnd (co : BitVec 10) (d a b c t r : BitVec 3) (s : BitVec 1) (m : BitVec 3) :
    OpF.rnd (encOp co d a b c t r s m) = r := by
  apply BitVec.eq_of_getLsbD_eq
  intro i h
  simp only [OpF.rnd, encOp, bits, BitVec.getLsbD_extractLsb', BitVec.getLsbD_append]
  grind

@[simp] theorem encOp_sat (co : BitVec 10) (d a b c t r : BitVec 3) (s : BitVec 1) (m : BitVec 3) :
    OpF.sat (encOp co d a b c t r s m) = s := by
  apply BitVec.eq_of_getLsbD_eq
  intro i h
  simp only [OpF.sat, encOp, bits, BitVec.getLsbD_extractLsb', BitVec.getLsbD_append]
  grind

@[simp] theorem encOp_mod (co : BitVec 10) (d a b c t r : BitVec 3) (s : BitVec 1) (m : BitVec 3) :
    OpF.mod (encOp co d a b c t r s m) = m := by
  apply BitVec.eq_of_getLsbD_eq
  intro i h
  simp only [OpF.mod, encOp, bits, BitVec.getLsbD_extractLsb', BitVec.getLsbD_append]
  grind

@[simp] theorem encOp_class (co : BitVec 10) (d a b c t r : BitVec 3) (s : BitVec 1) (m : BitVec 3) :
    bits (encOp co d a b c t r s m) 29 3 = bits co 7 3 := by
  apply BitVec.eq_of_getLsbD_eq
  intro i h
  simp only [encOp, bits, BitVec.getLsbD_extractLsb', BitVec.getLsbD_append]
  grind

@[simp] theorem encOp_code (co : BitVec 10) (d a b c t r : BitVec 3) (s : BitVec 1) (m : BitVec 3) :
    bits (encOp co d a b c t r s m) 22 7 = bits co 0 7 := by
  apply BitVec.eq_of_getLsbD_eq
  intro i h
  simp only [encOp, bits, BitVec.getLsbD_extractLsb', BitVec.getLsbD_append]
  grind

@[simp] theorem encMx_class (co : BitVec 7) (a : BitVec 6) (g h w : BitVec 4) (n b z c k : BitVec 1) :
    bits (encMx co a g h w n b z c k) 29 3 = bits co 4 3 := by
  apply BitVec.eq_of_getLsbD_eq
  intro i h
  simp only [encMx, bits, BitVec.getLsbD_extractLsb', BitVec.getLsbD_append]
  grind

@[simp] theorem encMx_code (co : BitVec 7) (a : BitVec 6) (g h w : BitVec 4) (n b z c k : BitVec 1) :
    bits (encMx co a g h w n b z c k) 25 4 = bits co 0 4 := by
  apply BitVec.eq_of_getLsbD_eq
  intro i h
  simp only [encMx, bits, BitVec.getLsbD_extractLsb', BitVec.getLsbD_append]
  grind

@[simp] theorem encMx_a (co : BitVec 7) (a : BitVec 6) (g h w : BitVec 4) (n b z c k : BitVec 1) :
    bits (encMx co a g h w n b z c k) 19 6 = a := by
  apply BitVec.eq_of_getLsbD_eq
  intro i h
  simp only [encMx, bits, BitVec.getLsbD_extractLsb', BitVec.getLsbD_append]
  grind

@[simp] theorem encMx_g (co : BitVec 7) (a : BitVec 6) (g h w : BitVec 4) (n b z c k : BitVec 1) :
    bits (encMx co a g h w n b z c k) 15 4 = g := by
  apply BitVec.eq_of_getLsbD_eq
  intro i h
  simp only [encMx, bits, BitVec.getLsbD_extractLsb', BitVec.getLsbD_append]
  grind

@[simp] theorem encMx_h (co : BitVec 7) (a : BitVec 6) (g h w : BitVec 4) (n b z c k : BitVec 1) :
    bits (encMx co a g h w n b z c k) 11 4 = h := by
  apply BitVec.eq_of_getLsbD_eq
  intro i h
  simp only [encMx, bits, BitVec.getLsbD_extractLsb', BitVec.getLsbD_append]
  grind

@[simp] theorem encMx_w (co : BitVec 7) (a : BitVec 6) (g h w : BitVec 4) (n b z c k : BitVec 1) :
    bits (encMx co a g h w n b z c k) 7 4 = w := by
  apply BitVec.eq_of_getLsbD_eq
  intro i h
  simp only [encMx, bits, BitVec.getLsbD_extractLsb', BitVec.getLsbD_append]
  grind

@[simp] theorem encMx_n (co : BitVec 7) (a : BitVec 6) (g h w : BitVec 4) (n b z c k : BitVec 1) :
    bits (encMx co a g h w n b z c k) 6 1 = n := by
  apply BitVec.eq_of_getLsbD_eq
  intro i h
  simp only [encMx, bits, BitVec.getLsbD_extractLsb', BitVec.getLsbD_append]
  grind

@[simp] theorem encMx_b (co : BitVec 7) (a : BitVec 6) (g h w : BitVec 4) (n b z c k : BitVec 1) :
    bits (encMx co a g h w n b z c k) 5 1 = b := by
  apply BitVec.eq_of_getLsbD_eq
  intro i h
  simp only [encMx, bits, BitVec.getLsbD_extractLsb', BitVec.getLsbD_append]
  grind

@[simp] theorem encMx_z (co : BitVec 7) (a : BitVec 6) (g h w : BitVec 4) (n b z c k : BitVec 1) :
    bits (encMx co a g h w n b z c k) 4 1 = z := by
  apply BitVec.eq_of_getLsbD_eq
  intro i h
  simp only [encMx, bits, BitVec.getLsbD_extractLsb', BitVec.getLsbD_append]
  grind

@[simp] theorem encMx_c (co : BitVec 7) (a : BitVec 6) (g h w : BitVec 4) (n b z c k : BitVec 1) :
    bits (encMx co a g h w n b z c k) 3 1 = c := by
  apply BitVec.eq_of_getLsbD_eq
  intro i h
  simp only [encMx, bits, BitVec.getLsbD_extractLsb', BitVec.getLsbD_append]
  grind

@[simp] theorem encMx_k (co : BitVec 7) (a : BitVec 6) (g h w : BitVec 4) (n b z c k : BitVec 1) :
    bits (encMx co a g h w n b z c k) 2 1 = k := by
  apply BitVec.eq_of_getLsbD_eq
  intro i h
  simp only [encMx, bits, BitVec.getLsbD_extractLsb', BitVec.getLsbD_append]
  grind

@[simp] theorem encMx_low (co : BitVec 7) (a : BitVec 6) (g h w : BitVec 4) (n b z c k : BitVec 1) :
    bits (encMx co a g h w n b z c k) 0 2 = 0 := by
  apply BitVec.eq_of_getLsbD_eq
  intro i h
  simp only [encMx, bits, BitVec.getLsbD_extractLsb', BitVec.getLsbD_append]
  grind

@[simp] theorem encSw_kind (k : BitVec 4) (x o q n : BitVec 3) :
    bits (encSw k x o q n) 12 4 = k := by
  apply BitVec.eq_of_getLsbD_eq
  intro i h
  simp only [encSw, bits, BitVec.getLsbD_extractLsb', BitVec.getLsbD_append]
  grind

@[simp] theorem encSw_in (k : BitVec 4) (x o q n : BitVec 3) :
    bits (encSw k x o q n) 9 3 = x := by
  apply BitVec.eq_of_getLsbD_eq
  intro i h
  simp only [encSw, bits, BitVec.getLsbD_extractLsb', BitVec.getLsbD_append]
  grind

@[simp] theorem encSw_out (k : BitVec 4) (x o q n : BitVec 3) :
    bits (encSw k x o q n) 6 3 = o := by
  apply BitVec.eq_of_getLsbD_eq
  intro i h
  simp only [encSw, bits, BitVec.getLsbD_extractLsb', BitVec.getLsbD_append]
  grind

@[simp] theorem encSw_mid (k : BitVec 4) (x o q n : BitVec 3) :
    bits (encSw k x o q n) 3 3 = q := by
  apply BitVec.eq_of_getLsbD_eq
  intro i h
  simp only [encSw, bits, BitVec.getLsbD_extractLsb', BitVec.getLsbD_append]
  grind

@[simp] theorem encSw_low (k : BitVec 4) (x o q n : BitVec 3) :
    bits (encSw k x o q n) 0 3 = n := by
  apply BitVec.eq_of_getLsbD_eq
  intro i h
  simp only [encSw, bits, BitVec.getLsbD_extractLsb', BitVec.getLsbD_append]
  grind

theorem leBytes_length (k v : Nat) : (leBytes k v).length = k := by
  induction k generalizing v with
  | zero => rfl
  | succ k ih => simp [leBytes, ih]

/-- Bytes laid out and read back give the number (R3). -/
theorem leNat_leBytes (k v : Nat) : leNat (leBytes k v) = v % 256 ^ k := by
  induction k generalizing v with
  | zero => simp [leBytes, leNat, Nat.mod_one]
  | succ k ih =>
    simp only [leBytes, leNat, ih, BitVec.toNat_ofNat]
    rw [show 256 ^ (k + 1) = 256 * 256 ^ k by rw [Nat.pow_succ, Nat.mul_comm], Nat.mod_mul]

@[simp] theorem word32_leBytes (w : W32) : word32 (leBytes 4 w.toNat) = w := by
  apply BitVec.eq_of_toNat_eq
  simp only [word32, leNat_leBytes, BitVec.toNat_ofNat]
  have := w.isLt
  omega

-- which table a decoder uses ---------------------------------------------------------------------------------------

theorem decodeSeq_decInteger (x : W32) (h : Fld.major x = 0x01) : decodeSeq x = decInteger x := by
  simp only [decodeSeq, h]; rfl

theorem decodeSeq_decMulDiv (x : W32) (h : Fld.major x = 0x02) : decodeSeq x = decMulDiv x := by
  simp only [decodeSeq, h]; rfl

theorem decodeSeq_decCsr (x : W32) (h : Fld.major x = 0x03) : decodeSeq x = decCsr x := by
  simp only [decodeSeq, h]; rfl

theorem decodeSeq_decShiftImm (x : W32) (h : Fld.major x = 0x0B) : decodeSeq x = decShiftImm x := by
  simp only [decodeSeq, h]; rfl

theorem decodeSeq_decSystem (x : W32) (h : Fld.major x = 0x2C) : decodeSeq x = decSystem x := by
  simp only [decodeSeq, h]; rfl

theorem decodeSeq_engine30 (x : W32) (h : Fld.major x = 0x30) : decodeSeq x = decEngine x := by
  simp only [decodeSeq, h]; rfl

theorem decodeSeq_engine31 (x : W32) (h : Fld.major x = 0x31) : decodeSeq x = decEngine x := by
  simp only [decodeSeq, h]; rfl

theorem decodeSeq_engine32 (x : W32) (h : Fld.major x = 0x32) : decodeSeq x = decEngine x := by
  simp only [decodeSeq, h]; rfl

theorem decodeSeq_engine33 (x : W32) (h : Fld.major x = 0x33) : decodeSeq x = decEngine x := by
  simp only [decodeSeq, h]; rfl

theorem decodeSeq_engine34 (x : W32) (h : Fld.major x = 0x34) : decodeSeq x = decEngine x := by
  simp only [decodeSeq, h]; rfl

theorem decodeSeq_engine35 (x : W32) (h : Fld.major x = 0x35) : decodeSeq x = decEngine x := by
  simp only [decodeSeq, h]; rfl

theorem decodeSeq_engine36 (x : W32) (h : Fld.major x = 0x36) : decodeSeq x = decEngine x := by
  simp only [decodeSeq, h]; rfl

theorem decodeSeq_engine37 (x : W32) (h : Fld.major x = 0x37) : decodeSeq x = decEngine x := by
  simp only [decodeSeq, h]; rfl

theorem decodeOp_decScratch (x : W32) (h : bits x 29 3 = 1) : decodeOp x = decScratch x := by
  simp only [decodeOp, h]; rfl

theorem decodeOp_decMemNode (x : W32) (h : bits x 29 3 = 2) : decodeOp x = decMemNode x := by
  simp only [decodeOp, h]; rfl

theorem decodeOp_decMatrix (x : W32) (h : bits x 29 3 = 3) : decodeOp x = decMatrix x := by
  simp only [decodeOp, h]; rfl

theorem decodeOp_decRelay (x : W32) (h : bits x 29 3 = 4) : decodeOp x = decRelay x := by
  simp only [decodeOp, h]; rfl

end Sys2Proof.Laws
end

