-- ==== Sys2Proof/Laws/PerInstr.lean ====
section
/-! SUPPORT. A law of every instruction as syntax: no instruction has both a 32-bit and a 16-bit word. -/

namespace Sys2Proof.Laws.Encoding

open Sys2Proof

/-- At most one of the two encoders gives a word. -/
def Statement (i : Instr) : Prop := encode32 i = none ∨ encode16 i = none

theorem moduleReset : ∀ a0, Statement (.moduleReset a0) := fun _ => .inr rfl
theorem hostLinkTrain : ∀ a0, Statement (.hostLinkTrain a0) := fun _ => .inr rfl
theorem registerWrite : ∀ a0 a1, Statement (.registerWrite a0 a1) := fun _ _ => .inr rfl
theorem luCtlWrite : ∀ a0, Statement (.luCtlWrite a0) := fun _ => .inr rfl
theorem homeMapWrite : ∀ a0 a1, Statement (.homeMapWrite a0 a1) := fun _ _ => .inr rfl
theorem homeMapDepopulate : ∀ a0 a1, Statement (.homeMapDepopulate a0 a1) := fun _ _ => .inr rfl
theorem hsWcfgWrite : ∀ a0 a1, Statement (.hsWcfgWrite a0 a1) := fun _ _ => .inr rfl
theorem luFconsWrite : ∀ a0, Statement (.luFconsWrite a0) := fun _ => .inr rfl
theorem modClkWrite : ∀ a0, Statement (.modClkWrite a0) := fun _ => .inr rfl
theorem clockStepApply : ∀ a0, Statement (.clockStepApply a0) := fun _ => .inr rfl
theorem create : ∀ a0, Statement (.create a0) := fun _ => .inr rfl
theorem teardown : ∀ a0, Statement (.teardown a0) := fun _ => .inr rfl
theorem save : ∀ a0, Statement (.save a0) := fun _ => .inr rfl
theorem restore : ∀ a0, Statement (.restore a0) := fun _ => .inr rfl
theorem answer : ∀ a0, Statement (.answer a0) := fun _ => .inr rfl
theorem shootdown : ∀ a0, Statement (.shootdown a0) := fun _ => .inr rfl
theorem grantSet : ∀ a0, Statement (.grantSet a0) := fun _ => .inr rfl
theorem grantRead : ∀ a0, Statement (.grantRead a0) := fun _ => .inr rfl
theorem grantClear : ∀ a0, Statement (.grantClear a0) := fun _ => .inr rfl
theorem attest : ∀ a0 a1 a2, Statement (.attest a0 a1 a2) := fun _ _ _ => .inr rfl
theorem idkey : ∀ a0 a1, Statement (.idkey a0 a1) := fun _ _ => .inr rfl
theorem logRead : ∀ a0 a1, Statement (.logRead a0 a1) := fun _ _ => .inr rfl
theorem pldmSensorRead : ∀ a0 a1, Statement (.pldmSensorRead a0 a1) := fun _ _ => .inr rfl
theorem pldmFirmwareUpdate : ∀ a0, Statement (.pldmFirmwareUpdate a0) := fun _ => .inr rfl
theorem hostCxlMemRead : ∀ a0 a1, Statement (.hostCxlMemRead a0 a1) := fun _ _ => .inr rfl
theorem hostCxlMemWrite : ∀ a0 a1, Statement (.hostCxlMemWrite a0 a1) := fun _ _ => .inr rfl
theorem hostCacheInvalidation : ∀ a0 a1, Statement (.hostCacheInvalidation a0 a1) := fun _ _ => .inr rfl
theorem halyardInboundAccess : ∀ a0 a1 a2, Statement (.halyardInboundAccess a0 a1 a2) := fun _ _ _ => .inr rfl
theorem halyardFlitRetry : ∀ a0, Statement (.halyardFlitRetry a0) := fun _ => .inr rfl
theorem halyardPortDown : ∀ a0, Statement (.halyardPortDown a0) := fun _ => .inr rfl
theorem remoteAck : ∀ a0 a1, Statement (.remoteAck a0 a1) := fun _ _ => .inr rfl
theorem powerAvgLimit : ∀ a0, Statement (.powerAvgLimit a0) := fun _ => .inr rfl
theorem thermalStep : ∀ a0, Statement (.thermalStep a0) := fun _ => .inr rfl
theorem thermalTrip : ∀ a0, Statement (.thermalTrip a0) := fun _ => .inr rfl
theorem unchargedMemoryError : ∀ a0, Statement (.unchargedMemoryError a0) := fun _ => .inr rfl
theorem queueTailWake : ∀ a0, Statement (.queueTailWake a0) := fun _ => .inr rfl
theorem queueRecordCopy : ∀ a0, Statement (.queueRecordCopy a0) := fun _ => .inr rfl
theorem dependenceWake : ∀ a0 a1, Statement (.dependenceWake a0 a1) := fun _ _ => .inr rfl
theorem launchComplete : ∀ a0, Statement (.launchComplete a0) := fun _ => .inr rfl
theorem siteSave : ∀ a0 a1, Statement (.siteSave a0 a1) := fun _ _ => .inr rfl
theorem contextRestore : ∀ a0, Statement (.contextRestore a0) := fun _ => .inr rfl
theorem watchSweep : ∀ a0, Statement (.watchSweep a0) := fun _ => .inr rfl
theorem watchTimeout : ∀ a0 a1, Statement (.watchTimeout a0 a1) := fun _ _ => .inr rfl
theorem watchSpillMove : ∀ a0 a1, Statement (.watchSpillMove a0 a1) := fun _ _ => .inr rfl
theorem wakeDeliver : ∀ a0, Statement (.wakeDeliver a0) := fun _ => .inr rfl
theorem cfgFetchWake : ∀ a0, Statement (.cfgFetchWake a0) := fun _ => .inr rfl
theorem siteTakeSuccessor : ∀ a0 a1, Statement (.siteTakeSuccessor a0 a1) := fun _ _ => .inr rfl
theorem edgeUnitTakeSuccessor : ∀ a0, Statement (.edgeUnitTakeSuccessor a0) := fun _ => .inr rfl
theorem generatorExtentWalk : ∀ a0, Statement (.generatorExtentWalk a0) := fun _ => .inr rfl
theorem generatorRepatch : ∀ a0, Statement (.generatorRepatch a0) := fun _ => .inr rfl
theorem phaseEnd : ∀ a0, Statement (.phaseEnd a0) := fun _ => .inr rfl
theorem faultReplay : ∀ a0, Statement (.faultReplay a0) := fun _ => .inr rfl
theorem commandComplete : ∀ a0, Statement (.commandComplete a0) := fun _ => .inr rfl
theorem linkTokenSend : ∀ a0 a1, Statement (.linkTokenSend a0 a1) := fun _ _ => .inr rfl
theorem tokenMatch : ∀ a0 a1, Statement (.tokenMatch a0 a1) := fun _ _ => .inr rfl
theorem veSlotFire : ∀ a0 a1, Statement (.veSlotFire a0 a1) := fun _ _ => .inr rfl
theorem roundMarkerArrival : ∀ a0 a1, Statement (.roundMarkerArrival a0 a1) := fun _ _ => .inr rfl
theorem accTake : ∀ a0 a1 a2, Statement (.accTake a0 a1 a2) := fun _ _ _ => .inr rfl
theorem stopToken : ∀ a0 a1, Statement (.stopToken a0 a1) := fun _ _ => .inr rfl
theorem loopRoundSignal : ∀ a0, Statement (.loopRoundSignal a0) := fun _ => .inr rfl
theorem controlTokenApply : ∀ a0 a1 a2, Statement (.controlTokenApply a0 a1 a2) := fun _ _ _ => .inr rfl
theorem exitPortFire : ∀ a0, Statement (.exitPortFire a0) := fun _ => .inr rfl
theorem mnLanePerform : ∀ a0 a1, Statement (.mnLanePerform a0 a1) := fun _ _ => .inr rfl
theorem bankEvict : ∀ a0 a1, Statement (.bankEvict a0 a1) := fun _ _ => .inr rfl
theorem bankPrefetch : ∀ a0 a1, Statement (.bankPrefetch a0 a1) := fun _ _ => .inr rfl
theorem mfenceComplete : ∀ a0, Statement (.mfenceComplete a0) := fun _ => .inr rfl
theorem suHoldingAccess : ∀ a0 a1, Statement (.suHoldingAccess a0 a1) := fun _ _ => .inr rfl
theorem cbRequestServe : ∀ a0 a1, Statement (.cbRequestServe a0 a1) := fun _ _ => .inr rfl
theorem streamDispatch : ∀ a0, Statement (.streamDispatch a0) := fun _ => .inr rfl
theorem generatorElement : ∀ a0, Statement (.generatorElement a0) := fun _ => .inr rfl
theorem loadPortEmit : ∀ a0, Statement (.loadPortEmit a0) := fun _ => .inr rfl
theorem storePortConsume : ∀ a0, Statement (.storePortConsume a0) := fun _ => .inr rfl
theorem streamComplete : ∀ a0, Statement (.streamComplete a0) := fun _ => .inr rfl
theorem sxBarComplete : ∀ a0, Statement (.sxBarComplete a0) := fun _ => .inr rfl
theorem mcastStallBudget : ∀ a0, Statement (.mcastStallBudget a0) := fun _ => .inr rfl
theorem tilePortRead : ∀ a0, Statement (.tilePortRead a0) := fun _ => .inr rfl
theorem capBindingDone : ∀ a0, Statement (.capBindingDone a0) := fun _ => .inr rfl
theorem capBagResult : ∀ a0, Statement (.capBagResult a0) := fun _ => .inr rfl
theorem capRowUpdate : ∀ a0, Statement (.capRowUpdate a0) := fun _ => .inr rfl
theorem scanCombine : ∀ a0, Statement (.scanCombine a0) := fun _ => .inr rfl
theorem illegalInstruction : ∀ a0, Statement (.illegalInstruction a0) := fun _ => .inr rfl
theorem add : ∀ a0 a1 a2, Statement (.add a0 a1 a2) := fun _ _ _ => .inr rfl
theorem sub : ∀ a0 a1 a2, Statement (.sub a0 a1 a2) := fun _ _ _ => .inr rfl
theorem and : ∀ a0 a1 a2, Statement (.and a0 a1 a2) := fun _ _ _ => .inr rfl
theorem or : ∀ a0 a1 a2, Statement (.or a0 a1 a2) := fun _ _ _ => .inr rfl
theorem xor : ∀ a0 a1 a2, Statement (.xor a0 a1 a2) := fun _ _ _ => .inr rfl
theorem andn : ∀ a0 a1 a2, Statement (.andn a0 a1 a2) := fun _ _ _ => .inr rfl
theorem sll : ∀ a0 a1 a2, Statement (.sll a0 a1 a2) := fun _ _ _ => .inr rfl
theorem srl : ∀ a0 a1 a2, Statement (.srl a0 a1 a2) := fun _ _ _ => .inr rfl
theorem sra : ∀ a0 a1 a2, Statement (.sra a0 a1 a2) := fun _ _ _ => .inr rfl
theorem slt : ∀ a0 a1 a2, Statement (.slt a0 a1 a2) := fun _ _ _ => .inr rfl
theorem sltu : ∀ a0 a1 a2, Statement (.sltu a0 a1 a2) := fun _ _ _ => .inr rfl
theorem seq : ∀ a0 a1 a2, Statement (.seq a0 a1 a2) := fun _ _ _ => .inr rfl
theorem min : ∀ a0 a1 a2, Statement (.min a0 a1 a2) := fun _ _ _ => .inr rfl
theorem minu : ∀ a0 a1 a2, Statement (.minu a0 a1 a2) := fun _ _ _ => .inr rfl
theorem max : ∀ a0 a1 a2, Statement (.max a0 a1 a2) := fun _ _ _ => .inr rfl
theorem maxu : ∀ a0 a1 a2, Statement (.maxu a0 a1 a2) := fun _ _ _ => .inr rfl
theorem clz : ∀ a0 a1, Statement (.clz a0 a1) := fun _ _ => .inr rfl
theorem ctz : ∀ a0 a1, Statement (.ctz a0 a1) := fun _ _ => .inr rfl
theorem popc : ∀ a0 a1, Statement (.popc a0 a1) := fun _ _ => .inr rfl
theorem mul : ∀ a0 a1 a2, Statement (.mul a0 a1 a2) := fun _ _ _ => .inr rfl
theorem mulh : ∀ a0 a1 a2, Statement (.mulh a0 a1 a2) := fun _ _ _ => .inr rfl
theorem mulhu : ∀ a0 a1 a2, Statement (.mulhu a0 a1 a2) := fun _ _ _ => .inr rfl
theorem mulhsu : ∀ a0 a1 a2, Statement (.mulhsu a0 a1 a2) := fun _ _ _ => .inr rfl
theorem div : ∀ a0 a1 a2, Statement (.div a0 a1 a2) := fun _ _ _ => .inr rfl
theorem divu : ∀ a0 a1 a2, Statement (.divu a0 a1 a2) := fun _ _ _ => .inr rfl
theorem rem : ∀ a0 a1 a2, Statement (.rem a0 a1 a2) := fun _ _ _ => .inr rfl
theorem remu : ∀ a0 a1 a2, Statement (.remu a0 a1 a2) := fun _ _ _ => .inr rfl
theorem csrr : ∀ a0 a1, Statement (.csrr a0 a1) := fun _ _ => .inr rfl
theorem csrw : ∀ a0 a1 a2, Statement (.csrw a0 a1 a2) := fun _ _ _ => .inr rfl
theorem csrs : ∀ a0 a1 a2, Statement (.csrs a0 a1 a2) := fun _ _ _ => .inr rfl
theorem csrc : ∀ a0 a1 a2, Statement (.csrc a0 a1 a2) := fun _ _ _ => .inr rfl
theorem addi : ∀ a0 a1 a2, Statement (.addi a0 a1 a2) := fun _ _ _ => .inr rfl
theorem andi : ∀ a0 a1 a2, Statement (.andi a0 a1 a2) := fun _ _ _ => .inr rfl
theorem ori : ∀ a0 a1 a2, Statement (.ori a0 a1 a2) := fun _ _ _ => .inr rfl
theorem xori : ∀ a0 a1 a2, Statement (.xori a0 a1 a2) := fun _ _ _ => .inr rfl
theorem slti : ∀ a0 a1 a2, Statement (.slti a0 a1 a2) := fun _ _ _ => .inr rfl
theorem sltiu : ∀ a0 a1 a2, Statement (.sltiu a0 a1 a2) := fun _ _ _ => .inr rfl
theorem lui : ∀ a0 a1, Statement (.lui a0 a1) := fun _ _ => .inr rfl
theorem slli : ∀ a0 a1 a2, Statement (.slli a0 a1 a2) := fun _ _ _ => .inr rfl
theorem srli : ∀ a0 a1 a2, Statement (.srli a0 a1 a2) := fun _ _ _ => .inr rfl
theorem srai : ∀ a0 a1 a2, Statement (.srai a0 a1 a2) := fun _ _ _ => .inr rfl
theorem lb : ∀ a0 a1 a2, Statement (.lb a0 a1 a2) := fun _ _ _ => .inr rfl
theorem lbu : ∀ a0 a1 a2, Statement (.lbu a0 a1 a2) := fun _ _ _ => .inr rfl
theorem lh : ∀ a0 a1 a2, Statement (.lh a0 a1 a2) := fun _ _ _ => .inr rfl
theorem lhu : ∀ a0 a1 a2, Statement (.lhu a0 a1 a2) := fun _ _ _ => .inr rfl
theorem lw : ∀ a0 a1 a2, Statement (.lw a0 a1 a2) := fun _ _ _ => .inr rfl
theorem lwu : ∀ a0 a1 a2, Statement (.lwu a0 a1 a2) := fun _ _ _ => .inr rfl
theorem ld : ∀ a0 a1 a2, Statement (.ld a0 a1 a2) := fun _ _ _ => .inr rfl
theorem stb : ∀ a0 a1 a2, Statement (.stb a0 a1 a2) := fun _ _ _ => .inr rfl
theorem sth : ∀ a0 a1 a2, Statement (.sth a0 a1 a2) := fun _ _ _ => .inr rfl
theorem stw : ∀ a0 a1 a2, Statement (.stw a0 a1 a2) := fun _ _ _ => .inr rfl
theorem std : ∀ a0 a1 a2, Statement (.std a0 a1 a2) := fun _ _ _ => .inr rfl
theorem beq : ∀ a0 a1 a2, Statement (.beq a0 a1 a2) := fun _ _ _ => .inr rfl
theorem bne : ∀ a0 a1 a2, Statement (.bne a0 a1 a2) := fun _ _ _ => .inr rfl
theorem blt : ∀ a0 a1 a2, Statement (.blt a0 a1 a2) := fun _ _ _ => .inr rfl
theorem bge : ∀ a0 a1 a2, Statement (.bge a0 a1 a2) := fun _ _ _ => .inr rfl
theorem bltu : ∀ a0 a1 a2, Statement (.bltu a0 a1 a2) := fun _ _ _ => .inr rfl
theorem bgeu : ∀ a0 a1 a2, Statement (.bgeu a0 a1 a2) := fun _ _ _ => .inr rfl
theorem j : ∀ a0, Statement (.j a0) := fun _ => .inr rfl
theorem jal : ∀ a0, Statement (.jal a0) := fun _ => .inr rfl
theorem jalr : ∀ a0 a1 a2, Statement (.jalr a0 a1 a2) := fun _ _ _ => .inr rfl
theorem fence : ∀ a0, Statement (.fence a0) := fun _ => .inr rfl
theorem trap : ∀ a0, Statement (.trap a0) := fun _ => .inr rfl
theorem waitp : ∀ a0, Statement (.waitp a0) := fun _ => .inr rfl
theorem cfgFetch : ∀ a0 a1 a2 a3, Statement (.cfgFetch a0 a1 a2 a3) := fun _ _ _ _ => .inr rfl
theorem cfgPlace : ∀ a0 a1 a2 a3, Statement (.cfgPlace a0 a1 a2 a3) := fun _ _ _ _ => .inr rfl
theorem cfgStitch : ∀ a0 a1 a2 a3, Statement (.cfgStitch a0 a1 a2 a3) := fun _ _ _ _ => .inr rfl
theorem cfgStart : ∀ a0 a1 a2, Statement (.cfgStart a0 a1 a2) := fun _ _ _ => .inr rfl
theorem cfgSplice : ∀ a0 a1 a2 a3, Statement (.cfgSplice a0 a1 a2 a3) := fun _ _ _ _ => .inr rfl
theorem cfgDrain : ∀ a0 a1 a2, Statement (.cfgDrain a0 a1 a2) := fun _ _ _ => .inr rfl
theorem cfgEvict : ∀ a0 a1, Statement (.cfgEvict a0 a1) := fun _ _ => .inr rfl
theorem cfgPatch : ∀ a0 a1 a2, Statement (.cfgPatch a0 a1 a2) := fun _ _ _ => .inr rfl
theorem cfgInv : ∀ a0 a1 a2 a3, Statement (.cfgInv a0 a1 a2 a3) := fun _ _ _ _ => .inr rfl
theorem sxBind : ∀ a0 a1 a2 a3, Statement (.sxBind a0 a1 a2 a3) := fun _ _ _ _ => .inr rfl
theorem sxGo : ∀ a0 a1, Statement (.sxGo a0 a1) := fun _ _ => .inr rfl
theorem sxBar : ∀ a0 a1 a2, Statement (.sxBar a0 a1 a2) := fun _ _ _ => .inr rfl
theorem sxMcast : ∀ a0 a1 a2 a3, Statement (.sxMcast a0 a1 a2 a3) := fun _ _ _ _ => .inr rfl
theorem sxStop : ∀ a0 a1, Statement (.sxStop a0 a1) := fun _ _ => .inr rfl
theorem sxQuery : ∀ a0 a1, Statement (.sxQuery a0 a1) := fun _ _ => .inr rfl
theorem sxSparse : ∀ a0 a1 a2 a3, Statement (.sxSparse a0 a1 a2 a3) := fun _ _ _ _ => .inr rfl
theorem sxRemote : ∀ a0 a1 a2 a3, Statement (.sxRemote a0 a1 a2 a3) := fun _ _ _ _ => .inr rfl
theorem sxWbload : ∀ a0 a1 a2 a3, Statement (.sxWbload a0 a1 a2 a3) := fun _ _ _ _ => .inr rfl
theorem sxTile : ∀ a0 a1 a2 a3, Statement (.sxTile a0 a1 a2 a3) := fun _ _ _ _ => .inr rfl
theorem mxZero : ∀ a0 a1 a2, Statement (.mxZero a0 a1 a2) := fun _ _ _ => .inr rfl
theorem mxMove : ∀ a0 a1 a2, Statement (.mxMove a0 a1 a2) := fun _ _ _ => .inr rfl
theorem mxLdsh : ∀ a0 a1 a2 a3, Statement (.mxLdsh a0 a1 a2 a3) := fun _ _ _ _ => .inr rfl
theorem mxLdwd : ∀ a0 a1 a2 a3, Statement (.mxLdwd a0 a1 a2 a3) := fun _ _ _ _ => .inr rfl
theorem mxTag : ∀ a0 a1, Statement (.mxTag a0 a1) := fun _ _ => .inr rfl
theorem bsQuery : ∀ a0 a1, Statement (.bsQuery a0 a1) := fun _ _ => .inr rfl
theorem bsSeed : ∀ a0 a1 a2, Statement (.bsSeed a0 a1 a2) := fun _ _ _ => .inr rfl
theorem bsPolicy : ∀ a0 a1 a2, Statement (.bsPolicy a0 a1 a2) := fun _ _ _ => .inr rfl
theorem bsUniform : ∀ a0 a1, Statement (.bsUniform a0 a1) := fun _ _ => .inr rfl
theorem bsRound : ∀ a0 a1 a2, Statement (.bsRound a0 a1 a2) := fun _ _ _ => .inr rfl
theorem amo : ∀ a0 a1 a2 a3 a4, Statement (.amo a0 a1 a2 a3 a4) := fun _ _ _ _ _ => .inr rfl
theorem waitu : ∀ a0 a1 a2, Statement (.waitu a0 a1 a2) := fun _ _ _ => .inr rfl
theorem wcancel : ∀ a0 a1 a2, Statement (.wcancel a0 a1 a2) := fun _ _ _ => .inr rfl
theorem cpin : ∀ a0 a1, Statement (.cpin a0 a1) := fun _ _ => .inr rfl
theorem cunpin : ∀ a0 a1, Statement (.cunpin a0 a1) := fun _ _ => .inr rfl
theorem embPool : ∀ a0 a1 a2 a3, Statement (.embPool a0 a1 a2 a3) := fun _ _ _ _ => .inr rfl
theorem embGather : ∀ a0 a1 a2 a3, Statement (.embGather a0 a1 a2 a3) := fun _ _ _ _ => .inr rfl
theorem embScatadd : ∀ a0 a1 a2 a3, Statement (.embScatadd a0 a1 a2 a3) := fun _ _ _ _ => .inr rfl
theorem nbDrain : ∀ a0 a1, Statement (.nbDrain a0 a1) := fun _ _ => .inr rfl
theorem ctxYield : ∀ a0, Statement (.ctxYield a0) := fun _ => .inr rfl
theorem ctxMark : ∀ a0, Statement (.ctxMark a0) := fun _ => .inr rfl
theorem ctxFault : ∀ a0 a1 a2, Statement (.ctxFault a0 a1 a2) := fun _ _ _ => .inr rfl
theorem scld : ∀ a0 a1 a2 a3, Statement (.scld a0 a1 a2 a3) := fun _ _ _ _ => .inr rfl
theorem scst : ∀ a0 a1 a2 a3 a4, Statement (.scst a0 a1 a2 a3 a4) := fun _ _ _ _ _ => .inr rfl
theorem scamoAdd : ∀ a0 a1 a2 a3 a4, Statement (.scamoAdd a0 a1 a2 a3 a4) := fun _ _ _ _ _ => .inr rfl
theorem scamoMin : ∀ a0 a1 a2 a3 a4, Statement (.scamoMin a0 a1 a2 a3 a4) := fun _ _ _ _ _ => .inr rfl
theorem scamoMax : ∀ a0 a1 a2 a3 a4, Statement (.scamoMax a0 a1 a2 a3 a4) := fun _ _ _ _ _ => .inr rfl
theorem scamoAnd : ∀ a0 a1 a2 a3, Statement (.scamoAnd a0 a1 a2 a3) := fun _ _ _ _ => .inr rfl
theorem scamoOr : ∀ a0 a1 a2 a3, Statement (.scamoOr a0 a1 a2 a3) := fun _ _ _ _ => .inr rfl
theorem scamoXor : ∀ a0 a1 a2 a3, Statement (.scamoXor a0 a1 a2 a3) := fun _ _ _ _ => .inr rfl
theorem scamoSwap : ∀ a0 a1 a2 a3, Statement (.scamoSwap a0 a1 a2 a3) := fun _ _ _ _ => .inr rfl
theorem scamoCas : ∀ a0 a1 a2 a3 a4, Statement (.scamoCas a0 a1 a2 a3 a4) := fun _ _ _ _ _ => .inr rfl
theorem cbput : ∀ a0 a1, Statement (.cbput a0 a1) := fun _ _ => .inr rfl
theorem cbget : ∀ a0 a1, Statement (.cbget a0 a1) := fun _ _ => .inr rfl
theorem cbadv : ∀ a0 a1 a2, Statement (.cbadv a0 a1 a2) := fun _ _ _ => .inr rfl
theorem cbwait : ∀ a0 a1 a2, Statement (.cbwait a0 a1 a2) := fun _ _ _ => .inr rfl
theorem mtfill : ∀ a0 a1 a2 a3, Statement (.mtfill a0 a1 a2 a3) := fun _ _ _ _ => .inr rfl
theorem mttag : ∀ a0, Statement (.mttag a0) := fun _ => .inr rfl
theorem mld : ∀ a0 a1 a2 a3, Statement (.mld a0 a1 a2 a3) := fun _ _ _ _ => .inr rfl
theorem mst : ∀ a0 a1 a2 a3 a4, Statement (.mst a0 a1 a2 a3 a4) := fun _ _ _ _ _ => .inr rfl
theorem mldNc : ∀ a0 a1 a2 a3, Statement (.mldNc a0 a1 a2 a3) := fun _ _ _ _ => .inr rfl
theorem mstNc : ∀ a0 a1 a2 a3 a4, Statement (.mstNc a0 a1 a2 a3 a4) := fun _ _ _ _ _ => .inr rfl
theorem mgath : ∀ a0 a1 a2 a3, Statement (.mgath a0 a1 a2 a3) := fun _ _ _ _ => .inr rfl
theorem mscat : ∀ a0 a1 a2 a3 a4, Statement (.mscat a0 a1 a2 a3 a4) := fun _ _ _ _ _ => .inr rfl
theorem mfence : ∀ a0 a1 a2, Statement (.mfence a0 a1 a2) := fun _ _ _ => .inr rfl
theorem mflush : ∀ a0 a1 a2, Statement (.mflush a0 a1 a2) := fun _ _ _ => .inr rfl
theorem minv : ∀ a0 a1 a2, Statement (.minv a0 a1 a2) := fun _ _ _ => .inr rfl
theorem mamoAdd : ∀ a0 a1 a2 a3 a4, Statement (.mamoAdd a0 a1 a2 a3 a4) := fun _ _ _ _ _ => .inr rfl
theorem mamoMin : ∀ a0 a1 a2 a3 a4, Statement (.mamoMin a0 a1 a2 a3 a4) := fun _ _ _ _ _ => .inr rfl
theorem mamoMax : ∀ a0 a1 a2 a3 a4, Statement (.mamoMax a0 a1 a2 a3 a4) := fun _ _ _ _ _ => .inr rfl
theorem mamoAnd : ∀ a0 a1 a2 a3, Statement (.mamoAnd a0 a1 a2 a3) := fun _ _ _ _ => .inr rfl
theorem mamoOr : ∀ a0 a1 a2 a3, Statement (.mamoOr a0 a1 a2 a3) := fun _ _ _ _ => .inr rfl
theorem mamoXor : ∀ a0 a1 a2 a3, Statement (.mamoXor a0 a1 a2 a3) := fun _ _ _ _ => .inr rfl
theorem mamoSwap : ∀ a0 a1 a2 a3, Statement (.mamoSwap a0 a1 a2 a3) := fun _ _ _ _ => .inr rfl
theorem mamoCas : ∀ a0 a1 a2 a3 a4, Statement (.mamoCas a0 a1 a2 a3 a4) := fun _ _ _ _ _ => .inr rfl
theorem mwaitu : ∀ a0 a1 a2 a3 a4 a5, Statement (.mwaitu a0 a1 a2 a3 a4 a5) := fun _ _ _ _ _ _ => .inr rfl
theorem mxMma : ∀ a0 a1 a2 a3 a4 a5 a6 a7 a8, Statement (.mxMma a0 a1 a2 a3 a4 a5 a6 a7 a8) := fun _ _ _ _ _ _ _ _ _ => .inr rfl
theorem mxMmas : ∀ a0 a1 a2 a3 a4 a5 a6 a7 a8, Statement (.mxMmas a0 a1 a2 a3 a4 a5 a6 a7 a8) := fun _ _ _ _ _ _ _ _ _ => .inr rfl
theorem nbScan : ∀ a0 a1 a2, Statement (.nbScan a0 a1 a2) := fun _ _ _ => .inr rfl
theorem swRoute : ∀ a0 a1 a2, Statement (.swRoute a0 a1 a2) := fun _ _ _ => .inl rfl
theorem swFork : ∀ a0 a1 a2, Statement (.swFork a0 a1 a2) := fun _ _ _ => .inl rfl
theorem swMerge : ∀ a0 a1 a2 a3, Statement (.swMerge a0 a1 a2 a3) := fun _ _ _ _ => .inl rfl
theorem swGate : ∀ a0 a1 a2 a3, Statement (.swGate a0 a1 a2 a3) := fun _ _ _ _ => .inl rfl
theorem swSteer : ∀ a0 a1 a2 a3 a4, Statement (.swSteer a0 a1 a2 a3 a4) := fun _ _ _ _ _ => .inl rfl
theorem swBound : ∀ a0 a1 a2 a3, Statement (.swBound a0 a1 a2 a3) := fun _ _ _ _ => .inl rfl
theorem swNull : ∀ a0 a1 a2 a3, Statement (.swNull a0 a1 a2 a3) := fun _ _ _ _ => .inl rfl
theorem swSink : ∀ a0, Statement (.swSink a0) := fun _ => .inl rfl
theorem swSrc : ∀ a0 a1 a2, Statement (.swSrc a0 a1 a2) := fun _ _ _ => .inl rfl
theorem swCtl : ∀ a0, Statement (.swCtl a0) := fun _ => .inl rfl
theorem swOrd : ∀ a0 a1 a2, Statement (.swOrd a0 a1 a2) := fun _ _ _ => .inl rfl
theorem sequencerFetch : ∀ a0, Statement (.sequencerFetch a0) := fun _ => .inr rfl
theorem firmwareMemoryAccess : ∀ a0 a1, Statement (.firmwareMemoryAccess a0 a1) := fun _ _ => .inr rfl
theorem trustBoot : Statement .trustBoot := .inr rfl
theorem qsync : Statement .qsync := .inr rfl
theorem powerFastLimit : Statement .powerFastLimit := .inr rfl
theorem launchPick : Statement .launchPick := .inr rfl
theorem launchStart : Statement .launchStart := .inr rfl
theorem chainedCohortStart : Statement .chainedCohortStart := .inr rfl
theorem cohortRetire : Statement .cohortRetire := .inr rfl
theorem faultRingWrite : Statement .faultRingWrite := .inr rfl
theorem sequencerSave : Statement .sequencerSave := .inr rfl
theorem coreSaved : Statement .coreSaved := .inr rfl
theorem threadWake : Statement .threadWake := .inr rfl
theorem coreQuiescent : Statement .coreQuiescent := .inr rfl
theorem bsDecision : Statement .bsDecision := .inr rfl
theorem bsInjectRun : Statement .bsInjectRun := .inr rfl
theorem roundPoint : Statement .roundPoint := .inr rfl
theorem mxFireComplete : Statement .mxFireComplete := .inr rfl
theorem nuReceive : Statement .nuReceive := .inr rfl
theorem ndEndMark : Statement .ndEndMark := .inr rfl
theorem ifence : Statement .ifence := .inr rfl
theorem tret : Statement .tret := .inr rfl
theorem kend : Statement .kend := .inr rfl
theorem mord : Statement .mord := .inr rfl
theorem nbFwd : Statement .nbFwd := .inr rfl
theorem coreCycle : Statement .coreCycle := .inr rfl

end Sys2Proof.Laws.Encoding
end

