-- ==== Sys2Proof/Laws/Turns.lean ====
section
/-! SUPPORT. What follows from a turn, and a load that performs ahead of its turn: everything each can do. -/

namespace Sys2Proof.Laws

open Sys2Proof.Machine

/-- BUSY stays as it is or clears; nothing else changes. -/
theorem settleBusy_cases (s : State) : settleBusy s = s ∨ settleBusy s = { s with lu := { s.lu with busy := none } } := by
  unfold settleBusy
  split
  · split <;> simp
  · split <;> simp
  · exact .inr rfl

/-- With nothing BUSY it changes nothing. -/
theorem settleBusy_idle (s : State) (h : s.lu.busy = none) : settleBusy s = s := by
  rcases settleBusy_cases s with e | e
  · exact e
  · rw [e, ← h]

/-- A core without regions has no sum to settle. -/
theorem settleSums_none (c : Core) (h : c.regions = []) : settleSums c = c := by simp [settleSums, h]

/-- All that follows from a turn: the cores' sums settle, and BUSY stays or clears. -/
theorem afterTurn_cases (s : State) : ∃ b, (b = s.lu.busy ∨ b = none) ∧
    afterTurn s = { s with cores := s.cores.map fun e => (e.1, settleSums e.2), lu := { s.lu with busy := b } } := by
  rcases settleBusy_cases { s with cores := s.cores.map fun e => (e.1, settleSums e.2) } with e | e
  · exact ⟨s.lu.busy, .inl rfl, e⟩
  · exact ⟨none, .inr rfl, e⟩

@[simp] theorem afterTurn_mem (s : State) : (afterTurn s).mem = s.mem := by obtain ⟨b, -, e⟩ := afterTurn_cases s; rw [e]
@[simp] theorem afterTurn_ctxs (s : State) : (afterTurn s).ctxs = s.ctxs := by obtain ⟨b, -, e⟩ := afterTurn_cases s; rw [e]
@[simp] theorem afterTurn_launches (s : State) : (afterTurn s).launches = s.launches := by obtain ⟨b, -, e⟩ := afterTurn_cases s; rw [e]
@[simp] theorem afterTurn_fbuf (s : State) : (afterTurn s).lu.fbuf = s.lu.fbuf := by obtain ⟨b, -, e⟩ := afterTurn_cases s; rw [e]
@[simp] theorem afterTurn_mod (s : State) : (afterTurn s).mod = s.mod := by obtain ⟨b, -, e⟩ := afterTurn_cases s; rw [e]
@[simp] theorem afterTurn_trust (s : State) : (afterTurn s).trust = s.trust := by obtain ⟨b, -, e⟩ := afterTurn_cases s; rw [e]

/-- All that a load ahead of its turn can do: nothing, or the eight bytes of an aligned place without an error are kept for the
sequencer's next load (R160). -/
theorem loadEarly_cases (s : State) (n pa : Nat) : loadEarly s n pa = s ∨
    (issuing (coreAt s n).seq = true ∧ (coreAt s n).unstored = none ∧ pa % 8 = 0 ∧ placeBad s pa 8 = false ∧
      loadEarly s n pa = setCore s n { coreAt s n with early := some (pa, memRead s.mem pa 8) }) := by
  by_cases h : (!issuing (coreAt s n).seq || (coreAt s n).unstored.isSome || pa % 8 ≠ 0 || placeBad s pa 8) = true
  · exact .inl (if_pos h)
  · refine .inr ⟨?_, ?_, ?_, ?_, if_neg h⟩ <;> simp only [Bool.or_eq_true, not_or] at h
    · simpa using h.1.1.1
    · simpa using h.1.1.2
    · simpa using h.1.2
    · simpa using h.2

end Sys2Proof.Laws
end

