-- ==== Sys2Proof/Tests/Slice0.lean ====
section
/-! SUPPORT. The model's own tests: words of the spec's encodings, ill-formed terms, and for each statement with hypotheses
a state and operands that meet them. Expected values come from the spec's tables or are worked out by hand from its rules. -/

namespace Sys2Proof.Tests

-- One proof after another: each kernel evaluation takes a thread with a large stack.
set_option Elab.async false

open Sys2Proof Sys2Proof.Machine Sys2Proof.Claim

-- well-formedness: one ill-formed term for each check -------------------------------------------------------------

/-- R135, R105, R109, R104, R405: a register number past 0x0A, operands past s31, a scope past .m, amo pairings. -/
theorem test_illFormed_sequencer : [Instr.csrr 1 0x0B, .csrw 1 1 0x0B, .csrs 1 1 0xFF, .csrc 1 1 0x0B, .fence 6,
    .sxRemote 1 31 2 0, .amo 1 31 2 7 0, .amo 1 2 3 0 5, .amo 1 2 3 3 4, .waitu 31 1 2, .waitu 1 30 2, .embPool 1 31 2 0,
    .embGather 1 31 2 0, .embScatadd 1 31 2 0].all (fun i => !WellFormed i) = true := by decide

/-- R269: source and destination selects and types of scratchpad words. -/
theorem test_illFormed_scratchpad : [Instr.scld 3 0 4 0, .scld 0 3 4 0, .scst 0 0 6 4 0, .scamoAdd 5 0 0 5 0,
    .scamoAdd 0 0 0 4 0, .scamoMin 0 3 0 5 0, .scamoMax 0 0 3 5 0, .scamoAnd 7 0 0 0, .scamoOr 0 7 0 0, .scamoXor 0 0 7 0,
    .scamoSwap 5 0 0 0, .scamoCas 0 0 0 3 0, .cbput 3 0, .cbget 0 3, .cbadv 3 0 0, .cbwait 0 7 1, .mtfill 0 0 0 1,
    .mttag 3].all (fun i => !WellFormed i) = true := by decide

/-- R285, R296, R109: selects, scopes, kinds and types of memory-node words. -/
theorem test_illFormed_memoryNode : [Instr.mld 3 0 4 0, .mld 0 4 4 0, .mld 0 0 4 6, .mst 0 0 4 4 0, .mldNc 3 0 4 0,
    .mstNc 0 3 0 4 0, .mgath 0 7 4 0, .mscat 0 0 3 4 0, .mfence 0 0 0, .mfence 0 4 0, .mfence 0 1 7, .mflush 3 0 0,
    .minv 0 4 0, .mamoAdd 0 0 0 4 0, .mamoMin 0 0 3 5 0, .mamoMax 0 3 0 5 0, .mamoAnd 3 0 0 0, .mamoOr 0 4 0 0,
    .mamoXor 0 0 4 0, .mamoSwap 0 0 0 6, .mamoCas 0 0 0 4 0, .mwaitu 0 0 0 7 0 0, .mwaitu 0 0 0 6 1 0,
    .mwaitu 0 0 1 0 0 0].all (fun i => !WellFormed i) = true := by decide

/-- R114, R115: an A tile inside its group; scan modes and types. -/
theorem test_illFormed_matrixRelay : [Instr.mxMma 5 1 0 0 0 0 0 0 0, .mxMmas 0 0 0 0 0 0 0 0 0, .nbScan 2 0 0,
    .nbScan 0 0 4, .nbScan 0 0 3, .nbScan 3 1 0].all (fun i => !WellFormed i) = true := by decide

/-- R117, R118: unassigned ports and scopes, an output equal to an input, an empty or returning fork. -/
theorem test_illFormed_switch : [Instr.swRoute 6 0 0, .swRoute 1 1 0, .swFork 0 0 0, .swFork 0 0 1, .swMerge 1 0 1 0,
    .swMerge 0 6 1 0, .swGate 1 2 1 0, .swGate 2 2 1 0, .swSteer 0 1 0 1 0, .swSteer 0 0 0 1 0, .swBound 0 1 6 0,
    .swBound 1 1 0 0, .swNull 0 1 3 0, .swNull 1 1 0 0, .swSink 7, .swSrc 6 0 0, .swCtl 6,
    .swOrd 3 3 0].all (fun i => !WellFormed i) = true := by decide

-- decoding: words written field by field from section 4's formats ---------------------------------------------------

/-- R101, R145 to R149, R153, R157: major, rd, ra, rb or immediate, function. -/
theorem test_decode_sequencer :
    (decodeSeq 0b000001_00101_00110_00111_00000000001#32).toOption = some (.sub 5 6 7) ∧
    (decodeSeq 0b000010_11111_00001_00010_00000000111#32).toOption = some (.remu 31 1 2) ∧
    (decodeSeq 0b000011_00100_00101_00000_011_00001010#32).toOption = some (.csrc 4 5 10) ∧
    (decodeSeq 0b001000_00011_00100_1000000000000000#32).toOption = some (.slti 3 4 0x8000) ∧
    (decodeSeq 0b001011_00011_00100_000000_01_00_111111#32).toOption = some (.srli 3 4 63) ∧
    (decodeSeq 0b010100_00001_00010_1111111111111100#32).toOption = some (.lw 1 2 0xFFFC) ∧
    (decodeSeq 0b011011_00001_00010_0000000000001000#32).toOption = some (.std 1 2 8) ∧
    (decodeSeq 0b100101_00001_00010_0000000000000011#32).toOption = some (.bgeu 1 2 3) ∧
    (decodeSeq 0b100111_11111111111111111111111111#32).toOption = some (.jal 0x3FFFFFF) ∧
    (decodeSeq 0b101000_11111_00001_0000000000000100#32).toOption = some (.jalr 31 1 4) ∧
    (decodeSeq 0b101101_00000_00000_00000_000_10000001#32).toOption = some (.waitp 0x81) := by decide

/-- R103 to R105: format SE of the engine commands and of amo. -/
theorem test_decode_commands :
    (decodeSeq 0b110000_00001_00010_00011_101_00000100#32).toOption = some (.cfgSplice 1 2 3 5) ∧
    (decodeSeq 0b110001_00001_00010_00011_111_00001001#32).toOption = some (.sxTile 1 2 3 7) ∧
    (decodeSeq 0b110010_00001_00010_00000_001_00000001#32).toOption = some (.mxMove 1 2 1) ∧
    (decodeSeq 0b110011_00001_00010_00011_000_00000010#32).toOption = some (.bsPolicy 1 2 3) ∧
    (decodeSeq 0b110100_00001_00010_00011_000_00_111_011#32).toOption = some (.amo 1 2 3 7 3) ∧
    (decodeSeq 0b110100_00001_00010_00011_000_01000000#32).toOption = some (.waitu 1 2 3) ∧
    (decodeSeq 0b110101_00001_00010_00011_010_00000010#32).toOption = some (.embScatadd 1 2 3 2) ∧
    (decodeSeq 0b110110_00001_00000_00000_110_00000000#32).toOption = some (.nbDrain 1 6) ∧
    (decodeSeq 0b110111_00001_00010_00011_000_00000010#32).toOption = some (.ctxFault 1 2 3) := by decide

/-- R107, R112 to R115: class, opcode, dst, srcA, srcB, srcC, ty, rnd, sat, mod; matrix fields. -/
theorem test_decode_operationWords :
    (decodeOp 0b001_0000001_001_000_100_000_100_000_0_011#32).toOption = some (.scst 1 0 4 4 3) ∧
    (decodeOp 0b001_0001111_011_000_001_010_100_000_0_111#32).toOption = some (.scamoCas 3 0 1 2 7) ∧
    (decodeOp 0b001_0010010_001_000_000_000_100_000_0_001#32).toOption = some (.cbadv 1 0 1) ∧
    (decodeOp 0b001_0011000_000_000_001_000_010_000_0_000#32).toOption = some (.mtfill 0 0 1 2) ∧
    (decodeOp 0b010_0000101_001_000_001_000_100_000_0_001#32).toOption = some (.mscat 1 0 1 4 1) ∧
    (decodeOp 0b010_0001001_010_000_000_000_000_000_0_000#32).toOption = some .mord ∧
    (decodeOp 0b010_0011000_000_000_001_010_110_000_0_000#32).toOption = some (.mwaitu 0 1 2 6 0 0) ∧
    (decodeOp 0b011_0001_001001_0001_0010_0011_1_0_1_0_1_00#32).toOption = some (.mxMmas 9 1 2 3 1 0 1 0 1) ∧
    (decodeOp 0b100_0000001_000_000_000_000_101_000_0_011#32).toOption = some (.nbScan 5 0 3) ∧
    (decodeOp 0b100_0000000_000_000_000_000_010_000_0_000#32).toOption = some .nbFwd := by decide

/-- R117: opcode [15:12] and the four three-bit fields. -/
theorem test_decode_switchWords :
    (decodeSw 0b0000_001_011_000_101#16).toOption = some (.swRoute 1 3 5) ∧
    (decodeSw 0b0001_001_010_111100#16).toOption = some (.swFork 1 2 0b111100) ∧
    (decodeSw 0b0010_001_011_000_101#16).toOption = some (.swMerge 1 3 0 5) ∧
    (decodeSw 0b0100_001_011_1_010_01#16).toOption = some (.swSteer 1 3 1 2 1) ∧
    (decodeSw 0b0110_001_011_10_0_101#16).toOption = some (.swNull 1 3 2 5) ∧
    (decodeSw 0b0111_100_000_000_000#16).toOption = some (.swSink 4) ∧
    (decodeSw 0b1000_000_011_110_010#16).toOption = some (.swSrc 3 6 2) ∧
    (decodeSw 0b1010_001_011_000_101#16).toOption = some (.swOrd 1 3 5) := by decide

/-- R10, R121: words that are refused, each by name. -/
theorem test_decode_refusals :
    decodeSeq 0xFFFFFFFF#32 = .error .unassignedMajor ∧ decodeSeq 0b000001_00101_00110_00111_00000000110#32 = .error .unassignedFunction ∧
    decodeSeq 0b000001_00101_00110_00001_00000011000#32 = .error .reservedField ∧
    decodeSeq 0b110001_00001_11111_00010_000_00000111#32 = .error .operandsPastS31 ∧
    decodeOp 0b101_0000000_000_000_000_000_000_000_0_000#32 = .error .unassignedOpcode ∧
    decodeSw 0b0000_110_011_000_101#16 = .error .unassignedField := ⟨rfl, rfl, rfl, rfl, rfl, rfl⟩

-- small states ---------------------------------------------------------------------------------------------------------

/-- Registers with the listed values. -/
def regsOf (l : List (Nat × Word)) : Vector Word 32 := l.foldl (fun v p => v.set! p.1 p.2) (Vector.replicate 32 0)

/-- A sequencer in RUN at 0x1000 with a handler at 0x2000. -/
def seqOf (l : List (Nat × Word)) : Seq := { Seq.reset with st := .run, pc := 0x1000, tvec := 0x2000, regs := regsOf l }

/-- A cohort of 64 threads of context 0, launch 1, LID 0x11, root table at 0x10000. -/
def someCohort : Cohort :=
  { ctx := 0, launch := 1, lid := 0x11, dg := 0, cg := 0, coh := 0, nthr := 64, live := 64, root := 0x10000, windows := [],
    bufs := [], segs := [], bankMap := 0xA, started := true, fatal := false, chain := 1, pos := 0, nuUsed := false }

/-- Core 0 with that sequencer and cohort; its walk cache holds the last-level table of virtual addresses below 2 MiB. -/
def coreOf (l : List (Nat × Word)) : Core :=
  { Core.reset with seq := seqOf l, coh := some someCohort, walk := [(4, 0, 0x10000)] }

/-- The launch of that cohort. -/
def someLaunch : Launch :=
  { id := 1, queue := 0, ctx := 0, rcd := List.replicate 16 0, st := .running, windows := [], bufs := [], segs := [], deps := [],
    cores := [0], waiting := [], live := 1, fatal := false, nfault := 0, lastPred := none, predBad := false }

/-- A module with HBM region 0 on die 0, context 0 RUNNING on core `c`, and a page table that maps virtual 0 to 0xFFFF at
physical 0x40000 (R184: V, leaf, R, W, X, A and D set), beside the bytes `m`. -/
def stateOf (c : Core) (m : Mem) : State :=
  { State.reset with
    cores := [(0, c)], homeMap := [(0, 1)], launches := [someLaunch], mod := { Module.reset with window := true }
    ctxs := [(0, { Ctx.reset with st := .running, root := 0x10000, pinq := 4 })]
    mem := memWrite (memPut (memPut [] 0x10000 0x7F) 0x10002 0x04) 0x40100 (m.map (·.2)) }

/-- The page that `stateOf` maps. -/
def somePage : Tlb := { va := 0, size := 65536, pa := 0x40000, rd := true, wr := true, ex := true, dt := true }

/-- That state with registers `l` and nothing else. -/
def plain (l : List (Nat × Word)) : State := stateOf (coreOf l) []

-- the sequencer ----------------------------------------------------------------------------------------------------------

/-- StepRunsTheDecodedInstruction: sub s5, s6, s7 in the buffer at the pc. -/
theorem test_step_runs_the_word : let s := setCur (plain []) { coreOf [] with
      seq := { seqOf [(6, 3), (7, 5)] with ibuf := [(0x1000, 0b000001_00101_00110_00111_00000000001#32)] } }
    s.agenda = [] ∧ s.core < 384 ∧ issuing (cur s).seq = true ∧
    mapGet (cur s).seq.ibuf (cur s).seq.pc.toNat = some 0b000001_00101_00110_00111_00000000001#32 ∧
    (decodeSeq 0b000001_00101_00110_00111_00000000001#32).toOption = some (.sub 5 6 7) ∧
    (∃ t, step s = .next t ∧ X t 5 = 0xFFFFFFFFFFFFFFFE ∧ (cur t).seq.pc = 0x1004) := by
  refine ⟨by decide, by decide, by decide, by decide, by decide, _, rfl, by decide +kernel, by decide +kernel⟩

/-- The sequencer of a state after one instruction, or that before where it stops. -/
def after (i : Instr) (s : State) : State := match exec i s with | .next t => t | _ => s

/-- The cause of a translation that failed. -/
def causeOf {α : Type} : Except Nat α → Nat | .error e => e | .ok _ => 0

/-- IntegerInstructionsCompute, ImmediateInstructionsCompute, MultiplyAndDivideCompute, RegisterZeroAndFrame,
CsrReadsAndWrites, FencesAndWaits, SequencerFetchFillsTheBuffer: ready, with a handler. -/
theorem test_ready : Ready (plain [(6, 3), (7, 5)]) [5, 6, 7] ∧ Ready (plain []) [31, 0, 31] ∧ Handler (plain []) := by
  decide +kernel

/-- R145: a shift takes its amount from bits [5:0] of b; the counts of a word with bits 60 and 4 set. -/
theorem test_integer : let s := plain [(6, 0x8000000000000010), (7, 0xFFFFFFFFFFFFFFC4), (8, 0x1000000000000010)]
    X (after (.sra 5 6 7) s) 5 = 0xF800000000000001 ∧ X (after (.min 5 6 7) s) 5 = 0x8000000000000010 ∧
    X (after (.minu 5 6 7) s) 5 = 0x8000000000000010 ∧ X (after (.maxu 5 6 7) s) 5 = 0xFFFFFFFFFFFFFFC4 ∧
    X (after (.andn 5 6 7) s) 5 = 0x0000000000000010 ∧ X (after (.clz 5 8) s) 5 = 3 ∧ X (after (.ctz 5 8) s) 5 = 4 ∧
    X (after (.ctz 5 0) s) 5 = 64 ∧ X (after (.popc 5 8) s) 5 = 2 := by decide +kernel

/-- R148's table of edge cases, and the high products of -1 and 2. -/
theorem test_multiply_divide : let s := plain [(1, 7), (2, -2), (3, 0x8000000000000000), (4, -1), (5, 5), (6, -5), (7, 2)]
    X (after (.div 9 1 2) s) 9 = -3 ∧ X (after (.rem 9 1 2) s) 9 = 1 ∧ X (after (.div 9 3 4) s) 9 = 0x8000000000000000 ∧
    X (after (.rem 9 3 4) s) 9 = 0 ∧ X (after (.div 9 5 0) s) 9 = -1 ∧ X (after (.rem 9 6 0) s) 9 = -5 ∧
    X (after (.divu 9 5 0) s) 9 = 0xFFFFFFFFFFFFFFFF ∧ X (after (.remu 9 5 0) s) 9 = 5 ∧
    X (after (.mulh 9 4 7) s) 9 = -1 ∧ X (after (.mulhu 9 4 7) s) 9 = 1 ∧ X (after (.mulhsu 9 7 4) s) 9 = 1 ∧
    X (after (.mulhsu 9 4 7) s) 9 = -1 := by decide +kernel

/-- R146, R147: lui's example, sign extension of addi and sltiu, srai's amount. -/
theorem test_immediate : let s := plain [(1, 1), (2, 0x8000000000000000)]
    X (after (.lui 4 0x7FC0) s) 4 = 0x000000007FC00000 ∧ X (after (.addi 4 1 0xFFFE) s) 4 = -1 ∧
    X (after (.sltiu 4 1 0xFFFF) s) 4 = 1 ∧ X (after (.slti 4 1 0xFFFF) s) 4 = 0 ∧ X (after (.srai 4 2 63) s) 4 = -1 ∧
    X (after (.ori 4 0 0xFFFF) s) 4 = 0xFFFF := by decide +kernel

/-- CsrReadsAndWrites at the boundaries 0x0A and 0x0B, and at rounding codes 5 and 6. -/
theorem test_csr : let s := plain [(1, 5), (2, 6), (3, 0x0503)]
    csrOk 0x0A = true ∧ csrOk 0x0B = false ∧ Ready s [9, 1] ∧ Ready s [9, 2] ∧ ((X s 1).extractLsb' 0 3).toNat = 5 ∧
    6 ≤ ((X s 2).extractLsb' 0 3).toNat ∧ 6 ≤ ((cur s).seq.fpdef ||| (X s 2).extractLsb' 0 3).toNat ∧
    (cur (after (.csrw 9 1 9) s)).seq.fpdef = 5 ∧ (cur (after (.csrw 9 2 9) s)).seq.pc = 0x2000 ∧
    (cur (after (.csrw 9 3 10) s)).seq.sel = 5 ∧ X (after (.csrw 9 1 3) s) 9 = 0x2000 ∧
    (cur (after (.csrr 9 0x0B) s)).seq.cause = BitVec.ofNat 64 (1 + 64 * 0x0D20000B) := by decide +kernel

/-- LoadsReadMemoryAtHome: each size at an aligned address of the mapped page, the largest at its end. -/
theorem test_load_premises : ∀ e ∈ [((1 : Nat), 0x107), (2, 0x106), (4, 0x104), (8, 0x100), (8, 0xFFF8)],
    let s := plain [(2, BitVec.ofNat 64 e.2)]; let ea := X s 2 + BitVec.ofInt 64 (0 : BitVec 16).toInt
    Ready s [1, 2] ∧ canonical ea = true ∧ ea.toNat % e.1 = 0 ∧ inAperture ea = false ∧
    (translateAt (begun s) s.core ea .read).2.toOption = some somePage ∧
    placeBad (translateAt (begun s) s.core ea .read).1 (somePage.phys ea) e.1 = false := by decide +kernel

/-- R149: extension by sign and by zero, little-endian. -/
theorem test_load : let s := stateOf (coreOf [(2, 0x100)]) [(0, 0x80), (1, 0x81), (2, 0x82), (3, 0x83)]
    X (after (.lb 1 2 3) s) 1 = 0xFFFFFFFFFFFFFF83 ∧ X (after (.lbu 1 2 3) s) 1 = 0x83 ∧
    X (after (.lh 1 2 0) s) 1 = 0xFFFFFFFFFFFF8180 ∧ X (after (.lwu 1 2 0) s) 1 = 0x83828180 ∧
    X (after (.ld 1 2 0xFFF8) s) 1 = 0 := by decide +kernel

/-- StoresWriteMemoryAtHome: the last word of the page is issued, and performs in the fence and the core's cycle; only the stored
bytes change. -/
theorem test_store : let s := plain [(1, 0x1122334455667788), (2, 0xFFF8)]
    let ea := X s 2 + BitVec.ofInt 64 (0 : BitVec 16).toInt; let a := after (.stw 1 2 4) s
    Ready s [1, 2] ∧ (cur s).unstored = none ∧ (translateAt (begun s) s.core ea .write).2.toOption = some somePage ∧
    placeBad (translateAt (begun s) s.core ea .write).1 (somePage.phys ea) 8 = false ∧
    (cur a).unstored = some (0x4FFFC, [0x88, 0x77, 0x66, 0x55]) ∧ memRead a.mem 0x4FFFC 4 = [0, 0, 0, 0] ∧ Ready a [] ∧
    a.slices = [] ∧ a.mem.wf = true ∧
    memRead (performStore a 0).mem 0x4FFFA 6 = [0, 0, 0x88, 0x77, 0x66, 0x55] ∧
    memRead (after (.fence 5) a).mem 0x4FFFC 4 = [0x88, 0x77, 0x66, 0x55] ∧
    memRead (after .coreCycle a).mem 0x4FFFC 4 = [0x88, 0x77, 0x66, 0x55] := by decide +kernel

/-- LocalApertureAccesses: a clause each of scratchpad, tile and no unit (R151). -/
theorem test_aperture : let s := fun (o : Nat) => plain [(1, 0x55), (2, BitVec.ofNat 64 (0xFFFFFFFF00000000 + o))]
    (∀ o ∈ [0, 0x1FFFF8, 0x1000000], Ready (s o) [1, 2] ∧ Handler (s o) ∧ (0xFFFFFFFF00000000 + o) % 8 = 0) ∧
    (∃ f, localOf (begun (s 0)) 0 = .scratch 0 f) ∧ (∃ b, localOf (begun (s 0x1000000)) 0x1000000 = .tile b) ∧
    localOf (begun (s 0x1FFFF8)) 0xF0000000 = .none := by
  refine ⟨by decide +kernel, ⟨_, rfl⟩, ⟨_, rfl⟩, rfl⟩

/-- LocalApertureAccesses: a byte and a halfword of the scratchpad, an unsigned and a signed load, amo on a 32-bit and on a 64-bit
word, a store to a FULL tile. -/
theorem test_aperture_sizes : let c := { coreOf [(1, 0xFFFFFFFFFFFFFF85), (2, 0xFFFFFFFF00000000), (3, 0xFFFFFFFF01000000)] with
        scratch := memPut [] 0 0x82 }
    let s := stateOf c []; let t := setCur s { c with mx := setTag c.mx 0 .full }
    isBad (coreAt (begun s) 0).badScratch 0 8 = false ∧ Ready s [1, 2, 4] ∧ amoSize 4 = 4 ∧ amoSize 2 = 8 ∧
    X (after (.lb 4 2 0) s) 4 = 0xFFFFFFFFFFFFFF82 ∧ X (after (.lhu 4 2 0) s) 4 = 0x82 ∧
    memRead (cur (after (.stb 1 2 1) s)).scratch 0 3 = [0x82, 0x85, 0] ∧
    memRead (cur (after (.amo 4 2 1 0 0) s)).scratch 0 4 = [0x07, 0, 0, 0] ∧ X (after (.amo 4 2 1 0 0) s) 4 = 0x82 ∧
    (cur (after (.amo 4 2 1 0 2) s)).seq.cause = 8 ∧ (cur (after (.amo 4 3 1 0 0) s)).seq.cause = 8 + 64 * 0x1000000 ∧
    tagOf (cur (begun t)).mx 0 = .full ∧ (cur (after (.stb 1 3 0) t)).seq.cause = 8 + 64 * 0x1000000 ∧
    tagOf (cur (after (.stb 1 3 0) s)).mx 0 = .filling := by decide +kernel

/-- BadEffectiveAddressTraps: the first address that is not canonical, and a misaligned one for each size. -/
theorem test_bad_address : let s := fun (a : Word) => plain [(1, 9), (2, a)]
    Ready (s 0x0100000000000000) [1, 2] ∧ Handler (s 0x0100000000000000) ∧ canonical 0x0100000000000000 = false ∧
    canonical 0x00FFFFFFFFFFFFFF = true ∧ (cur (after (.ld 1 2 0) (s 0x0100000000000000))).seq.cause =
      BitVec.ofNat 64 (5 + 64 * 0x0100000000000000) ∧
    (cur (after (.std 1 2 0) (s 0x104))).seq.cause = BitVec.ofNat 64 (4 + 64 * 0x104) ∧
    (cur (after (.lh 1 2 0) (s 0x101))).seq.cause = BitVec.ofNat 64 (3 + 64 * 0x101) ∧
    X (after (.lw 1 2 0) (s 0x102)) 1 = 9 := by decide +kernel

/-- TranslationWalksAndParks: an address past the mapped page has no entry, cause 2 (R187). -/
theorem test_translation_fault : let s := plain [(2, 0x10000)]
    causeOf (translateAt (begun s) s.core 0x10000 .read).2 = 2 ∧
    causeOf (translateAt (begun s) s.core 0x10000 .write).2 = 2 ∧
    (translateAt (begun s) s.core 0x10000 .write).1.core = s.core ∧
    (cur (translateAt (begun s) s.core 0x10000 .write).1).coh = some someCohort ∧
    (cur (after (.ld 1 2 0) s)).seq.st = .stall ∧ (after (.ld 1 2 0) s).lu.fbuf.length = 1 := by decide +kernel

/-- TranslationWalksAndParks: a table outside the part, a bad one, an empty entry, a broken one, a table, a leaf that refuses, that points
outside, that serves. -/
theorem test_walk : let s := fun (b : Byte) (c : Byte) (d : Byte) =>
      { plain [] with mem := memPut (memPut (memPut [] 0x20000 b) 0x20001 c) 0x20003 d }
    let e := fun (b c d : Byte) => BitVec.ofNat 64 (memNat (s b c d).mem 0x20000 8)
    paOk (s 0 0 0) 0x40000000 = false ∧ paOk (s 0 0 0) 0x20000 = true ∧ isBad [0x20007] 0x20000 8 = true ∧
    (e 0 0 0).getLsbD 0 = false ∧ badEntry (e 0x03 0 0) 1 = true ∧ badEntry (e 0x01 0x10 0) 3 = false ∧
    (e 0x01 0x10 0).getLsbD 1 = false ∧ badEntry (e 0x03 0 0) 3 = false ∧ (e 0x03 0 0).getLsbD 2 = false ∧
    badEntry (e 0x07 0 0x40) 4 = false ∧ paOk (s 0x07 0 0x40) 0x40000000 = false ∧ badEntry (e 0x1F 0 0) 4 = false ∧
    (walkFrom 1 (s 0x1F 0 0) [] 0 .both 4 0x20000).2.2.toOption = some { somePage with pa := 0 } := by decide +kernel

/-- BranchesAndJumpsGoToTheirTarget: taken and not taken, backwards; the link; jalr with rd = ra. -/
theorem test_branch : let s := plain [(1, 5), (2, -1), (3, 0x3000), (4, 0x3002), (5, 0x0100000000000000), (6, 0xFFFFFFFF00000004)]
    Ready s [1, 2, 31] ∧ canonical (0x1000 + 4 * BitVec.ofInt 64 (0xFFFE : BitVec 16).toInt) = true ∧
    (cur (after (.blt 1 2 0xFFFE) s)).seq.pc = 0x1004 ∧ (cur (after (.bltu 1 2 0xFFFE) s)).seq.pc = 0xFF8 ∧
    (cur (after (.beq 1 1 3) s)).seq.pc = 0x100C ∧ X (after (.jal 0x3FFFFFF) s) 31 = 0x1004 ∧
    (cur (after (.jal 0x3FFFFFF) s)).seq.pc = 0xFFC ∧ (cur (after (.jalr 3 3 0x10) s)).seq.pc = 0x3010 ∧
    X (after (.jalr 3 3 0x10) s) 3 = 0x1004 ∧
    (cur (after (.jalr 9 4 0) s)).seq.cause = BitVec.ofNat 64 (2 + 64 * 0x3002) ∧
    (cur (after (.jalr 9 5 0) s)).seq.cause = BitVec.ofNat 64 (7 + 64 * 0x0100000000000000) ∧
    (cur (after (.jalr 9 6 0) s)).seq.cause = BitVec.ofNat 64 (8 + 64 * 4) ∧ X (after (.jalr 9 6 0) s) 9 = 0 := by decide +kernel

/-- BranchesAndJumpsGoToTheirTarget: a pc next to the last canonical address, from which j, jal and a branch leave the space. -/
theorem test_branch_out : let s := setCur (plain []) { coreOf [] with seq := { seqOf [(1, 1)] with pc := 0x00FFFFFFFFFFFFFC } }
    Ready s [0, 1, 31] ∧ Handler s ∧ canonical (0x00FFFFFFFFFFFFFC + 4 * BitVec.ofInt 64 (1 : BitVec 26).toInt) = false ∧
    canonical (0x00FFFFFFFFFFFFFC + 4 * BitVec.ofInt 64 (1 : BitVec 16).toInt) = false ∧ X s 1 ≠ X s 0 ∧
    (cur (after (.j 1) s)).seq.cause = BitVec.ofNat 64 (7 + 64 * 0x0100000000000000) := by decide +kernel

/-- TrapsEnterTheHandlerOrEndTheCohort: the handler's entry, tret, and a trap inside the handler. -/
theorem test_trap : let s := plain []
    let t := setCur s { coreOf [] with seq := { seqOf [] with th := true, epc := 0x1234 } }
    Ready s [] ∧ Handler s ∧ Ready t [] ∧ (cur t).seq.th = true ∧ (cur t).coh = some someCohort ∧ someCohort.fatal = false ∧
    (cur (after (.trap 3) s)).seq.epc = 0x1000 ∧ (cur (after (.trap 3) s)).seq.cause = 0xCA ∧
    (cur (after (.trap 3) s)).seq.pc = 0x2000 ∧ (cur (after .tret t)).seq.pc = 0x1234 ∧
    (cur (after (.trap 3) t)).seq.st = .dead ∧ ((after (.trap 3) t).lu.fbuf.map fun e => nthD e.1 1 0) = [0x000000CA00000000] ∧
    (after (.trap 3) t).launches.map (·.fatal) = [true] ∧ (cur (after .kend s)).seq.st = .done := by decide +kernel

/-- FencesAndWaits: a pennant that counts, one that does not. -/
theorem test_waitp : let s := setCur (plain []) { coreOf [] with seq := { seqOf [] with pn := [0, 2, 0, 0, 0, 0, 0, 0] } }
    Ready s [] ∧ (∀ p : Nat, p < 8 → (0xFD#8).getLsbD p = true → pennant (cur s).seq p = 0) ∧
    (0x02#8).getLsbD 1 = true ∧ pennant (cur s).seq 1 ≠ 0 ∧ (cur s).cmds = [] ∧
    (cur (after (.waitp 0xFD) s)).seq.pc = 0x1004 ∧ (cur (after (.waitp 2) s)).seq.st = .wait := by decide +kernel

/-- SequencerFetchFillsTheBuffer: a hit in the fetch translations, and a fetch past the last canonical address. -/
theorem test_fetch :
    let c := { coreOf [] with seq := { seqOf [] with pc := 0x100, itlb := [(0, 65536, 0x40000)] } }
    let s := stateOf c [(0, 0x31), (0, 0), (0, 0), (0, 0xB0)]
    let t := setCur s { coreOf [] with seq := { seqOf [] with pc := 0x00FFFFFFFFFFFFFC } }
    issuing (cur s).seq = true ∧ itlbHit (cur s).seq 0x100 = some 0x40100 ∧ placeBad s 0x40100 4 = false ∧
    mapGet (cur (after (.sequencerFetch 0) s)).seq.ibuf 0x100 = some 0xB0000031 ∧
    canonical ((cur t).seq.pc + BitVec.ofNat 64 (4 * 1)) = false ∧ issuing (cur t).seq = true := by decide +kernel

/-- AmoReadsAndReplacesTheWord: a compare-and-swap and a signed minimum of 32 bits, whose rd is sign-extended. -/
theorem test_amo : let s := stateOf (coreOf [(2, 0x100), (3, 0xFFFFFFFF00000007), (4, 0x80000001)]) [(0, 1), (0, 0), (0, 0), (0, 0x80)]
    let u := translateAt (begun s) s.core 0x100 .both
    Ready s ([1, 2, 3] ++ [3]) ∧ u.2.toOption = some somePage ∧ placeBad u.1 0x40100 4 = false ∧
    X (after (.amo 1 2 3 1 0) s) 1 = 0xFFFFFFFF80000001 ∧ memNat (after (.amo 1 2 3 1 0) s).mem 0x40100 4 = 0x80000001 ∧
    X (after (.amo 1 2 3 1 1) s) 1 = 0x80000001 ∧ memNat (after (.amo 1 2 3 1 1) s).mem 0x40100 4 = 7 ∧
    memNat (after (.amo 1 2 3 0 0) s).mem 0x40100 8 = 0x80000008 := by decide +kernel

/-- FencesAndWaits: operands that are refused, a condition that holds, one that does not. -/
theorem test_waitu : let s := fun (k : Word) (x : Word) => stateOf (coreOf [(2, 0x100), (3, k), (6, x)]) [(0, 7)]
    let u := translateAt (begun (s 0 7)) 0 0x100 .read
    Ready (s 0 7) [8, 9, 2, 3, 4, 6] ∧ waituBad 7 0 = true ∧ waituBad 0 0 = false ∧ u.2.toOption = some somePage ∧
    (cur u.1).coh = some someCohort ∧ isCap 0x40100 = false ∧ placeBad u.1 0x40100 4 = false ∧
    (sliceAt u.1 (homeSlice u.1 0x40100)).onchip.length < min (sliceAt u.1 (homeSlice u.1 0x40100)).wlimit 4096 ∧
    X (after (.waitu 8 2 6) (s 0 7)) 8 = 0x11 ∧ X (after (.waitu 8 2 6) (s 0 7)) 9 = 7 ∧ X (after (.waitu 8 2 6) (s 7 7)) 8 = 2 ∧
    (cur (after (.waitu 8 2 6) (s 0 8))).seq.st = .wait := by decide +kernel

-- home slices ------------------------------------------------------------------------------------------------------------

/-- A watch entry of the cohort's sequencer on the word at 0x40100. -/
def someWatch : Watch :=
  { cmp := 0, w := false, scope := 1, agent := 1, ctx := 0, cont := 0, tmo := 1, cohort := 0, launch := 1, tb := 0, dead := 0,
    pa := 0x40100, opnd := 1, mask := 0, mq := 0 }

/-- PinsAndCancellation: a pin of the mapped line, its release, and a cancellation of one entry by the sequencer's agent. -/
theorem test_pins : let s := plain [(2, 0x100), (3, 2)]
    let p := { s with pins := [(0x40100 / 1024, 0, 1)] }
    let w := setSlice s (homeSlice s 0x40100) { Slice.reset with onchip := [someWatch] }
    let pin := translateAt (issued s 1 [2] none (.cpin 1 2)) s.core (X s 2) .read
    let unpin := translateAt (issued p 1 [2] none (.cunpin 1 2)) p.core (X p 2) .read
    let cancel := translateAt (issued w 1 [2, 3] none (.wcancel 1 2 3)) w.core (X w 2) .read
    Alone s none someCohort ∧ Alone p none someCohort ∧ Alone w none someCohort ∧ canonical (X s 2) = true ∧
    pin.2.toOption = some somePage ∧ rangeOf pin.1 0x40100 = some .hbm ∧ pin.1.pins = [] ∧ (ctxAt pin.1 0).pinq = 4 ∧
    unpin.2.toOption = some somePage ∧ unpin.1.pins = [(somePage.phys (X p 2) / 1024, someCohort.ctx, 1)] ∧
    cancel.2.toOption = some somePage ∧ (X w 2).toNat % 4 = 0 ∧ (X w 3).toNat < 4 ∧
    (after (.cpin 1 2) s).pins = [(0x100, 0, 1)] ∧ (after (.cunpin 1 2) p).pins = [] ∧
    X (after (.wcancel 1 2 3) w) 1 = 0x10000 ∧ (after (.wcancel 1 2 3) w).wakes.map (·.cause) = [0x13] := by decide +kernel

/-- HomeMapWritesPopulateAndDepopulate: the window closed, an empty entry, a used one, the last entry. -/
theorem test_homeMap : let s := plain []; let t := { s with mod := Module.reset }
    t.mod.window = false ∧ s.mod.window = true ∧ (mapGetD s.homeMap 2047 0).extractLsb' 0 2 = 0 ∧
    homeRefused s 2047 5 = false ∧ (mapGetD s.homeMap 0 0).extractLsb' 0 2 ≠ 0 ∧
    mapGetD (after (.homeMapWrite 2047 5) s).homeMap 2047 0 = 5 ∧ mapGetD (after (.homeMapWrite 0 5) s).homeMap 0 0 = 1 ∧
    (mapGetD (after (.homeMapDepopulate 0 0) s).homeMap 0 0).extractLsb' 0 2 = 0 := by decide +kernel

/-- WatchTableEvents: an entry that is due, one that may spill, a wake for the launch unit and one for a waiting sequencer. -/
theorem test_watchTable : let e := someWatch; let sl := { Slice.reset with onchip := [e], spen := true, spbase := 0x80000 }
    let c := { coreOf [] with seq := { seqOf [] with st := .wait, waitu := some (8, false) } }
    let w : Wake := { cause := 0x10, value := 7, e := e }
    let s := { setSlice (stateOf c []) 0 sl with wakes := [w, { w with e := { e with agent := 2 } }] }
    sl.retry = [] ∧ s.mod.window = true ∧ watchDue sl e = true ∧ (freePlace s sl e.pa).isSome = true ∧ (∀ b ∈ lineBuckets sl e.pa, bucketBad s b = false) ∧
    s.wakes[0]? = some w ∧ residentCore s w.e = some 0 ∧ (coreAt s 0).saving = false ∧ (coreAt s 0).seq.st = .wait ∧
    (coreAt s 0).seq.waitu = some (8, false) ∧ (sliceAt (after (.watchSpillMove 0 0) s) 0).onchip = [] ∧
    (sliceAt (after (.watchSweep 0) s) 0).sweep = 1 ∧ (sliceAt (after (.hsWcfgWrite 0 0x10) s) 0).wlimit = 16 ∧
    (after (.watchTimeout 0 0) s).wakes.map (·.cause) = [0x10, 0x10, 0x12] ∧
    after (.wakeDeliver 1) s = s ∧ (cur (after (.wakeDeliver 0) s)).seq.pc = 0x1004 ∧
    X (after (.wakeDeliver 0) s) 8 = 0x10 ∧ X (after (.wakeDeliver 0) s) 9 = 7 := by decide +kernel

/-- WatchTableEvents: a wake for two threads of block 5, tags 33 and 35. -/
theorem test_threadWake : let c := { coreOf [] with wakes := [(0x10, 7, [0, 5, 1, 0b1010, 0, 1, 0x40100])],
                                                    bs := { Sched.reset with watch := [33, 34, 35] } }
    let s := stateOf c []
    (cur s).wakes = (0x10, 7, [0, 5, 1, 0b1010, 0, 1, 0x40100]) :: [] ∧ (cur s).saving = false ∧
    fabricCohort (cur s) = some someCohort ∧ waitingOf (cur (after .threadWake s)) 5 = [33, 35] ∧
    (cur (after .threadWake s)).bs.watch = [34] := by decide +kernel

-- the fabric -------------------------------------------------------------------------------------------------------------

/-- A run of two lanes of slot 3, tags 4 and 5, values 1 and 2, the second lane null. -/
def someRun : Tok :=
  { bareTok .run 3 0 0 9 with tags := [4, 5], lanes := [⟨1, false⟩, ⟨2, true⟩] }

/-- A slot with switch words `ws`; `ctl` is its control word. -/
def slotOf (ws : List Instr) (stages : List W32) (ctl : W32) : Slot :=
  { en := true, nst := 1, stages := stages, k0 := 0, k1 := 0, ctl := ctl, sw := ws.map fun w => (encode16 w).getD 0, lfsr := 1,
    loss := 0 }

/-- A site that holds placement 9, slot 3 with words `ws`, and the queues `q`. -/
def siteOf (ws : List Instr) (q : SMap (List Tok)) : FUnit :=
  { FUnit.reset with place := 9, slots := [(3, slotOf ws [0] 0x1F80)], inq := q }

/-- One configuration at the whole rectangle: placement 9, block 0, one entry by edge port 0. -/
def someConfig : Sys2Proof.Machine.Config :=
  { place := 9, block := 0, scope := 1, x0 := 0, y0 := 0, w := 8, h := 6, anchor := 0, edges := [], livein := 0, liveout := 0,
    launch := 1 }

/-- A LIVE region of that configuration. -/
def someRegion : Region :=
  { phase := .live, cfg := someConfig, census := 1, sources := [], stitches := [], drained := false, looped := false, depth := 0,
    signalling := false, succ := none }

/-- Site (2, 2) with words `ws` in slot 3 and queues `q`, its region, and the locus there. -/
def siteState (ws : List Instr) (q : SMap (List Tok)) : State :=
  { stateOf { coreOf [] with sites := [(18, siteOf ws q)], regions := [(0, someRegion)] } [] with locus := ⟨2, 2, 3⟩ }

/-- Word `w` of slot 3 of site (2, 2) with token `t` at its input `i`. -/
def wordState (w : Instr) (i : Nat) (t : Tok) : State := siteState [w] [(i, [t])]

/-- There the premise of moving that token holds, under the identity 0 and that of the receiver at port 3. -/
def mayGo (w : Instr) (i : Nat) (t : Tok) : Bool :=
  let s := wordState w i t
  decide (Moves s w i 0 t) && decide (Moves s w i ((receiverIdentity (cur s) 2 2 i 3 5).getD 0) t)

/-- An ordering token. -/
def someOrder : Tok := { someRun with kind := .ordering, lanes := [] }

/-- SwitchWordsMoveTheirToken: each word by a link port; `sw.merge` and `sw.gate` by either input; a port to local. -/
theorem test_switch_moves :
    ([Instr.swRoute 1 3 5, .swMerge 1 3 0 5, .swGate 1 3 0 5, .swBound 1 3 1 5, .swNull 1 3 2 5, .swMerge 0 3 1 5,
      .swGate 0 3 1 5].all fun w => mayGo w 1 someRun) = true ∧ mayGo (.swOrd 1 3 5) 1 someOrder = true ∧
    mayGo (.swRoute 0 4 3) 0 someRun = true ∧
    Silent (wordState (.swMerge 1 3 0 5) 1 someRun) (.swMerge 1 3 0 5) 0 ∧
    Silent (wordState (.swGate 1 3 0 5) 1 someRun) (.swGate 1 3 0 5) 0 ∧
    unperformed (cur (wordState (.swBound 1 3 1 5) 1 someRun)) someRun.tags = false := by decide +kernel

/-- R209, R211: a null lane under policy 0; a token by a gate's back input rises one frame. -/
theorem test_switch_result :
    (mapGet (siteAt (cur (after (.swNull 1 3 0 5) (wordState (.swNull 1 3 0 5) 1 someRun))) 2 2).out 3).map (·.lanes) =
      some [⟨1, false⟩, ⟨0, true⟩] ∧
    (mapGet (siteAt (cur (after (.swGate 0 3 1 5) (wordState (.swGate 0 3 1 5) 1 someRun))) 2 2).out 3).map
      (fun m => (m.slot, m.frame)) = some (5, 1) := by decide +kernel

/-- That run with no lane null. -/
def someFull : Tok := { someRun with lanes := [⟨1, false⟩, ⟨0, false⟩] }

/-- A control token for slot 7. -/
def someControl : Tok := { bareTok .control 3 0 0 9 with lanes := List.replicate 16 ⟨7, false⟩ }

/-- ForkSteerSinkSourceAndControlWords: a fork to ports 2 and 3; a steer that divides and one of a run; a sink; a control token. -/
theorem test_fork_steer :
    ([(Instr.swFork 1 5 12, someRun), (.swSteer 1 2 0 3 0, someFull), (.swSteer 1 2 0 3 0, someRun), (.swSink 1, someRun),
      (.swCtl 1, someControl)].all fun e => decide (Moves (wordState e.1 1 e.2) e.1 1 0 e.2)) = true ∧ someRun.isRun = true ∧
    someFull.isRun = true ∧ steerTrue 0 someFull = [4] ∧ someControl.kind = .control := by decide +kernel

/-- R207, R208, R212: the false part of a run by port 3; a consumed token leaves the census; a control token stands aside. -/
theorem test_fork_steer_result :
    (mapGet (siteAt (cur (after (.swSteer 1 2 0 3 0) (wordState (.swSteer 1 2 0 3 0) 1 someFull))) 2 2).out 3).map (·.tags) =
      some [5] ∧
    (cur (after (.swSink 1) (wordState (.swSink 1) 1 someRun))).regions.map (·.2.census) = [0] ∧
    (siteAt (cur (after (.swCtl 1) (wordState (.swCtl 1) 1 someControl))) 2 2).side = [(1, someControl)] := by decide +kernel

/-- Edge port 2 feeds source 0 of site (2, 5), whose sw.src stands in slot 3; the source holds one token. -/
def sourceState : State := { stateOf { coreOf [] with
      sites := [(siteKey 2 5, siteOf [.swSrc 3 0 5] [])]
      regions := [(0, { someRegion with sources := [{ ep := 2, round := 0, done := false, q := [someRun], marked := false }],
                                        cfg := { someConfig with edges := [2] } })] } [] with locus := ⟨2, 5, 3⟩ }

/-- ForkSteerSinkSourceAndControlWords: that source's token may leave by port 3, and does. -/
theorem test_switch_source : let u := siteAt (cur sourceState) 2 5
    headOf (cur sourceState) u 3 (.swSrc 3 0 5) 0 = some (16, someRun) ∧ (srcOf (cur sourceState) u 0).isSome = true ∧
    mapGet u.out 3 = none ∧ u.sent = [] ∧ mayMove (cur sourceState) u 5 3 = true ∧
    (mapGet (siteAt (cur (after (.swSrc 3 0 5) sourceState)) 2 5).out 3).map (·.slot) = some 5 := by decide +kernel
/-- LinksCarryTokensInOrder: to the site on the east, a memory node, a stream port and a tile port. -/
theorem test_links : let t := someRun
    let g : Sys2Proof.Machine.Config := { someConfig with anchor := 7 }
    let u : FUnit := { siteOf [] [] with out := [(0, t), (1, t), (2, t)] }
    let c : Core := { coreOf [] with
      sites := [(siteKey 2 0, u), (siteKey 2 2, u), (siteKey 3 2, siteOf [.swRoute 3 1 3] []), (siteKey 2 5, u), (siteKey 7 2, u)]
      regions := [(0, { someRegion with cfg := g })]
      nodes := [(2, { Node.reset with u := { FUnit.reset with place := 9, slots := [(3, slotOf [] [0] 0x1F80)] } })] }
    let s := stateOf c []
    cfgOfPlace c 9 = some g ∧ linkDest g 2 2 1 = .site 3 2 3 ∧ siteKey 3 2 ≠ siteKey 2 2 ∧
    hasSpace ((siteAt c 3 2).queue 3) t = true ∧ ((siteAt c 3 2).wordFor 3 3).isSome = true ∧
    linkDest g 2 0 0 = .mn 2 ∧ hasSpace ((unitAt c (.mn 2)).queue 0) t = true ∧
    (nodeRoute (unitAt c (.mn 2)) 3).isSome = true ∧ linkDest g 2 5 2 = .sp 2 ∧ hasSpace (portAt c 2).q t = true ∧
    linkDest g 7 2 1 = .me 2 ∧ hasSpace (mapGetD c.mx.ports 2 []) t = true ∧
    (siteAt (cur (after (.linkTokenSend (.site 2 2) 1) s)) 3 2).queue 3 = [t] ∧
    (portAt (cur (after (.linkTokenSend (.site 2 5) 2) s)) 2).q = [t] := by decide +kernel

/-- TokensMatch: a token alone, and the runs 4 to 7 and 6 to 9, whose common tags are 6 and 7. -/
theorem test_match : let t : Tok := { someRun with kind := .run }
    let a : Tok := { t with tags := [4, 5, 6, 7], lanes := [⟨1, false⟩, ⟨2, false⟩, ⟨3, false⟩, ⟨4, false⟩] }
    let b : Tok := { a with tags := [6, 7, 8, 9] }
    let u : FUnit := { siteOf [] [] with unitq := [{ slot := 3, inp := 0, tok := t }] }
    let c : Core := { coreOf [] with sites := [(18, u)], regions := [(0, someRegion)] }
    slotHead c (.site 2 2) 0 = some { slot := 3, inp := 0, tok := t } ∧ t.isData = true ∧ (u.slot 3).acc = false ∧
    u.saved = false ∧ heldByControl u { slot := 3, inp := 0, tok := t } = false ∧ inputsOf false (u.slot 3) = [0] ∧ u.store = [] ∧
    ((unitAt (cur (after (.tokenMatch (.site 2 2) 0) (stateOf c []))) (.site 2 2)).ready.map (·.toks)) = [[t]] ∧
    pairs a b = true ∧ a.tags = (List.range 4).map (· + 4) ∧ b.tags = (List.range 4).map (· + 6) ∧
    (matchAll 200 { u with store := [{ slot := 3, inp := 0, tok := a }] } 3 [0, 1] [(1, b)] 0).u.ready.map
      (fun f => f.toks.map (·.tags)) = [[[6, 7], [6, 7]]] := by decide +kernel

/-- A source whose round 5 is marked. -/
def markedSource : Source := { ep := 2, round := 5, done := false, q := [], marked := true }

/-- A stop token of level 2 with slot field `n`. -/
def stopOf (n : Nat) : Tok := { bareTok .stop n 0 0 9 with level := 2 }

/-- Memory node 2 whose slot 3 has stop action `act` and takes slot field 4 at its input 1, with a stop token at its link. -/
def stopState (act n : Nat) : State :=
  let sl := { slotOf [] [0] (BitVec.ofNat 32 (0x1F80 + act * 2 ^ 18)) with k0 := 0xC00 }
  let u := { FUnit.reset with place := 9, slots := [(3, sl)], inq := [(0, [stopOf n])] }
  stateOf { coreOf [] with nodes := [(2, { Node.reset with u := u })], regions := [(0, someRegion)] } []

/-- A control token with word `v`. -/
def ctlOf (v : W32) : Tok := { bareTok .control 3 0 0 9 with lanes := ⟨v, false⟩ :: List.replicate 15 ⟨0, false⟩ }

/-- Site (2, 2) with that token at its side input, on a core with cohort `k`. -/
def ctlState (v : W32) (k : Option Cohort) : State :=
  stateOf { coreOf [] with coh := k, sites := [(18, { siteOf [] [] with side := [(1, ctlOf v)] })], regions := [(0, someRegion)] } []

/-- A marker of round 5, and site (2, 2) with one route whose input holds it. -/
def someMarker : Tok := { bareTok .marker 0 5 0 9 with round := 5 }
/-- That site. -/
def markerSite : FUnit := { siteOf [] [] with slots := [(0, slotOf [.swRoute 3 1 3] [0] 0x1F80)], inq := [(3, [someMarker])] }
/-- A looped region with an entry, an exit and that source. -/
def loopedRegion : Region :=
  { someRegion with looped := true, census := 0, cfg := { someConfig with edges := [2, 0x23] }, sources := [markedSource] }
/-- Core 0 with that site and with that region. -/
def markerCore : Core := { coreOf [] with sites := [(18, markerSite)], regions := [(0, loopedRegion)] }

/-- RoundsClose: a marker at a site with one route, and a looped region whose one source is marked. -/
theorem test_rounds :
    (slotOf [.swRoute 3 1 3] [0] 0x1F80).words = [.swRoute 3 1 3] ∧ (slotOf [.swRoute 3 1 3] [0] 0x1F80).acc = false ∧
    markerSite.marks = [] ∧ (markerSite.queue 3).head? = some someMarker ∧ someMarker.place = markerSite.place ∧
    mapGet markerSite.out 1 = none ∧ statefulNodes markerCore 9 = [] ∧
    loopedRegion.sources.all (fun q => q.marked || q.done) = true ∧ loopedRegion.sources.any (·.marked) = true ∧
    loopedRegion.cfg.edges.all (fun e => !epOut e || (edgeSite loopedRegion.cfg (epPort e) == (3, 0, 0) &&
      (mapGet (siteAt markerCore 3 0).out 0).isNone)) = true ∧
    (mapGet (siteAt (cur (after (.roundMarkerArrival (.site 2 2) 3) (stateOf markerCore []))) 2 2).out 1).map (·.round) = some 5 ∧
    (mapGet (cur (after (.loopRoundSignal 0) (stateOf markerCore []))).regions 0).map
      (fun r => r.sources.map fun q => (q.round, q.marked)) = some [(6, false)] := by decide +kernel

/-- StopTokensAct: a stop token at input 0 under each action, and one at another input. -/
theorem test_stop :
    slotHead (cur (stopState 0 3)) (.mn 2) 0 = some { slot := 3, inp := 0, tok := stopOf 3 } ∧
    slotHead (cur (stopState 0 4)) (.mn 2) 0 = some { slot := 3, inp := 1, tok := stopOf 4 } ∧
    resultSpace (cur (stopState 0 3)) (.mn 2) 3 = true ∧ resultSpace (cur (stopState 0 4)) (.mn 2) 3 = true ∧
    ((unitAt (cur (stopState 0 3)) (.mn 2)).slot 3).sact = 0 ∧ ((unitAt (cur (stopState 1 3)) (.mn 2)).slot 3).sact = 1 ∧
    ((unitAt (cur (stopState 2 3)) (.mn 2)).slot 3).sact = 2 ∧
    (cur (after (.stopToken (.mn 2) 0) (stopState 1 3))).regions.map (·.2.census) = [0] ∧
    (unitAt (cur (after (.stopToken (.mn 2) 0) (stopState 2 3))) (.mn 2)).queue 0 = [] ∧
    ((unitAt (cur (after (.stopToken (.mn 2) 0) (stopState 2 3))) (.mn 2)).queue 4).map (·.level) = [1] := by decide +kernel

/-- ControlTokensPatchTheirSlot: a token for stage 0 of slot 3, and one that is refused where no cohort runs. -/
theorem test_control :
    let s := ctlState 0x000B someCohort; let u := siteAt (cur s) 2 2; let n := ctlState 7 none
    u.side = [(1, ctlOf 0x000B)] ∧ u.saved = false ∧ ctlBad u 0x000B = false ∧ pendingFrom u 3 1 = false ∧
    (∀ l ∈ (ctlOf 0x000B).lanes.drop 1, l.v = 0) ∧ ctlBad (siteAt (cur n) 2 2) 7 = true ∧ fabricCohort (cur n) = none ∧
    (siteAt (cur (after (.controlTokenApply 2 2 0) s)) 2 2).side = [] := by decide +kernel

-- scratchpad units, vector elements, memory nodes -------------------------------------------------------------------------

/-- A run of tags 4 and 5 in slot 3 with values `a` and `b`. -/
def pairRun (a b : W32) : Tok := { someRun with lanes := [⟨a, false⟩, ⟨b, false⟩] }

/-- A unit whose slot 3 holds word `w` with constants `k0`, `k1`, one input by port 0, and a ready set of `t`. -/
def readyUnit (w k0 k1 : W32) (t : Tok) : FUnit :=
  { siteOf [] [] with slots := [(3, { slotOf [] [w] 0x1F80 with k0 := k0, k1 := k1 })], ready := [{ slot := 3, toks := [t] }] }

/-- The cohort with window 0 and buffer 0: rank 0, readable, writable, extent 4096, 16 slots. -/
def scratchCohort : Cohort := { someCohort with windows := [0x0031000001000000 ||| (0x1000 <<< 24)], bufs := [16 <<< 24] }

/-- Site (1, 2), a scratchpad unit, with that ready set, and the locus there. -/
def suState (w k0 k1 : W32) (t : Tok) : State :=
  { stateOf { coreOf [] with coh := scratchCohort, sites := [(17, readyUnit w k0 k1 t)], regions := [(0, someRegion)] } [] with
    locus := ⟨1, 2, 3⟩ }

/-- What the firing at the locus takes. -/
def taking (s : State) (id : UnitId) : Fire × Slot × Core := (takeFire s id).getD ({ slot := 0, toks := [] }, Slot.off, cur s)

/-- The acting lanes of it. -/
def lanesAt (s : State) (id : UnitId) : List Work :=
  (unitLanes id (taking s id).2.1 (taking s id).1).filter (·.act)

/-- ScratchpadAccessesFireToTheirHoldingUnits: loads of 4 bytes at 0 and 4, window 0. -/
theorem test_scratch_fire : let s := suState 0 0 0 (pairRun 0 4); let id := UnitId.site 1 2
    takeFire s id = some (taking s id) ∧ (lanesAt s id).map (fun l => (l.tag, unitSrc (taking s id).2.1 l 0)) = [(4, 0), (5, 4)] ∧
    scratchForm (.scld 1 0 4 0) = some (0, 4, true, false, 0) ∧ scratchForm (.scamoCas 0 0 1 2 7) = some (7, 4, true, true, 0) ∧
    (lanesAt s id).map (fun l => (resolveWin (setCur s (taking s id).2.2) s.core (placeCohort (taking s id).2.2 (siteAt (taking s id).2.2 1 2).place) (unitSrc (taking s id).2.1 l 0) 0 4 true true).toOption) =
      [some (0, 0), some (0, 4)] ∧
    (mapGetD (cur (after (.scld 1 0 4 0) s)).hold 0 []).map (·.addr) = [0, 4] := by decide +kernel

/-- A flight of two lanes of site (1, 2) by `op`, both outstanding. -/
def someFlight (op : Instr) : Flight :=
  { id := 7, unit := .site 1 2, slot := 3, op := op, fire := { slot := 3, toks := [pairRun 0 4] }, acting := [0, 1],
    res := [⟨0, false⟩, ⟨0, false⟩], left := 2, cancelled := false }

/-- The request of its first lane: 4 bytes at `a`. -/
def someAccess (a : Nat) (v w : W32) : Access := { flight := 7, lane := 0, tag := 4, addr := a, size := 4, data := v, cmp := w }

/-- That request first at holding unit 0, over bytes 0x0B, 0x00, 0x00, 0x80. -/
def holdState (op : Instr) (v w : W32) : State :=
  stateOf { coreOf [] with
    sites := [(17, readyUnit 0 0 0 (pairRun 0 4))], flights := [someFlight op], hold := [(0, [someAccess 0 v w])]
    scratch := [(0, 0x0B), (3, 0x80)] } []

/-- HoldingUnitsPerformAccesses: a load, a store, an atomic and, a compare-and-swap that does not match. -/
theorem test_hold : let s := holdState (.scld 1 0 4 0) 0 0
    let v := fun (op : Instr) (v w : W32) => memNat (cur (after (.suHoldingAccess 0 0) (holdState op v w))).scratch 0 4
    mapGetD (cur s).hold 0 [] = [someAccess 0 0 0] ∧ (cur s).flights = [someFlight (.scld 1 0 4 0)] ∧
    isOwner (.site 1 2) ((siteAt (cur s) 1 2).slot 3) = false ∧ peer 0 (0 / 2 ^ 22) = 0 ∧ isBad (cur s).badScratch 0 4 = false ∧
    accessKind (.scld 1 0 4 0) = 0 ∧ accessKind (.scst 1 0 0 4 0) = 1 ∧ accessKind (.scamoAnd 1 0 0 0) = 5 ∧
    accessKind (.scamoOr 1 0 0 0) = 6 ∧ accessKind (.scamoXor 1 0 0 0) = 7 ∧ accessKind (.scamoSwap 1 0 0 0) = 8 ∧
    accessKind (.scamoCas 1 0 0 0 0) = 9 ∧
    (cur (after (.suHoldingAccess 0 0) s)).flights.map (·.res) = [[⟨0x8000000B, false⟩, ⟨0, false⟩]] ∧
    v (.scst 1 0 0 4 0) 0xA5 0 = 0xA5 ∧ v (.scamoAnd 1 0 0 0) 0xFF 0 = 0x0B ∧ v (.scamoXor 1 0 0 0) 1 0 = 0x8000000A ∧
    v (.scamoCas 1 0 0 0 0) 5 6 = 0x8000000B ∧ v (.scamoCas 1 0 0 0 0) 5 0x8000000B = 5 := by decide +kernel

/-- CircularBuffersAndTileFills: two lanes at buffer 0; the request of one lane at its home; a tile that fills. -/
theorem test_cb : let s := suState 0 0 2 (pairRun 1 4); let id := UnitId.site 1 2
    takeFire s id = some (taking s id) ∧ (lanesAt s id).length = 2 ∧ (cbAt (taking s id).2.2 0).prod.length < 8 ∧
    (cbAt (taking s id).2.2 0).cons.length < 8 ∧ 2 ≤ (taking s id).2.1.k1.toNat % 64 ∧ bufSlots (16 <<< 24) = 16 ∧
    2 ≤ cbFree (cbAt (taking s id).2.2 0) 16 ∧ (taking s id).2.2.badScratch = [] ∧
    (cbAt (cur (after (.cbput 1 0) s)) 0).prod = [1] ∧ tagOf (taking s id).2.2.mx 0 = .empty ∧
    tagOf (cur (after (.mttag 1) s)).mx 0 = .full := by decide +kernel

/-- A `cbadv` of one lane by 2 at the consumer side of buffer 0, of which `n` entries are filled. -/
def advanceState (n : W32) : State :=
  let t := { pairRun 2 0 with tags := [4], lanes := [⟨2, false⟩] }
  let f := { someFlight (.cbadv 1 0 0) with fire := { slot := 3, toks := [t] }, acting := [0], res := [⟨0, false⟩], left := 1 }
  let b : Cb := { rp := 0, vp := n, cp := n, prod := [], cons := [7] }
  stateOf { coreOf [] with coh := scratchCohort, sites := [(17, readyUnit 0 0 2 (pairRun 0 4))], flights := [f], cbs := [(0, b)] } []

/-- CircularBuffersAndTileFills: `cbadv` of one lane by 2 where three entries stand, and where one does. -/
theorem test_cb_home : (cbAt (cur (advanceState 3)) 0).cons = [7] ∧ (cur (advanceState 3)).flights.map (·.id) = [7] ∧
    (cur (advanceState 3)).flights.map (fun f => ((unitLanes f.unit ((siteAt (cur (advanceState 3)) 1 2).slot 3) f.fire).filter
      (·.act)).length) = [1] ∧
    cbFilled (cbAt (cur (advanceState 3)) 0) = 3 ∧ (cbAt (cur (after (.cbRequestServe 0 true) (advanceState 3))) 0).rp = 2 ∧
    (cbAt (cur (after (.cbRequestServe 0 true) (advanceState 1))) 0).rp = 0 ∧
    (after (.cbRequestServe 0 true) (advanceState 1)).lu.fbuf.length = 1 := by decide +kernel

/-- Tile offsets for mtfill: both lanes inside the tile and aligned. -/
theorem test_mtfill : let s := suState 0 0 0x55 (pairRun 0 0x3FFC); let id := UnitId.site 1 2
    takeFire s id = some (taking s id) ∧
    (lanesAt s id).all (fun l => (unitSrc (taking s id).2.1 l 0).toNat < 16384 && (unitSrc (taking s id).2.1 l 0).toNat % 4 == 0) = true ∧
    memNat (cur (after (.mtfill 1 0 5 4) s)).mx.tile 0x3FFC 4 = 0x55 ∧
    tagOf (cur (after (.mtfill 1 0 5 4) s)).mx 0 = .filling := by decide +kernel

/-- Site (2, 2), a vector element, with a ready set of slot 3 that adds k0 to its input (`vadd.s32 out, in0, k0`). -/
def veState : State :=
  let u := { readyUnit 0b000_0000000_001_000_100_000_000_000_0_000#32 10 0 (pairRun 1 0xFFFFFFFF) with
    slots := [(3, { slotOf [.swRoute 4 1 2] [0b000_0000000_001_000_100_000_000_000_0_000#32] 0x1F80 with k0 := 10 })] }
  stateOf { coreOf [] with sites := [(18, u)], regions := [(0, someRegion)] } []

/-- VectorSlotsFireTheirStages: the first clause. -/
theorem test_vector : let u := siteAt (cur veState) 2 2; let t := pairRun 1 0xFFFFFFFF; let sl := u.slot 3
    let w := sl.word0
    u.saved = false ∧ nextSlot (cur veState) (.site 2 2) = some 3 ∧
    (takeReady false u 3).map (fun r => r.1) = some { slot := 3, toks := [t] } ∧ t.kind = .run ∧ consecutive t.tags = true ∧
    t.lanes.length = t.tags.length ∧ (∀ l ∈ t.lanes, l.null = false) ∧ inputsOf false sl = [0] ∧ sl.stages = [w] ∧
    Stg.outs w = true ∧ isRunOp (Stg.op w) = false ∧ readsRnd w = false ∧ Stg.dst w < 2 ∧
    Stg.src w 0 = 0 ∧ Stg.src w 1 = 4 ∧ Stg.src w 2 = 0 ∧ u.wordFor 3 4 = some (.swRoute 4 1 2) ∧ kindOk t (.swRoute 4 1 2) = true ∧
    ((siteAt (cur (after (.veSlotFire 2 2) veState)) 2 2).queue 4).map (·.lanes) = [[⟨11, false⟩, ⟨9, false⟩]] := by
  decide +kernel

/-- An accumulating slot 3 (`vadd.s32`, control bit 13) with a waiting token. -/
def accState : State :=
  let u := { FUnit.reset with
    place := 9, slots := [(3, slotOf [] [0b000_0000000_001_000_000_000_000_000_0_000#32] 0x3F80)]
    unitq := [{ slot := 3, inp := 0, tok := pairRun 1 2 }] }
  stateOf { coreOf [] with sites := [(18, u)], regions := [(0, someRegion)] } []

/-- VectorSlotsFireTheirStages: the second clause. -/
theorem test_accumulator : let u := siteAt (cur accState) 2 2
    u.saved = false ∧ u.unitq[0]? = some { slot := 3, inp := 0, tok := pairRun 1 2 } ∧ (u.slot 3).acc = true ∧
    heldByControl u { slot := 3, inp := 0, tok := pairRun 1 2 } = false ∧ (pairRun 1 2).isData = true ∧ findIdx u.unitq (fun e => e.slot == 3 && e.inp == 0) = some 0 ∧
    (siteAt (cur (after (.accTake 2 2 0) accState)) 2 2).accs.map (·.vals) = [[1, 2]] := by decide +kernel

/-- Memory node 2 with a ready set of slot 3 and the page of `stateOf` in its TLB, and the locus there; segment 0 at 0x100. -/
def mnState (t : Tok) (k0 k1 : W32) : State :=
  let n := { Node.reset with u := readyUnit 0 k0 k1 t, tlb := [somePage] }
  { stateOf { coreOf [] with coh := some { someCohort with segs := [0x100] }, nodes := [(2, n)], regions := [(0, someRegion)] } [] with
    locus := ⟨2, 0, 3⟩ }

/-- MemoryAccessesEnterTheirQueues: loads at 0x100 and 0x104; an ordering token; a fence. -/
theorem test_node_access : let s := mnState (pairRun 0 4) 0 0; let id := UnitId.mn 2
    takeFire s id = some (taking s id) ∧ ((lanesAt s id).map (·.tag)) = [4, 5] ∧
    ((lanesAt s id).map fun l => laneVa (taking s id).2.2 (taking s id).2.1 false 4 (unitSrc (taking s id).2.1 l 0)) = [0x100, 0x104] ∧
    tlbHit (taking s id).2.2 2 0x104 .read = some somePage ∧ tlbHit (taking s id).2.2 2 0x104 .both = some somePage ∧
    (cur s).parked = [] ∧ (cur s).nodes.all (fun e => decide (e.2.compare.length + 2 ≤ 128) && e.2.cross.isEmpty) = true ∧
    (formOf (.mld 1 0 4 1)).map (fun f => (f.size, f.gather, f.a)) = some (4, false, 0) ∧ (taking s id).2.1.loops = false ∧
    (nodeAt (cur (after (.mld 1 0 4 1) s)) (ownBank (cur s) 0x40104)).compare.map (·.addr) = [0x40100, 0x40104] ∧
    ((nodeAt (cur (after .mord s)) 2).u.queue 4).map (·.kind) = [.ordering] ∧
    (cur (after (.mfence 1 2 1) s)).fences.map (·.waits) = [[]] := by decide +kernel

/-- MemoryAccessesEnterTheirQueues: `mwaitu` of one lane on a word that is 0, for not equal to 0. -/
theorem test_mwaitu : let s := mnState { pairRun 0 0 with tags := [4], lanes := [⟨0, false⟩] } 0 0; let id := UnitId.mn 2
    takeFire s id = some (taking s id) ∧ (lanesAt s id).length = 1 ∧
    bankBad (taking s id).2.2 (ownBank (taking s id).2.2 0x40100) (0x40100 / 128) = false ∧
    (fabricCohort (taking s id).2.2).isSome = true ∧ inVector (taking s id).2.2 4 = false ∧
    tlbHit (taking s id).2.2 2 0x100 .read = some somePage ∧ isCap 0x40100 = false ∧ placeBad s 0x40100 4 = false ∧
    (sectorAt (taking s id).2.2 (ownBank (taking s id).2.2 0x40100) (0x40100 / 128)).dirty = [] ∧
    (sliceAt s (homeSlice s 0x40100)).onchip.length < min (sliceAt s (homeSlice s 0x40100)).wlimit 4096 := by decide +kernel

/-- A flight of node 2 by `op` with two lanes outstanding, whose first waits at bank `b` for 4 bytes at 0x40104. -/
def bankState (op : Instr) (data : W32) (v : Sector) : State :=
  let c := coreOf []
  let b := ownBank c 0x40104
  let a := { someAccess 0x40104 data 0 with flight := 7 }
  stateOf { c with
    nodes := [(b, { Node.reset with compare := [a], sectors := if v.filled || !v.dirty.isEmpty then [(0x40104 / 128, v)] else [] })]
    flights := [{ someFlight op with unit := .mn 2 }] } [(0, 0), (0, 0), (0, 0), (0, 0), (4, 0x0B)]

/-- The bank of that access. -/
def someBank : Nat := ownBank (coreOf []) 0x40104

/-- MemoryNodeEvents: a home load and atomic, a bank store and load. -/
theorem test_lane : let s := bankState (.mldNc 1 0 4 1) 0 Sector.empty; let b := someBank
    let p := fun (op : Instr) (v : Sector) => after (.mnLanePerform b 0) (bankState op 3 v)
    b < 8 ∧ (nodeAt (cur s) b).compare.length = 1 ∧ (cur s).flights.map (fun f => (f.id, f.left)) = [(7, 2)] ∧ (cur s).badBank = [] ∧
    placeBad s 0x40104 4 = false ∧ 0x40104 % 128 + 4 ≤ 128 ∧ (nodeAt (cur s) b).cross = [] ∧
    (sectorAt (cur s) (ownBank (cur s) 0x40104) (0x40104 / 128)).dirty = [] ∧ (nodeAt (cur s) b).sectors = [] ∧ placeOf (.mldNc 1 0 4 2) 0x40104 = .home ∧
    placeOf (.mst 1 0 1 4 1) 0x40104 = .bank ∧ accessKind (.mst 1 0 1 4 1) = 1 ∧ accessKind (.mld 1 0 4 1) = 0 ∧
    accessKind (.mamoAdd 1 0 1 5 2) = 2 ∧ accessKind (.mamoSwap 1 0 1 2) = 8 ∧ accessType (.mamoAdd 1 0 1 5 2) ≠ 7 ∧
    (cur (p (.mldNc 1 0 4 2) Sector.empty)).flights.map (fun f => f.res) = [[⟨0x0B, false⟩, ⟨0, false⟩]] ∧
    memNat (p (.mamoAdd 1 0 1 5 2) Sector.empty).mem 0x40104 4 = 0x0E ∧
    memNat (p (.mst 1 0 1 4 1) Sector.empty).mem 0x40104 4 = 0x0B ∧
    (sectorAt (cur (p (.mst 1 0 1 4 1) Sector.empty)) b (0x40104 / 128)).dirty = [(4, 3), (5, 0), (6, 0), (7, 0)] ∧
    (cur (p (.mld 1 0 4 1) { filled := true, clean := [], dirty := [(4, 9)] })).flights.map (fun f => f.res) =
      [[⟨9, false⟩, ⟨0, false⟩]] := by decide +kernel

/-- MemoryNodeEvents: an eviction of a sector with one dirty byte, and of one with none; a prefetch into an empty one. -/
theorem test_bank : let s := bankState (.mldNc 1 0 4 1) 0 { filled := false, clean := [], dirty := [(5, 0xEE)] }
    let t := { bankState (.mldNc 1 0 4 1) 0 Sector.empty with cores := [(0, { coreOf [] with tlb2 := [{ somePage with used := [4] }] })] }
    (nodeAt (cur s) someBank).sectors.length = 1 ∧ placeBad s (128 * (0x40104 / 128)) 128 = false ∧ s.slices = [] ∧
    memNat (after (.bankEvict someBank 0) s).mem 0x40104 4 = 0xEE0B ∧
    128 * (0x40104 / 128) / 65536 = 4 ∧ isCap 0x40104 = false ∧
    (sectorAt (cur (after (.bankPrefetch someBank 0x40104) t)) someBank (0x40104 / 128)).filled = true := by decide +kernel

/-- MemoryNodeEvents: a fence of flight 7 with nothing to wait for. -/
theorem test_fence_complete : let f : Flight := { someFlight (.mfence 1 2 1) with unit := .mn 2, left := 0 }
    let s := stateOf { coreOf [] with flights := [f], fences := [{ flight := 7, waits := [], fatal := false }] } []
    (cur s).fences.map (·.flight) = [7] ∧ (cur s).flights.map (·.id) = [7] ∧ f.fire.run ∉ ([] : List Nat) ∧ (cur s).parked = [] ∧
    (cur (after (.mfenceComplete 0) s)).fences = [] ∧ (cur (after (.mfenceComplete 0) s)).flights = [] := by decide +kernel

-- the stream engine ---------------------------------------------------------------------------------------------------------

/-- The bytes of a record, as `stateOf` takes them. -/
def recBytes (r : List Word) : Mem := (r.flatMap fun w => leBytes 8 w.toNat).map fun b => (0, b)

/-- R307: four 32-bit elements from virtual 0x200 up, RDIM `d`, DIR `w`. -/
def patternOf (d w : Nat) : List Word :=
  [0x200, BitVec.ofNat 64 (1 + 4 * 2 ^ 8 + w * 2 ^ 11 + 2 * 2 ^ 12 + d * 2 ^ 20), 0x0000000400000004, 4] ++ List.replicate 8 0

/-- R325: four rows in one slice of height 4, 16 columns. -/
def sparseRecord : List Word := [0x200, 0x300, 0x280, BitVec.ofNat 64 (4 + 4 * 2 ^ 16 + 2 * 2 ^ 28), 16, 0, 0, 0]

/-- A command's state: operands in s2 and s3 (s3 the operand `b`), record `r` at virtual 0x100. -/
def cmdState (b : Word) (r : List Word) : State := stateOf (coreOf [(2, 0x100), (3, b)]) (recBytes r)

/-- Whether the premises of a command that names a record of `k` words hold there. -/
def recordRead (s : State) (i : Instr) (rs : List Reg) (k kind cause : Nat) : Option (List Word) :=
  (readRecord (issued s 1 rs (some 5) i) s.core (command s 1 rs (some 5) i) k kind cause).2.toOption

/-- StreamCommandsAnswer: the six commands that bind, each with a record that passes and one operand that does not. -/
theorem test_stream_bind :
    Alone (cmdState 0 (patternOf 1 0)) (some 5) someCohort ∧ (genAt (cur (cmdState 0 (patternOf 1 0))) 0).st = .free ∧
    ([(Instr.sxBind 1 2 3 5, [2, 3], 0x000, patternOf 1 0), (.sxMcast 1 2 3 5, [2, 3], 0x0000000100000300, patternOf 1 0),
      (.sxRemote 1 2 3 5, [2, 3, 3], 0xB00, patternOf 0 1), (.sxWbload 1 2 3 5, [2, 3], 0x400000, patternOf 0 0),
      (.sxTile 1 2 3 5, [2, 3], 0x1000100, patternOf 0 0)].all fun e =>
        let s := cmdState e.2.2.1 e.2.2.2; let m := command s 1 e.2.1 (some 5) e.1
        !sxOperandBad m && recordRead s e.1 e.2.1 12 0x0D 0x0A == some e.2.2.2 && (sxRecordBad m e.2.2.2).isNone) = true ∧
    (let s := cmdState 0x1000 sparseRecord; let m := command s 1 [2, 3] (some 5) (.sxSparse 1 2 3 5)
      !sxOperandBad m && recordRead s (.sxSparse 1 2 3 5) [2, 3] 8 0x0D 0x0A == some sparseRecord &&
      (sxRecordBad m sparseRecord).isNone) = true ∧
    sxOperandBad (command (cmdState 0x800 []) 1 [2, 3] (some 5) (.sxBind 1 2 3 5)) = true := by decide +kernel

/-- A generator of the pattern at port 2, in state `st`. -/
def genOf (st : GenSt) (w : Nat) : Gen :=
  { Gen.reset with st := st, rcd := patternOf 1 w, ports := [2], cmd := 1, extents := [⟨0, 65536, 0x40000, true, true, true, true, none⟩] }

/-- Core 0 with generator 3 of that kind and with port 2. -/
def genState (v : Gen) (p : Port) (l : List (Nat × Word)) : State :=
  stateOf { coreOf l with gens := [(3, v)], ports := [(2, p)] } []

/-- StreamCommandsAnswer: sx.go, sx.stop, sx.bar, sx.query on generator 3. -/
theorem test_stream_control : let l := [((2 : Nat), (8 : Word)), (3, 3)]
    let s := fun (st : GenSt) => genState (genOf st 0) Port.reset l
    Alone (s .held) (some 5) someCohort ∧ X (s .held) 2 = BitVec.ofNat 64 (2 ^ 3) ∧ (genAt (cur (s .held)) 3).fn ≠ 6 ∧
    (genAt (cur (s .held)) 4).fn ≠ 6 ∧ (genAt (cur (s .held)) 3).ports = [2] ∧ isLoad (genAt (cur (s .running)) 3) = true ∧
    X (after (.sxQuery 1 3) (s .running)) 1 = 3 ∧ X (after (.sxGo 1 2) (s .held)) 1 = 0x80000 ∧
    (genAt (cur (after (.sxStop 1 2) (s .running))) 3).st = .ending ∧
    (genAt (cur (after (.sxBar 1 2 5) (s .running))) 3).bars = [1] := by decide +kernel

/-- StreamEvents: dispatch, an element, an extent walk, a store's run, an end. -/
theorem test_stream_events : let p := { Port.reset with fifo := [(3, false)] }
    let run := genState (genOf .running 0) { Port.reset with cur := some (3, false) } []
    let sto := genState (genOf .running 1) { Port.reset with cur := some (3, false), q := [pairRun 1 2] } []
    let wlk := genState { genOf .running 0 with extents := [] } Port.reset []
    let fin := genState (genOf .ending 0) { Port.reset with cur := some (3, false) } []
    genCohort (cur run) (genAt (cur run) 3) = some someCohort ∧ (genAt (cur run) 3).fn = 0 ∧
    portScopeOk (cur run) 2 false 2 = true ∧
    (genAt (cur (after (.streamDispatch 3) (genState (genOf .queued 0) p []))) 3).st = .running ∧
    pNull (patternOf 1 0) 0 = false ∧ 0 < pN (patternOf 1 0) ∧ pWrites (patternOf 1 0) = false ∧
    (let v := touch (genAt (cur run) 3) (nextVas run 0 (genAt (cur run) 3));
      genAccess run 0 v 0x200 4 none = (run, .value 0) ∧ queueFits (loadElement v 0 (some 0)) = true) ∧
    (genAt (cur (after (.generatorElement 3) run)) 3).pos = 1 ∧
    nextVas wlk 0 (genAt (cur wlk) 3) = [0x200] ∧ (extentOf (genAt (cur wlk) 3) 0x200).isNone = true ∧
    (translateAt wlk 0 0x200 .read).2.toOption = some somePage ∧
    (genAt (cur (after (.generatorExtentWalk 3) wlk)) 3).extents.map (·.pa) = [0x40000] ∧
    isStore (genAt (cur sto) 3) = true ∧ pByTag (patternOf 1 1) = false ∧ (pairRun 1 2).kind = .run ∧
    (portAt (cur sto) 2).used + 2 < pN (patternOf 1 1) ∧
    (genAt (cur (after (.storePortConsume 2) sto)) 3).q.map (·.tags) = [[0, 1]] ∧
    (genAt (cur (after (.streamComplete 3) fin)) 3).st = .free ∧
    (genAt (cur (after (.generatorRepatch 3) (genState (genOf .paused 0) p []))) 3).st = .running ∧
    (cur (after .coreCycle run)).seq.cycle = 1 := by decide +kernel

/-- StreamEvents: a load's token into its source, a stopped remote stream's acknowledgement, a spent budget, a barrier. -/
theorem test_stream_events2 : let t := loadedRun 0 0 [some 5]
    let g := { someRegion with cfg := { someConfig with edges := [19], anchor := 4 },
                               sources := [{ ep := 19, round := 0, done := false, q := [], marked := false }] }
    let c := { coreOf [] with gens := [(3, { genOf .running 0 with q := [t] })], regions := [(0, g)] }
    let rem := genState { genOf .ending 0 with fn := 7, waitAck := true, stopped := true } Port.reset []
    let mc := genState { genOf .running 0 with fn := 3, q := [t], budget := 9, stall := 9 } Port.reset []
    let k : Cmd := { newCmd (coreOf []) 8 1 [2] (some 5) (.sxBar 1 2 5) with rdWait := false, phase := .running }
    let bar := stateOf { coreOf [] with gens := [(3, { genOf .running 0 with bars := [8] })], cmds := [k] } []
    portSource c 2 = some (0, 0) ∧ sourceOpen c 0 0 t = true ∧ (sourceAt c 0 0).isSome = true ∧ t.isMark = false ∧
    ((sourceAt (cur (after (.loadPortEmit 3) (stateOf c []))) 0 0).map (·.q.length)) = some 1 ∧
    (genAt (cur rem) 3).waitAck = true ∧ (genAt (cur (after (.remoteAck 3 (.ok [])) rem)) 3).waitAck = false ∧
    blockedPort (cur mc) (genAt (cur mc) 3) = some 2 ∧ (after (.mcastStallBudget 3) mc).lu.fbuf.length = 1 ∧
    cmdAt (cur bar) 8 = some k ∧ k.op = .sxBar 1 2 5 ∧ k.rdWait = false ∧
    (cur bar).gens.all (fun e => e.2.bars == [8] && !e.2.waitAck && e.2.st != .parked) = true ∧
    (cur (after (.sxBarComplete 8) bar)).cmds = [] := by decide +kernel

-- the matrix engine -----------------------------------------------------------------------------------------------------------

/-- R334: M = N = K = 1, AFMT f16; R336: KD = ND = 1, BFMT f16, an area of 64 bytes. -/
def shapeRecord : List Word := [0x0000000100010101, 0, 0, 0, 0, 0, 0, 0]
/-- That descriptor. -/
def weightRecord : List Word := [0x0001000101000000, 1, 0, 0, 0, 0, 0, 0]

/-- `mx.mma` with A tile 0, group 1, record and descriptor 0, NA = NB = 0, AD, KA = 0. -/
def someMma : Instr := .mxMma 0 1 0 0 0 0 1 0 0

/-- Tile 0 FULL with the f16 number 2.0 first; descriptor 0 resident with 3.0. -/
def someMatrix : Matrix :=
  { Matrix.reset with
    tile := [(1, 0x40)], weight := [(1, 0x42)], tags := [(0, .full)], shapes := [(0, shapeRecord)]
    wds := [(0, weightRecord)], oplist := [(encode32 someMma).getD 0] }

/-- That matrix engine on core 0. -/
def mxState (x : Matrix) (l : List (Nat × Word)) (r : List Word) : State := stateOf { coreOf l with mx := x } (recBytes r)

/-- MatrixCommandsAnswer: mx.zero and mx.tag of tiles 1 and 2, mx.move of tile 0 to tile 1, both with a BUSY tile elsewhere;
mx.ldsh and mx.ldwd of records that pass. -/
theorem test_matrix_commands : let s := mxState someMatrix [(2, 0x0101), (3, 0), (4, 0x10000), (5, 0x100), (6, 0x100)]
    Alone (s shapeRecord) (some 5) someCohort ∧
    mxOperandBad (command (s []) 1 [2] (some 5) (.mxZero 1 2 5)) = false ∧ tagOf someMatrix 1 = .empty ∧
    mxOperandBad (command (s []) 1 [4] (some 5) (.mxMove 1 4 5)) = false ∧ tagOf someMatrix 0 = .full ∧ someMatrix.tile.wf = true ∧
    mxOperandBad (command (s []) 1 [5, 3] (some 5) (.mxLdsh 1 5 3 5)) = false ∧ firingNames someMatrix false 0 = false ∧
    recordRead (s shapeRecord) (.mxLdsh 1 5 3 5) [5, 3] 8 0x0E 0x04 = some shapeRecord ∧ shapeOk shapeRecord = true ∧
    shapeOk weightRecord = false ∧
    mxOperandBad (command (s []) 1 [5, 3] (some 5) (.mxLdwd 1 5 3 5)) = false ∧
    recordRead (s weightRecord) (.mxLdwd 1 5 3 5) [5, 3] 8 0x0E 0x04 = some weightRecord ∧ weightOk weightRecord = true ∧
    mxOperandBad (command (s []) 1 [0, 6] (some 5) (.mxLdwd 1 0 6 5)) = false ∧
    tagOf (cur (after (.mxMove 1 4 5) (s []))).mx 1 = .full ∧ memGet (cur (after (.mxMove 1 4 5) (s []))).mx.tile 0x4001 = 0x40 ∧
    mapGet (cur (after (.mxLdwd 1 0 6 5) (s []))).mx.wds 0 = none := by decide +kernel

/-- MatrixCommandsAnswer: a BUSY tile among those named. -/
theorem test_matrix_busy : let x := { someMatrix with tags := [(2, .busy)] }; let s := mxState x [(2, 0x0101)] []
    tagOf x 2 = .busy ∧ X (after (.mxZero 1 2 5) s) 1 = 0x10 ∧ X (after (.mxTag 1 2) s) 1 = 0x10 := by decide +kernel

/-- MatrixFiringsBeginAndComplete: the firing begins; its completion writes 2.0 · 3.0 = 6.0 as an f32. -/
theorem test_matrix_fire : let s := mxState someMatrix [] []; let q : MxOp := ⟨0, 1, 0, 0, false, false, true, false, false, false⟩
    mxFields someMma = some q ∧ mxAt someMatrix 0 = some q ∧ mayFire someMatrix 0 = true ∧ (cur s).prev = none ∧
    (cur s).saving = false ∧ pairOk (accepted s 4) (shFmt shapeRecord) (wdFmt weightRecord) = true ∧ wdSparse weightRecord = false ∧ shK shapeRecord ≤ wdK weightRecord ∧
    shN shapeRecord ≤ wdN weightRecord ∧ (cur s).badTile = [] ∧ (cur s).badWeight = [] ∧ q.a / 4 ≠ q.g ∧
    ((cur (after someMma s)).mx.running.map (·.pos)) = some 0 ∧ tagOf (cur (after someMma s)).mx 4 = .busy ∧
    memNat (cur (after .mxFireComplete (after someMma s))).mx.tile 0x10000 4 = 0x40C00000 ∧
    tagOf (cur (after .mxFireComplete (after someMma s))).mx 4 = .full ∧
    tagOf (cur (after .mxFireComplete (after someMma s))).mx 0 = .empty := by decide +kernel

/-- MatrixFiringsBeginAndComplete: tile port 2 reads word 0 of tile 0 and releases the tile. -/
theorem test_tile_port : let t := { someRun with lanes := [⟨0x80000000, false⟩, ⟨0, true⟩] }
    let x := { someMatrix with ports := [(2, [t])] }
    let c := { coreOf [] with mx := x, sites := [(siteKey 7 2, siteOf [.swRoute 1 3 5] [])], regions := [(0, someRegion)] }
    let z := after (.tilePortRead 2) (stateOf c [])
    mapGetD x.ports 2 [] = [t] ∧ t.isRun = true ∧ (siteAt c 7 2).saved = false ∧
    t.lanes.all (fun l => l.v.toNat / 2 ^ 18 % 2 ^ 13 == 0) = true ∧ reqTiles t = [0] ∧ tagOf x 0 = .full ∧
    hasSpace ((siteAt c 7 2).queue 1) t = true ∧ (siteAt c 7 2).wordFor 3 1 = some (.swRoute 1 3 5) ∧
    ((siteAt (cur z) 7 2).queue 1).map (·.lanes) = [[⟨0x4000, false⟩, ⟨0, true⟩]] ∧ tagOf (cur z).mx 0 = .empty := by decide +kernel

-- the block scheduler ---------------------------------------------------------------------------------------------------------

/-- A scheduler with threads 1 and 2 waiting at block 0, thread 9 in its barrier. -/
def someSched : Sched := { Sched.reset with waiting := [(0, [1, 2])], barred := [(0, [9])] }

/-- SchedulerCommandsAnswer: a query of block 0; a seed in hold; a policy; uniform and round arms. -/
theorem test_sched_commands : let l : List (Nat × Word) := [(2, 0), (3, 0x00020003), (4, 1), (5, 1), (6, 0x40000000000)]
    let s := stateOf { coreOf l with bs := { Sched.reset with hold := true, waiting := [(0, [1, 2])] } } []
    let w := stateOf { coreOf l with bs := someSched } []
    let b := stateOf { coreOf l with coh := some { someCohort with started := false } } []
    Alone s (some 5) someCohort ∧ bsOperandBad (cur s) (command s 1 [2, 3] none (.bsSeed 1 2 3)) = false ∧
    holdOn (cur s) = true ∧ holdOn (cur w) = false ∧ (cur s).bs.barred = [] ∧
    bsOperandBad (cur s) (command s 1 [2, 4] none (.bsPolicy 1 2 4)) = false ∧ X s 4 = BitVec.ofNat 64 1 ∧
    Alone b (some 5) { someCohort with started := false } ∧ X (after (.bsSeed 1 2 3) b) 1 = 0x12 ∧
    X (after (.bsSeed 1 2 3) w) 1 = 0x10 ∧ waitingOf (cur (after (.bsSeed 1 2 3) s)) 0 = [1, 2, 3, 4] ∧
    X (after (.bsQuery 1 2) s) 1 = bsWord (cur s) 0 ∧ (cur (after (.bsUniform 1 4) s)).bs.st = true ∧
    (cur (after (.bsRound 1 4 5) s)).bs.armHold = true := by decide +kernel

/-- A region whose source `ep` is fed by `f`, LIVE, with nothing on its way. -/
def fedRegion (ep : Nat) (f : Target) : Region :=
  { someRegion with census := 0, stitches := [(32 + ep, f)],
                    sources := [{ ep := ep, round := 0, done := false, q := [], marked := false }] }

/-- SchedulerEvents: a decision for block 0, the run of its turn, an exit to block 1, a round point. -/
theorem test_sched_events : let c := { coreOf [] with regions := [(0, fedRegion 3 (.entry 0))], bs := { someSched with barred := [] } }
    let turn := { c with bs := { c.bs with turn := some (0, [1, 2], 0), turnReady := true } }
    let set : Tok := { bareTok .run 0 0 0 9 with tags := [4, 5], lanes := [⟨4, false⟩, ⟨5, false⟩] }
    let port : FUnit := { FUnit.reset with ready := [{ slot := 0, toks := [set] }] }
    let leave := { c with bs := { Sched.reset with dir := 0x100, exits := [(1, port)], cached := [(0, [0, 0x8001, 0, 0])] } }
    let idle := { coreOf [] with bs := { Sched.reset with barred := [(0, [9])] } }
    fabricCohort c = some someCohort ∧ c.saving = false ∧ c.bs.turn = none ∧ holdOn c = false ∧ c.bs.policy = none ∧
    c.bs.demand = [] ∧ chooseBlock c = some 0 ∧ blockRegion c 0 = some (0, fedRegion 3 (.entry 0)) ∧
    entrySource (fedRegion 3 (.entry 0)) = some 0 ∧
    sourceAt c 0 0 = some { ep := 3, round := 0, done := false, q := [], marked := false } ∧
    (cur (after .bsDecision (stateOf c []))).bs.turn = some (0, [1, 2], 0) ∧
    openEntry turn 0 = some (0, 0) ∧ formRun false [1, 2] = [1, 2] ∧ sourceOpen turn 0 0 (entryRun 0 (runKind [1, 2]) [1, 2]) = true ∧
    (cur (after .bsInjectRun (stateOf turn []))).bs.turn = some (0, [], 0) ∧
    waitingOf (cur (after .bsInjectRun (stateOf turn []))) 0 = [] ∧
    (unitAt leave (.exit 1)).ready = port.ready ∧ unperformed leave [4, 5] = false ∧ outValues leave 9 = [] ∧
    [4, 5].Nodup ∧ inVector leave 4 = false ∧ inVector leave 5 = false ∧ (cfgOfPlace leave 9).map (·.block) = some 0 ∧
    (exitEntry [0, 0x8001, 0, 0] (2 * exitNumber leave 9 1 + 0)) = 0x8001 ∧
    waitingOf (cur (after (.exitPortFire 1) (stateOf leave []))) 1 = [4, 5] ∧
    atRoundPoint idle = true ∧ waitingOf (cur (after .roundPoint (stateOf idle []))) 0 = [9] := by decide +kernel

/-- R412: one row of one bf16 element in rows of 16 bytes, one bag; the arrays at virtual 0x100, 0x200, 0x300. -/
def bagRecord : List Word := [0x10000, 1 + 2 ^ 32 + 2 * 2 ^ 48 + 4 * 2 ^ 52, 0x100, 0x200, 0x300, 0, 1, 0]

/-- `i` as command 8 with that record and operand `b`, and its progress changed by `f`; virtual 0x10000 lies at the base of
the capacity tier, whose first row holds the bf16 number 1.0. -/
def bagState (i : Instr) (b : Word) (f : Cap → Cap) : State :=
  let m : Cmd := { newCmd (coreOf [(3, b), (4, 0x100)]) 8 1 [4, 3, 5] (some 5) i with rdWait := false, phase := .running }
  let s := stateOf { coreOf [] with cmds := [m], caps := [f (newCap m bagRecord)] } []
  { s with mod := { s.mod with feat := some [2] }, mem := memWrite (memWrite (memWrite s.mem 0x10008 [0x7F, 0, 0, 0, 0, 0x04]) 0x40200 [1]) (2 ^ 42) [0x80, 0x3F] }

/-- That row as a binding leaves it, with weight `w`. -/
def someBag (w : W32) : CapBag := { len := 1, bad := false, rows := [(0x10000, 2 ^ 42, w)] }

/-- CapacityCommandsAnswerAndProceed: the three commands accepted with their record; one refused for its address. -/
theorem test_capacity_commands : let s := stateOf (coreOf [(3, 0x200), (4, 0x100)]) (recBytes bagRecord)
    Alone s (some 5) someCohort ∧ bagOk bagRecord false = true ∧ bagOk bagRecord true = true ∧ bagOk sparseRecord true = false ∧
    ([(Instr.embPool 1 4 3 5, 0x200), (.embGather 1 4 3 5, 0x200), (.embScatadd 1 4 3 5, 0)].all fun e =>
      let s := stateOf (coreOf [(3, e.2), (4, 0x100)]) (recBytes bagRecord); let m := command s 1 [4, 3, 5] (some 5) e.1
      !capOperandBad m && capVirtual m && recordRead s e.1 [4, 3, 5] 8 0x11 0x06 == some bagRecord &&
      (cur (after e.1 s)).caps.map (·.rcd) == [bagRecord]) = true ∧
    capOperandBad (command s 1 [3, 3, 4] (some 5) (.embScatadd 1 3 3 5)) = true := by decide +kernel

/-- The command and its progress as an event finds them. -/
def bagRun (s : State) : Cmd × Cap :=
  (capRuns (cur s) 8).getD (newCmd (coreOf []) 0 0 [] none .coreCycle, newCap (newCmd (coreOf []) 0 0 [] none .coreCycle) [])

/-- CapacityCommandsAnswerAndProceed: a binding of one row of weight 1. -/
theorem test_capacity_binding : let s := bagState (.embPool 1 4 3 5) 0x200 fun k => { k with active := true }
    capRuns (cur s) 8 = some (bagRun s) ∧ (bagRun s).2.active = true ∧ (bagRun s).2.bound = false ∧ (cur s).saving = false ∧
    (bindAll s 0 (bagRun s).1 (bagRun s).2).2.toOption.map (·.2) = some ([someBag 0x3F800000], []) ∧
    (capAt (cur (after (.capBindingDone 8) s)) 8).map (·.bags) = some [someBag 0x3F800000] := by decide +kernel

/-- CapacityCommandsAnswerAndProceed: the pooled value 1.0 · 1.0 and the marker behind it. -/
theorem test_capacity_pool :
    let s := bagState (.embPool 1 4 3 5) 0x200 fun k => { k with active := true, bound := true, bags := [someBag 0x3F800000] }
    capRuns (cur s) 8 = some (bagRun s) ∧ capPort (bagRun s).1 = some 2 ∧ (portAt (cur s) 2).outq = [] ∧
    isPool (bagRun s).1 = true ∧ capVirtual (bagRun s).1 = true ∧ (bagRun s).2.bags = [someBag 0x3F800000] ∧
    (bagRun s).2.bound = true ∧ isBad s.badMem (2 ^ 42) (cRowSize bagRecord) = false ∧
    ((portAt (cur (after (.capBagResult 8) s)) 2).outq.map fun t => (t.isMark, t.lanes)) =
      [(false, [⟨0x3F800000, false⟩]), (true, [])] := by decide +kernel

/-- CapacityCommandsAnswerAndProceed: 1.0 + 1.0 · 2.0 = 3.0 (0x4040 in bf16) in the row. -/
theorem test_capacity_update :
    let s := bagState (.embScatadd 1 4 3 5) 0 fun k =>
      { k with active := true, bound := true, bags := [someBag 0x3F800000], begun := true, grad := [0x40000000] }
    capRuns (cur s) 8 = some (bagRun s) ∧ isScatter (bagRun s).1 = true ∧ (bagRun s).2.bags = [someBag 0x3F800000] ∧
    (someBag 0x3F800000).len ≠ 0 ∧ (someBag 0x3F800000).rows[(bagRun s).2.row]? = some (0x10000, 2 ^ 42, 0x3F800000) ∧
    (bagRun s).2.begun = true ∧ (bagRun s).2.bound = true ∧ isBad s.badMem (2 ^ 42) (cRowSize bagRecord) = false ∧
    memNat (after (.capRowUpdate 8) s).mem (2 ^ 42) 2 = 0x4040 := by decide +kernel

/-- The relay of core 0, first of two cores of its launch, or of one that stands alone. -/
def relayState (k : Relay) (chain : Nat) : State :=
  { stateOf { coreOf [] with coh := some { someCohort with chain := chain }, relay := k } [] with
    launches := [{ someLaunch with cores := (List.range chain) }] }

/-- `nb.scan` of int32 sums in nd, INCL set, init 100. -/
def scanRelay : Relay := { Relay.reset with place := 9, nd := [(encode32 (.nbScan 0 0 0)).getD 0, 1, 100, 0] }

/-- RelayUnitsPassTokens: forwarding, a scan's local value, its sum with init, an end mark, a drain, a receipt. -/
theorem test_relay : let one := { someRun with slot := 0, tags := [4], lanes := [⟨5, false⟩] }
    let fwd := relayState { Relay.reset with ndq := [someRun] } 2
    let scan := relayState { scanRelay with ndq := [one] } 1
    let comb := relayState { scanRelay with runs := [(0, one)], locals := [{ round := 0, tag := 4, a := 0, b := 5, null := false, res := 0 }] } 1
    let core := { coreOf [] with coh := some { someCohort with chain := 2 }, regions := [(0, { someRegion with census := 0, stitches := [(4, .nd)] })] }
    let fin := { relayState Relay.reset 2 with cores := [(0, core)] }
    let nu := stateOf { coreOf [] with regions := [(0, fedRegion 3 .nu)], relay := { Relay.reset with nuBuf := [plainLink one] } } []
    (chainCore fwd 0 1).isSome = true ∧ someRun.kind = .run ∧ (cur (after .nbFwd fwd)).relay.linkOut = [plainLink someRun] ∧
    scanWord (cur scan) = some (0, 0, false) ∧ one.kind = .run ∧ one.slot = 0 ∧
    (cur (after (.nbScan 0 0 0) scan)).relay.locals.map (fun v => (v.tag, v.b)) = [(4, 5)] ∧
    chainHead (cur comb) = true ∧ chainCore comb 0 1 = none ∧ scanIncl (cur comb) = true ∧ scanInit (cur comb) 0 = (0, 100) ∧
    (cur comb).badScan.contains 4 = false ∧ linkBad (cur nu) = false ∧
    (cur (after (.scanCombine 4) comb)).relay.results.map (·.lanes) = [[⟨105, false⟩]] ∧
    scanWord (cur nu) = none ∧ nuSource (cur nu) = some (0, 0) ∧ sourceOpen { (cur nu) with saving := false } 0 0 one = true ∧
    (cur (after .nuReceive nu)).relay.taken = 1 ∧
    (ndRegion (cur fin)).isSome = true ∧ atPhaseEnd { someRegion with census := 0 } = true ∧ ndMarksGone (cur fin) 9 = true ∧
    ndIdle (cur fin).relay = true ∧ (chainCore fin 0 1).isSome = true ∧
    (cur (after .ndEndMark fin)).relay.linkOut.map (·.last) = [true] ∧
    Alone (plain []) (some 5) someCohort ∧
    (cur (after (.nbDrain 1 5) (plain []))).cmds.map (·.value) = [0] := by decide +kernel

-- the configuration loader ----------------------------------------------------------------------------------------------------

/-- Core 0 with region 0 `g` and site (2, 2) of the vector slot of `veState`; operands in s2 and s3. -/
def loadState (g : Option Region) (a b : Word) (h : Cohort) : State :=
  stateOf { coreOf [(2, a), (3, b)] with coh := some h, sites := [(18, siteAt (cur veState) 2 2)],
                                         regions := match g with | some r => [(0, r)] | none => [] } []

/-- A region with no token on its way and no source open. -/
def endedRegion : Region := { someRegion with census := 0, cfg := { someConfig with edges := [0x20, 0x21] } }

/-- LoaderCommandsAnswer: drain and evict of region 0, absent, LIVE with tokens, or at its end. -/
theorem test_drain_evict : let s := fun (g : Option Region) => loadState g 0 0 someCohort
    Alone (s none) (some 5) someCohort ∧ X (s none) 2 = BitVec.ofNat 64 0 ∧ mapGet (cur (s none)).regions 0 = none ∧
    X (after (.cfgDrain 1 2 5) (s none)) 1 = 0x11 ∧ someRegion.phase = .live ∧ atPhaseEnd someRegion = false ∧
    (mapGet (cur (after (.cfgDrain 1 2 5) (s (some someRegion)))).regions 0).map (·.phase) = some .closed ∧
    X (after (.cfgEvict 1 2) (s (some someRegion))) 1 = 0x17 ∧ atPhaseEnd endedRegion = true ∧ endedRegion.phase ≠ .splicing ∧
    (cur (s none)).mx.running = none ∧ (cur (after (.cfgEvict 1 2) (s (some endedRegion)))).regions = [] := by decide +kernel

/-- LoaderCommandsAnswer: edge port 1 of region 0 stitched to exit port 0; a port without an entry refused. -/
theorem test_stitch : let s := fun (a : Word) => loadState (some endedRegion) a 1 someCohort
    let m := fun (a : Word) => command (s a) 1 [2, 3] (some 5) (.cfgStitch 1 2 3 5)
    loaderOperandBad (m 0x100) = false ∧ stitchRefused (cur (s 0x200)) (m 0x200) = some 2 ∧
    X (after (.cfgStitch 1 2 3 5) (s 0x200)) 1 = 2 ∧ stitchRefused (cur (s 0x100)) (m 0x100) = none ∧
    stitchTarget (m 0x100) = some (.exit 0) ∧ stitchScopeBad (cur (s 0x100)) endedRegion 1 (.exit 0) = false ∧
    (mapGet (cur (after (.cfgStitch 1 2 3 5) (s 0x100))).regions 0).bind (fun x => mapGet x.stitches 1) = some (.exit 0) := by
  decide +kernel

/-- LoaderCommandsAnswer: k1 and k0 of slot 3 of site (2, 2); a slot that is not in use. -/
theorem test_patch : let s := fun (a : Word) => loadState (some endedRegion) a 7 someCohort
    let m := fun (a : Word) => command (s a) 1 [2, 3] none (.cfgPatch 1 2 3)
    let sl := fun (a : Word) => (siteAt (cur (after (.cfgPatch 1 2 3) (s a))) 2 2).slot 3
    loaderOperandBad (m 0x13220) = false ∧ (patchSlot (cur (s 0x13220)) endedRegion (m 0x13220)).isSome = true ∧
    (sl 0x13220).k1 = 7 ∧ (sl 0x13220).k0 = 10 ∧ (sl 0x3220).k0 = 7 ∧ (sl 0x3220).k1 = 0 ∧
    (patchSlot (cur (s 0x4220)) endedRegion (m 0x4220)).isNone = true ∧ X (after (.cfgPatch 1 2 3) (s 0x4220)) 1 = 2 := by
  decide +kernel

/-- LoaderCommandsAnswer: start at block 0, and when already started; invalidation of the first 64 KiB. -/
theorem test_start_inv : let fresh := { someCohort with started := false }
    let s := loadState (some someRegion) 0 10 fresh; let z := after (.cfgStart 1 2 3) s
    let i := loadState none 0 0x10000 someCohort; let w := after (.cfgInv 1 2 3 5) i
    Alone s (some 5) fresh ∧ loaderOperandBad (command s 1 [2, 3] none (.cfgStart 1 2 3)) = false ∧ (cur s).flights = [] ∧
    s.launches.all (fun l => l.lastPred.isNone) = true ∧ someConfig.block = 0 ∧
    (cur z).coh = some { fresh with bankMap := 10, started := true } ∧ (waitingOf (cur z) 0).length = 64 ∧
    X (after (.cfgStart 1 2 3) (loadState (some someRegion) 0 10 someCohort)) 1 = 0x1A ∧
    loaderOperandBad (command i 1 [2, 3] (some 5) (.cfgInv 1 2 3 5)) = false ∧ (cur i).walk ≠ [] ∧ (cur w).walk = [] ∧
    (cur w).seq.pc = 0x1004 := by decide +kernel

/-- R163: one site, block 1, LEN 12; the site record holds no slot. -/
def imageBytes : List Byte := [0x11, 0, 1, 0, 12]
/-- That image at 0x50000, whose binding word (GEN 1, bound) stands at virtual 0x100; core `c`. -/
def imageState (c : Core) : State :=
  let s := stateOf c (recBytes [0x0010000000050002])
  { s with mem := memWrite s.mem 0x50000 imageBytes }
/-- The image as a store entry holds it. -/
def someImage : List Byte := memRead (imageState (coreOf [])).mem 0x50000 768

/-- ImagesAreFetchedPlacedAndSpliced: a fetch into entry 3, at once and by its wake. -/
theorem test_cfg_fetch : let s := imageState (coreOf [(2, 0x100), (3, 3)]); let e : Entry := { img := someImage, bva := 0x100, gen := 1 }
    let m : Cmd := { newCmd (coreOf [(2, 0x100), (3, 3)]) 8 1 [2, 3] (some 5) (.cfgFetch 1 2 3 5) with
      phase := .running, ops := [0x100, 3, 0x10], value := 0x0010000000050002, rdWait := false }
    let w := imageState { coreOf [] with cmds := [m] }
    Alone s (some 5) someCohort ∧ canonical (X s 2) = true ∧
    (translateAt (setEntry (taken s 1 [2, 3] (some 5) (.cfgFetch 1 2 3 5) 0) 0 3 none) 0 0x100 .both).2.toOption = some somePage ∧
    placeBad s (somePage.phys 0x100) 8 = false ∧ memNat s.mem (somePage.phys 0x100) 8 = 0x0010000000050002 ∧
    (readImage s 0x0010000000050002).toOption = some someImage ∧ m.fld 2 0 4 = 3 ∧
    mapGet (cur (after (.cfgFetch 1 2 3 5) s)).entries 3 = some e ∧
    mapGet (cur (after (.cfgFetchWake 8) w)).entries 3 = some e := by decide +kernel

/-- ImagesAreFetchedPlacedAndSpliced: entry 3 placed in region 1 at (4, 2); spliced there over an ended region of block 2. -/
theorem test_place_splice : let e : Entry := { img := someImage, bva := 0x100, gen := 1 }
    let old := { someRegion with census := 0, cfg := { someConfig with block := 2, x0 := 4, y0 := 2, w := 1, h := 1 } }
    let s := imageState { coreOf [(2, 0x103), (3, 0x0204)] with entries := [(3, e)] }
    let p := imageState { coreOf [(2, 0x103), (3, 0x0204)] with entries := [(3, e)], regions := [(1, old)] }
    let m := command s 1 [2, 3] (some 5) (.cfgPlace 1 2 3 5); let g := { imgConfig someImage 2 4 2 with launch := 1 }
    Alone s (some 5) someCohort ∧ loaderOperandBad m = false ∧ m.fld 1 0 4 = 3 ∧ m.fld 1 8 3 = 1 ∧
    placeRefused (cur s) 1 someImage 4 2 = none ∧ placeRefused (cur p) 1 someImage 4 2 = none ∧
    (translateAt (taken s 1 [2, 3] (some 5) (.cfgPlace 1 2 3 5) 0) 0 0x100 .read).2.toOption = some somePage ∧
    (taken s 1 [2, 3] (some 5) (.cfgPlace 1 2 3 5) 0).nextId = 2 ∧
    imageBad (cur s) someImage g = none ∧ boundMissing someImage g = false ∧ portColumns g = [] ∧
    (mapGet (cur (after (.cfgPlace 1 2 3 5) s)).regions 1).map (·.cfg) = some g ∧
    X (after (.cfgPlace 1 2 3 5) p) 1 = 0x10 ∧ X (after (.cfgSplice 1 2 3 5) s) 1 = 0x11 ∧
    (mapGet (cur (after (.cfgSplice 1 2 3 5) p)).regions 1).map (fun y => (y.phase, y.succ.map (·.cfg))) =
      some (.splicing, some g) := by decide +kernel

/-- R163: ANCHOR east, one site, an op list whose first word is `w`. -/
def listImage (w : W32) : List Byte :=
  [0x11, 2, 1, 0, 16] ++ List.replicate 763 0 ++ leBytes 4 w.toNat ++ List.replicate 252 0

/-- ImagesAreFetchedPlacedAndSpliced: site (2, 2) and the op list take their successor's words. -/
theorem test_take_successor :
    let cfg := { imgConfig someImage 10 2 2 with launch := 1 }
    let sp : Splice := { cfg := cfg, img := someImage, mode := 0, census := 0, cmd := 1, units := [.relay] }
    let r := { someRegion with phase := .splicing, succ := some sp }
    let s := stateOf { coreOf [] with sites := [(18, { FUnit.reset with place := 9 })], regions := [(0, r)] } []
    let lsp : Splice := { sp with img := listImage 0x12345678, units := [.opList, .relay] }
    let l := stateOf { coreOf [] with mx := { someMatrix with place := 9 }, regions := [(0, { r with succ := some lsp })] } []
    splicing (cur s) 9 = some (0, r, sp) ∧ (siteAt (cur s) 2 2).saved = false ∧ (siteAt (cur s) 2 2).marks = [] ∧
    inRect cfg 2 2 = true ∧ siteDone false ([0, 1, 2, 3].foldl (forwardWave false 2 2) (cur s)) 2 2 = true ∧
    (siteAt (cur (after (.siteTakeSuccessor 2 2) s)) 2 2).place = 10 ∧
    unitSplice (cur l) .opList = some (0, { r with succ := some lsp }, lsp) ∧ (cur l).mx.running = none ∧
    (List.range 6).all (tileWave (cur l) { r with succ := some lsp }) = true ∧
    (cur (after (.edgeUnitTakeSuccessor .opList) l)).mx.oplist = [0x12345678] := by decide +kernel

-- completion, contexts and launches -------------------------------------------------------------------------------------------

/-- EnginesFinishTheirWork: a drained region's source, a replayed sequencer fault, a finished command of pennant 5. -/
theorem test_finish :
    let g := { fedRegion 3 (.entry 0) with drained := true }
    let s := stateOf { coreOf [] with regions := [(0, g)] } []
    let p : Parked := { seq := 0, who := .sequencer, va := 0, inRing := true, answer := 1 }
    let f := stateOf { coreOf [] with seq := { seqOf [] with st := .stall }, parked := [p] } []
    let m : Cmd := { newCmd (coreOf []) 8 1 [2] (some 5) (.cfgDrain 1 2 5) with rdWait := false, phase := .finished, record := true }
    let c := stateOf { coreOf [] with cmds := [m], seq := { seqOf [] with pn := [0, 0, 0, 0, 0, 2, 7, 0] } } []
    g.succ = none ∧ g.sources.all (fun q => fedBy g q.ep == some (.entry 0)) = true ∧
    (mapGet (cur (after (.phaseEnd 0) s)).regions 0).map (fun x => x.sources.map (·.done)) = some [true] ∧
    (cur (after (.faultReplay 0) f)).seq.st = .run ∧ (cur (after (.faultReplay 0) f)).parked = [] ∧
    (cur c).seq.pn.length = 8 ∧ (cur (after (.commandComplete 8) c)).seq.pn = [0, 0, 0, 0, 0, 1, 7, 0] ∧
    (cur (after (.commandComplete 8) c)).seq.pf = 0x20 := by decide +kernel

/-- R442: root table 0x90000, class 2, 4 pins, save area at the second region, one core block. -/
def ctxWords : List Word := [0x90000, 2 + 4 * 2 ^ 8, 0x40000000, 1, 0, 0, 0, 0]
/-- R445: base 0x70000, 8 records, context 0, weight 1, EN 0, tail word 0x71000, head word 0x72000. -/
def queueWords : List Word := [0x70000, 3 + 2 ^ 16, 0x71000, 0x72000]

/-- Context and queue tables with that record for context 1 and that descriptor for queue 0; core 0 has `c`. -/
def tableState (c : Core) : State :=
  let s := stateOf c []
  let bytes := fun (l : List Word) => l.flatMap fun w => leBytes 8 w.toNat
  { s with homeMap := [(0, 1), (1, 0x20001)], lu := { s.lu with ctxtab := 0x60000, qtab := 0x61000, en := true },
           mem := memWrite (memWrite s.mem 0x60040 (bytes ctxWords)) 0x61000 (bytes queueWords) }

/-- LaunchUnitCommandsComplete: CREATE of context 1, TEARDOWN, SAVE, RESTORE of context 0, and each in the wrong state. -/
theorem test_context_commands : let s := tableState (coreOf [])
    s.mod.window = true ∧ s.lu.busy = none ∧ (ctxAt s 1).st = .free ∧ (ctxAt s 0).st ≠ .free ∧
    ctxRecord s 1 = some ctxWords ∧ ctxRecordOk s ctxWords = true ∧
    (ctxAt (after (.create 1) s) 1).st = .idle ∧ (ctxAt (after (.create 1) s) 1).root = 0x90000 ∧
    (after (.create 0) s).lu.status = 1 ∧ (after (.teardown 1) s).lu.status = 1 ∧
    (ctxAt (after (.teardown 0) s) 0).st = .free ∧ (after (.teardown 0) s).launches = [] ∧
    (ctxAt (after (.save 0) s) 0).st = .saving ∧ (after (.save 0) s).lu.busy = some (3, 0) ∧
    (after (.restore 0) s).lu.status = 0 := by decide +kernel

/-- LaunchUnitCommandsComplete: ANSWER of one parked fault, SHOOTDOWN of everything, QSYNC of queue 0. -/
theorem test_context_commands2 : let p : Parked := { seq := 0, who := .sequencer, va := 0, inRing := true, answer := 0 }
    let s := tableState { coreOf [] with parked := [p] }; let z := after .qsync s
    s.lu.arg0 = 0 ∧ s.lu.arg1 = 0 ∧ ctxCores s 0 = [0] ∧ canonical s.lu.arg0 = true ∧
    (coreAt (after (.answer 0) s) 0).parked.map (·.answer) = [1] ∧
    (coreAt s 0).walk ≠ [] ∧ (coreAt (after (.shootdown 0) s) 0).walk = [] ∧ (after (.shootdown 0) s).lu.busy = some (6, 0) ∧
    placeBad s 0x61000 32 = false ∧ wordsOf 4 (memRead s.mem 0x61000 32) = queueWords ∧ queueDescOk s queueWords = true ∧
    rfld queueWords 1 24 1 = 0 ∧ (queueAt z 0).desc = queueWords ∧ z.lu.status = 0 := by decide +kernel

/-- R447: one die group, `ncg` cluster groups of `ncoh` cohorts, 64 threads, LIVE 8, PC 0x1000, ARG 0x77, die 0. -/
def launchWords (ncg ncoh done : Nat) : List Word :=
  [BitVec.ofNat 64 (1 + 2 ^ 16 + ncg * 2 ^ 21 + ncoh * 2 ^ 24 + 64 * 2 ^ 32 + 2 ^ 48), 0x1000, 0x77, 0, 0, BitVec.ofNat 64 done, 0x22, 1,
   0, 0, 0, 0, 0, 0, 0, 0]
/-- A launch of context `x`, queue 5, that has not started. -/
def newOne (x ncg ncoh : Nat) : Launch :=
  { someLaunch with id := 2, queue := 5, ctx := x, rcd := launchWords ncg ncoh 0, st := .pending, cores := [], live := 0 }

/-- ContextInstructionsComplete: ctx.yield alone and beside a launch for the whole die; ctx.mark; ctx.fault. -/
theorem test_ctx_commands : let s := plain [(2, 0x2A)]
    let w := { s with ctxs := mapSet s.ctxs 1 { Ctx.reset with st := .idle, nblk := 24 }, launches := [someLaunch, newOne 1 6 4] }
    let v := { s with ctxs := [(0, { (ctxAt s 0) with st := .saving })] }
    Alone s none someCohort ∧ Alone w none someCohort ∧ Alone v none someCohort ∧
    someoneWaits (issued s 1 [] none (.ctxYield 1)) 0 0 = false ∧ X (after (.ctxYield 1) s) 1 = 0x10 ∧
    someoneWaits (issued w 1 [] none (.ctxYield 1)) 0 0 = true ∧ (ctxAt w 0).st = .running ∧
    (ctxAt (after (.ctxYield 1) w) 0).st = .saving ∧ (ctxAt (after (.ctxMark 1) s) 0).st = .saving ∧
    X (after (.ctxMark 1) v) 1 = 0x11 ∧ (after (.ctxFault 1 2 3) s).lu.fbuf.length = 1 := by decide +kernel

/-- LaunchesRunAndComplete: queue 5 whose head meets its tail; one with two records, the first of version 0; a dependence. -/
theorem test_queues :
    let v : Queue := { en := true, desc := queueWords, head := 4, seen := 0, woken := some 4, deficit := 0 }
    let s := tableState (coreOf []); let a := { s with queues := [(5, v)] }; let b := { s with queues := [(5, { v with woken := some 6 })] }
    let d := { s with launches := [{ newOne 0 1 1 with deps := [false, true] }],
                      wakes := [{ cause := 0x10, value := 0, e := { someWatch with agent := 2, cont := 65, launch := 2 } }] }
    (queueAt a 5).woken = some 4 ∧ (queueAt (after (.queueTailWake 5) a) 5).seen = 4 ∧
    memNat (after (.queueTailWake 5) a).mem 0x72000 4 = 4 ∧
    2 ≤ qSize v.desc ∧ pendingOf b 5 < 4096 ∧ placeBad b 0x70200 128 = false ∧
    recordOk (wordsOf 16 (memRead b.mem 0x70200 128)) = false ∧ qBase v.desc + 128 * 4 = 0x70200 ∧
    (after (.queueRecordCopy 5) b).launches.map (·.st) = [.running, .refused 1] ∧
    (d.wakes.find? fun w => depWatch { newOne 0 1 1 with deps := [false, true] } 1 w.e).isSome = true ∧
    (after (.dependenceWake 2 1) d).launches.map (·.deps) = [[false, false]] := by decide +kernel

/-- A machine whose launch unit holds one launch, `l`, of context 0 (IDLE, 24 blocks) in queue 5, and whose core 0 has `c`. -/
def launchState (l : Launch) (c : Core) (picked : Bool) : State :=
  let s := tableState c
  { s with launches := [l], queues := [(5, { Queue.reset with en := true, desc := queueWords })],
           ctxs := [(0, { ctxAt s 0 with st := if c.coh.isNone then .idle else .running, nblk := 24 })],
           lu := { s.lu with picked := if picked then [(0, (l.id, false))] else [] } }

/-- LaunchesRunAndComplete: a pick; a start on core 0; a chained start; a retirement. -/
theorem test_launch : let l := newOne 0 1 1; let p := launchState l Core.reset false; let s := launchState l Core.reset true
    let done := { coreOf [] with seq := { seqOf [] with st := .done } }
    let k := launchState { l with st := .running, cores := [0], waiting := [0], live := 1 } done false
    let r := launchState someLaunch done false
    p.lu.en = true ∧ readyHead p 5 = some l ∧ queueClass p 5 = 0 ∧ lCores l.rcd = 1 ∧ qWeight queueWords = 1 ∧
    mapGet (after .launchPick p).lu.picked 0 = some (2, false) ∧
    eligible s l = true ∧ chainPred s l = none ∧ allocFor s l (coreFree s) = some [0] ∧ coreFree s 0 = true ∧
    (coreAt (after .launchStart s) 0).seq.pc = 0x1000 ∧ getX (coreAt (after .launchStart s) 0).seq 1 = 0x77 ∧
    (ctxAt k 0).st = .running ∧ (cur k).prev = none ∧ (cur k).coh = some someCohort ∧
    (cur (after .chainedCohortStart k)).prev = some someCohort ∧
    mayRetire (cur r) someCohort = true ∧ (cur (after .cohortRetire r)).coh = none ∧
    (after .cohortRetire r).launches.map (·.live) = [0] := by decide +kernel

/-- LaunchesRunAndComplete: a completion without and with a completion record; a fault record in the ring. -/
theorem test_complete : let l := { someLaunch with live := 0, rcd := launchWords 1 1 0 }
    let m := { l with rcd := launchWords 1 1 0x100, nfault := 3 }
    let s := launchState l (coreOf []) false
    let tables : List (Nat × Nat) := [(0x20000, 0x21001), (0x21000, 0x22001), (0x22000, 0x23001), (0x23000, 0x10001)]
    let d := { launchState m (coreOf []) false with
      ctxs := [(0, { ctxAt s 0 with root := 0x20000 })], mem := tables.foldl (fun (m : Mem) (e : Nat × Nat) => memWrite m e.1 (leBytes 8 e.2)) s.mem }
    let f := { s with lu := { s.lu with fbuf := [([1, 2, 3, 4], 0)], fringBase := 0x80000 } }
    launchStatus l = some 1 ∧ (after (.launchComplete 1) s).launches = [] ∧
    (translateRoot d 0x20000 0x100 .write).2.toOption = some 0x40100 ∧ placeBad d 0x40100 16 = false ∧
    memNat (after (.launchComplete 1) d).mem 0x40100 8 = 0x100000022 ∧ memNat (after (.launchComplete 1) d).mem 0x40108 8 = 3 ∧
    ringRoom f.lu = true ∧ f.lu.fnote = 0 ∧ placeBad f 0x80000 32 = false ∧
    (after .faultRingWrite f).lu.fprod = 1 ∧ memNat (after .faultRingWrite f).mem 0x80008 8 = 2 := by decide +kernel

-- saves and the module ----------------------------------------------------------------------------------------------------------

/-- ContextsSaveAndRestore: a running sequencer, a site without inputs, a core with nothing left. -/
theorem test_save :
    let q := stateOf { coreOf [] with saving := true } []
    let u := stateOf { coreOf [] with saving := true, sites := [(18, siteOf [.swRoute 4 1 3] [])], regions := [(0, someRegion)] } []
    let k := { coreOf [] with saving := true, seqSaved := true, quiet := true, seq := { seqOf [] with st := .saved, held := .run } }
    let s := { stateOf k [] with ctxs := [(0, { Ctx.reset with st := .saving })] }
    (cur q).cmds = [] ∧ (cur (after .sequencerSave q)).seq.st = .saved ∧ (cur (after .sequencerSave q)).seq.held = .run ∧
    (cfgOfPlace (cur u) 9).isSome = true ∧ forwardMarked (cur u) someConfig 2 2 = true ∧
    siteSettled (cur u) someConfig 2 2 = true ∧ (siteAt (cur u) 2 2).marks = [] ∧ (siteAt (cur u) 2 2).out = [] ∧
    [0, 1, 2, 3].filter (usesOut (siteAt (cur u) 2 2)) = [1] ∧
    (siteAt (cur (after (.siteSave 2 2) u)) 2 2).saved = true ∧
    ((siteAt (cur (after (.siteSave 2 2) u)) 2 2).out.map fun e => (e.1, e.2.kind)) = [(1, .preempt)] ∧
    fabricCohort (cur s) = some someCohort ∧ coreFatal (cur s) = false ∧ coreQuietToSave s 0 = true ∧
    coreFatal (coreAt (emptyBanks (performStore s 0) 0) 0) = false ∧
    (ctxAt (after .coreSaved s) 0).saved.map (·.old) = [0] ∧ (cur (after .coreSaved s)).coh = none ∧
    (cur (after .coreQuiescent (siteState [.swRoute 1 3 5] [(1, [someRun])]))).quiet = false ∧ (cur (after .coreQuiescent (plain []))).quiet = true := by decide +kernel

/-- ContextsSaveAndRestore: context 1 of the context table, which was saved on core 3, is restored on core 0. -/
theorem test_restore :
    let h := { someCohort with ctx := 1, launch := 2 }
    let saved := { coreOf [] with coh := some h, seq := { seqOf [] with st := .saved, held := .run } }
    let l := { newOne 1 1 1 with st := .running, cores := [3], live := 1 }
    let t := tableState Core.reset
    let s := { t with launches := [l], ctxs := [(1, { Ctx.reset with st := .restoring, save := 0x40000000, saved := [{ core := saved, old := 3, model := deviceModel }] })],
                       lu := { t.lu with picked := [(2, (1, true))] } }
    let z := after (.contextRestore 1) s
    ctxRecord s 1 = some ctxWords ∧ s.lu.busy = none ∧ (s.lu.picked.head?.any fun e => e.2 == (1, true)) = true ∧
    areaBad s (ctxAt s 1) = false ∧ shiftOf ctxWords = (0, 0) ∧ channelsBad s.mem 50000 (blockBase 0x40000000 saved.block + 0x40000) = false ∧
    shiftBad 0 0 (ctxAt s 1).saved = false ∧ ctxCores s 1 = [] ∧ restorePlan (restoreFree s) (liveLaunches s 1) [] = some [(2, [0])] ∧
    (ctxAt z 1).st = .running ∧ (ctxAt z 1).saved = [] ∧ (planned s [(2, [0])] { core := saved, old := 3, model := deviceModel }) = some 0 ∧ (coreAt z 0).coh = some h ∧ (coreAt z 0).seq.st = .run := by decide +kernel

/-- ManagementWritesAct: a conventional reset, LU_CTL, a misaligned register write, the clock of die 15, its limits. -/
theorem test_management : let s := tableState (coreOf []); let d := { s with lu := { s.lu with en := false }, mod := { s.mod with facc := [1, 0, 0, 0], clkReq := 0xD000000000000000 } }
    s.mod.window = true ∧ State.reset.mod.window = false ∧ (nthD d.mod.facc 0 0).getLsbD 0 = true ∧ d.lu.en = false ∧
    (after (.luCtlWrite 1) d).lu.en = true ∧ (after (.luCtlWrite 1) d).mod.feat = some [1, 0, 0, 0] ∧ (after (.luCtlWrite 0) s).lu.en = false ∧
    (after (.luFconsWrite 7) s).lu.fcons = 7 ∧ (after (.modClkWrite 5) s).mod.clkReq = 5 ∧
    (after (.registerWrite 0x1048 9) s).lu.arg0 = 9 ∧ (after (.registerWrite 0x1049 9) s).lu.arg0 = 0 ∧
    (ctxAt (after (.moduleReset .cxl) s) 0).st = .free ∧ memGet (after (.moduleReset .powerOn) s).mem 0x10000 = 0 ∧
    (after (.hostLinkTrain .x8) s).mod.link = .x8 ∧ stepOf d.mod.clkReq 15 = 13 ∧
    stepOf (after (.clockStepApply 15) d).mod.clkNow 15 = 13 ∧ stepOf (after (.thermalStep 0) s).mod.clkReq 0 = 14 ∧
    stepOf (after (.powerAvgLimit [15]) { d with trust := { d.trust with mode := .running } }).mod.clkReq 15 = 14 ∧
    (after .powerFastLimit s).mod.err = 8 ∧ (after (.unchargedMemoryError 3) s).mod.err = 2 ∧ s.trust.log.length < 256 := by
  decide +kernel

/-- HostPeersAndTrustCore: host reads and writes, a peer's window, firmware under a grant, the mailbox, out-of-band reads. -/
theorem test_host_trust :
    let s := { tableState (coreOf []) with trust := { Trust.reset with mode := .running, payload := memWrite [] 0 (leBytes 8 0x50007 ++ [1]) } }
    let g := after (.grantSet 3) s
    let w := { s with mod := { s.mod with feat := some [12], wins := [(16, 0x50007)], lens := [(16, 1)] } }
    let a := after (.hostCxlMemWrite 0x50004 [1, 2]) w
    hostMem s 0x50000 4 = .performs ∧ isBad s.badMem 0x50000 4 = false ∧ (after (.hostCxlMemRead 0x10000 1) s).hostData = [0x7F] ∧
    memNat a.mem 0x50004 2 = 0x201 ∧ memNat (after (.hostCacheInvalidation (2 ^ 51) [5]) w).mem (2 ^ 51) 1 = 5 ∧
    accepted w 2 = true ∧ nthD w.mod.ports 1 false = true ∧ halyardResolve w 1 4 2 false = some 0x50004 ∧
    halyardResolve w 1 0x10000 2 false = none ∧ halyardResolve w 1 4 2 true = some 0x50004 ∧
    halyardResolve w 1 0x10000 2 true = none ∧
    (after (.halyardInboundAccess 1 4 (.read 2)) a).peerOut = some (1, .ok [1, 2]) ∧ w.remote = [] ∧
    nthD (after (.halyardPortDown 1) w).mod.ports 1 true = false ∧
    firmwareOk s false 0x50000 4 = false ∧ firmwareOk g false 0x50000 4 = true ∧ firmwareOk g true 0x50000 2 = true ∧
    firmwareOk s true 0x50000 2 = false ∧
    memNat (after (.firmwareMemoryAccess 0x50000 (.write [8, 9])) g).mem 0x50000 2 = 0x908 ∧
    grantOk 0x50007 1 = true ∧ grantAt g 3 = (0x50007, 1) ∧ (after (.grantRead 3) g).trust.mbLen = 16 ∧
    (grantAt (after (.grantClear 0) g) 3).1 = 0x50006 ∧ State.reset.trust.mode = .boot ∧ s.trust.mode ≠ .boot ∧
    (after (.pldmSensorRead (.clockStep 2) 9) s).mctpOut = leBytes 8 0 := by decide +kernel

-- steps of units, encodings, invariants -----------------------------------------------------------------------------------------

/-- StepRunsTheDecodedInstruction: site (1, 2) with `scld` of 4 bytes first on the agenda; memory node 0 with a load of
unsigned bytes. -/
theorem test_step_runs_the_unit : let w := (encode32 (.scld 1 0 4 0)).getD 0; let v := (encode32 (.mld 1 0 0 0)).getD 0
    let s := { suState w 0 0 (pairRun 0 4) with agenda := [⟨0, .unit 1 2⟩] }
    let n := { stateOf { coreOf [] with nodes := [(0, { Node.reset with u := readyUnit v 0 0 (pairRun 0 4) })] } [] with
      agenda := [⟨0, .node 0⟩] }
    nextSlot (coreAt s 0) (.site 1 2) = some 3 ∧ (decodeOp ((siteAt (coreAt s 0) 1 2).slot 3).word0).toOption = some (.scld 1 0 4 0) ∧
    nextSlot (coreAt n 0) (.mn 0) = some 3 ∧ (decodeOp ((nodeAt (coreAt n 0) 0).u.slot 3).word0).toOption = some (.mld 1 0 0 0) ∧
    (match step s with | .next z => (mapGetD (cur z).hold 0 []).map (·.addr) | _ => []) = [0, 4] := by decide +kernel

/-- DecodeOfEncodeIsTheInstruction, DecodedInstructionsAreWellFormed: `addi s1, s31, -1`, a unit word, a switch word. -/
theorem test_encode_witness :
    WellFormed (.addi 1 31 0xFFFF) = true ∧ encode32 (.addi 1 31 0xFFFF) = some 0x103FFFFF ∧
    (decodeSeq 0x103FFFFF).toOption = some (.addi 1 31 0xFFFF) ∧ (bits (0x103FFFFF : W32) 29 3).toNat ≠ 3 ∧
    WellFormed (.scld 1 0 4 0) = true ∧ (encode32 (.scld 1 0 4 0)).isSome = true ∧
    WellFormed (.swRoute 1 3 5) = true ∧ (encode16 (.swRoute 1 3 5)).isSome = true := by decide +kernel

/-- FaultBufferHoldsAtMost1024, EveryStepKeepsTheInvariants: a state that meets the invariants, whose step answers one that does. -/
theorem test_invariants : let s := stateOf { coreOf [] with scratch := [(3, 1)] } [(0, 7)]
    Safety.memoriesWf s = true ∧ Safety.pcsAligned s = true ∧ s.lu.fbuf.length ≤ 1024 ∧
    (match step s with | .next z => Safety.memoriesWf z && Safety.pcsAligned z | _ => false) = true := by decide +kernel


-- further witnesses ---------------------------------------------------------------------------------------------------------------

/-- CsrReadsAndWrites: csrc from the reserved rounding code 7 to 6, and to 5. -/
theorem test_csrc : let s := setCur (plain [(1, 1), (2, 2)]) { coreOf [(1, 1), (2, 2)] with
      seq := { seqOf [(1, 1), (2, 2)] with fpdef := 7 } }
    Ready s [9, 1] ∧ Handler s ∧ 6 ≤ ((cur s).seq.fpdef &&& ~~~((X s 1).extractLsb' 0 3)).toNat ∧
    ((cur s).seq.fpdef &&& ~~~((X s 2).extractLsb' 0 3)).toNat < 6 ∧ (cur (after (.csrc 9 1 9) s)).seq.pc = 0x2000 ∧
    (cur (after (.csrc 9 2 9) s)).seq.fpdef = 5 := by decide +kernel

/-- RegisterZeroAndFrame, EveryStepKeepsTheInvariants: csrr of the last register answers a next state. -/
theorem test_frame : let s := plain [(1, 5)]
    Ready s [9, 1, 1] ∧ csrOk 0x0A = true ∧ X (after (.csrr 9 0x0A) s) 1 = 5 ∧ (after (.csrr 9 0x0A) s).mem = s.mem := by decide +kernel

/-- LinksCarryTokensInOrder: memory node 2 sends by its link to site (2, 0). -/
theorem test_node_link : let c := { coreOf [] with
        sites := [(siteKey 2 0, siteOf [.swRoute 0 1 3] [])], regions := [(0, someRegion)]
        nodes := [(2, { Node.reset with u := { FUnit.reset with place := 9, inq := [(4, [someRun])] } })] }
    (unitAt c (.mn 2)).queue 4 = [someRun] ∧ hasSpace ((siteAt c 2 0).queue 0) someRun = true ∧
    ((siteAt c 2 0).wordFor someRun.slot 0).isSome = true ∧
    (siteAt (cur (after (.linkTokenSend (.mn 2) 0) (stateOf c []))) 2 0).queue 0 = [someRun] := by decide +kernel

/-- RoundsClose: the marker at one input of a merge waits for the other. -/
theorem test_rounds_merge : let sl := slotOf [.swMerge 3 1 2 3] [0] 0x1F80; let u := { markerSite with slots := [(0, sl)] }
    let s := stateOf { coreOf [] with sites := [(18, u)], regions := [(0, loopedRegion)] } []
    sl.en = true ∧ sl.acc = false ∧ sl.words = [.swMerge 3 1 2 3] ∧ mapGet u.out 1 = none ∧ u.saved = false ∧
    (siteAt (cur (after (.roundMarkerArrival (.site 2 2) 3) s)) 2 2).marks = [⟨.marker, 3, 1, 5⟩] := by decide +kernel

/-- StreamEvents: the acknowledgement of a remote load whose generator writes local memory at 0x40300. -/
theorem test_remote_ack : let v := { genOf .running 1 with fn := 7, waitAck := true, pa := 0x40300 }
    let s := genState v Port.reset []
    (genAt (cur s) 3).waitAck = true ∧ pWrites (genAt (cur s) 3).rcd = true ∧ placeBad s 0x40300 (pSize (patternOf 1 1)) = false ∧
    memNat (after (.remoteAck 3 (.ok [7, 8, 9, 1])) s).mem 0x40300 4 = 0x01090807 := by decide +kernel

/-- StreamEvents: a multicast that is held up below its budget counts; at it, it no longer emits. -/
theorem test_multicast : let g := fun (n : Nat) => genState { genOf .running 0 with fn := 3, q := [pairRun 1 2], budget := 9, stall := n } Port.reset []
    blockedPort (cur (g 8)) (genAt (cur (g 8)) 3) = some 2 ∧ spent (genAt (cur (g 8)) 3) = false ∧ (cur (g 8)).unstored = none ∧
    spent (genAt (cur (g 9)) 3) = true ∧ (genAt (cur (after .coreCycle (g 8))) 3).stall = 9 := by decide +kernel

/-- ImagesAreFetchedPlacedAndSpliced: the binding word translates before acceptance too; entry 5 holds none. -/
theorem test_place_before : let s := imageState { coreOf [(2, 0x103), (3, 0x0204), (4, 0x105)] with
      entries := [(3, { img := someImage, bva := 0x100, gen := 1 })] }
    let v := translateAt (issued s 1 [2, 3] (some 5) (.cfgPlace 1 2 3 5)) 0 0x100 .read
    v.2.toOption = some somePage ∧
    (translateAt (takeCmd v.1 0 (command s 1 [2, 3] (some 5) (.cfgPlace 1 2 3 5)) 0) 0 0x100 .read).2.toOption = some somePage ∧
    mapGet (cur s).entries 5 = none ∧ X (after (.cfgPlace 1 4 3 5) s) 1 = 0x12 := by decide +kernel

/-- LaunchUnitCommandsComplete: SHOOTDOWN and ANSWER name core 0 alone; QSYNC of a descriptor that is enabled. -/
theorem test_qsync : let p : Parked := { seq := 0, who := .sequencer, va := 0, inRing := true, answer := 0 }
    let s := tableState { coreOf [] with parked := [p] }; let u := disableQueue (setQueue s 0 (queueAt s 0)) 0
    (coreAt s 0).parked = [p] ∧ s.lu.arg0.toNat % 65536 = 0 ∧ s.lu.arg1.toNat % 65536 = 0 ∧ s.lu.arg1.toNat < 2 ^ 32 ∧
    placeBad u 0x61000 32 = false ∧ wordsOf 4 (memRead u.mem 0x61000 32) = queueWords ∧ queueDescOk u queueWords = true ∧
    (ctxAt u (qCtx queueWords)).st ≠ .free ∧ placeBad u (qTail queueWords) 4 = false := by decide +kernel

/-- LaunchesRunAndComplete: a record that is accepted: version 1, one cohort, its tables at virtual 0x200 and 0x300. -/
theorem test_record : let r : List Word := [0x0001004001210001, 0x1000, 0x77, 0x200, 0x300, 0, 0x22, 1, 0, 0, 0, 0, 0, 0, 0, 0]
    let tables : List (Nat × Nat) := [(0x20000, 0x21001), (0x21000, 0x22001), (0x22000, 0x23001), (0x23000, 0x10001)]
    let t := tableState Core.reset; let w := [queueWords.headD 0, nthD queueWords 1 0, nthD queueWords 2 0, nthD queueWords 3 0]
    let s := { t with
      ctxs := [(0, { ctxAt t 0 with root := 0x20000, nblk := 24 })], launches := []
      queues := [(5, { en := true, desc := w, head := 4, seen := 0, woken := some 6, deficit := 0 })]
      mem := memWrite (tables.foldl (fun (m : Mem) (e : Nat × Nat) => memWrite m e.1 (leBytes 8 e.2)) t.mem) 0x70200
        (r.flatMap fun x => leBytes 8 x.toNat) }
    let u := readTables (setQueue s 5 { queueAt s 5 with head := 5 }) 0x20000 r
    qBase w + 128 * 4 = 0x70200 ∧ wordsOf 16 (memRead s.mem 0x70200 128) = r ∧ recordOk r = true ∧ pendingOf s 5 < 4096 ∧
    lNthr r ≤ min 4096 (262144 / (8 * lLive r)) ∧ (ctxAt s (qCtx w)).st ≠ .free ∧ neverFits r 24 = false ∧ lNdep r = 0 ∧
    (ctxAt s (qCtx w)).root = 0x20000 ∧ u.2 = some (List.replicate 8 0, List.replicate 16 0, List.replicate 16 0) ∧
    (after (.queueRecordCopy 5) s).launches.map (·.st) = [.pending] := by decide +kernel

/-- LaunchesRunAndComplete: the retiring core's store has performed, and the core notes the launch it leaves. -/
theorem test_retire : let done := { coreOf [] with seq := { seqOf [] with st := .done } }; let r := launchState someLaunch done false
    (cur r).prev = none ∧ (cur r).coh = some someCohort ∧ (cur r).unstored = none ∧ r.launches = [someLaunch] ∧
    someLaunch.id = someCohort.launch ∧ someCohort.fatal = false ∧ (cur r).saving = false ∧
    (cur (after .cohortRetire r)).left = some 1 := by decide +kernel

/-- ContextsSaveAndRestore: context 1 in RESTORING with one saved core `v`, whose area at 0x40000000 holds `m`; bytes `bad` have
an error. -/
def restoring (v : SavedCore) (m : List Byte) (bad : List Nat) (rec1 : List Word) : State :=
  let t := tableState Core.reset
  { t with launches := [{ newOne 1 1 1 with st := .running, cores := [3], live := 1 }], badMem := bad
           ctxs := [(1, { Ctx.reset with st := .restoring, save := 0x40000000, saved := [v] })]
           mem := memWrite (memWrite t.mem 0x60040 (rec1.flatMap fun w => leBytes 8 w.toNat)) (blockBase 0x40000000 0 + 0x40000) m
           lu := { t.lu with picked := [(2, (1, true))] } }

/-- ContextsSaveAndRestore: a restore fails for its record, its bytes, its device model, a token header, its shift. -/
theorem test_restore_fails : let v : SavedCore := { core := coreOf [], old := 3, model := deviceModel }
    let far := ctxWords.set 1 (2 + 4 * 2 ^ 8 + 8 * 2 ^ 24)
    let none' := restoring v [] [0x60040] ctxWords; let bad := restoring v [] [0x40000000] ctxWords
    let other := restoring { v with model := deviceModel + 1 } [] [] ctxWords
    let header := restoring v (leBytes 8 0xFF00000000000001) [] ctxWords
    let off := restoring v [] [] far
    ctxRecord none' 1 = none ∧ ctxRecord bad 1 = some ctxWords ∧ areaBad bad (ctxAt bad 1) = true ∧
    areaBad other (ctxAt other 1) = false ∧ v.model = deviceModel ∧ deviceModel + 1 ≠ deviceModel ∧
    channelsBad header.mem 50000 (blockBase 0x40000000 0 + 0x40000) = true ∧ areaBad header (ctxAt header 1) = false ∧
    ctxRecord off 1 = some far ∧ shiftBad (shiftOf far).1 (shiftOf far).2 [v] = true ∧
    channelsBad off.mem 50000 (blockBase 0x40000000 0 + 0x40000) = false ∧ (off.lu.picked.head?.any fun e => e.2 == (1, true)) = true ∧
    ([none', bad, other, header, off].map fun s => (ctxAt (after (.contextRestore 1) s) 1).held) = List.replicate 5 true := by
  decide +kernel

/-- HostPeersAndTrustCore: a window that is closed to a peer, the log by number and by sensor, a bad operand. -/
theorem test_trust_log : let e : Word × Word := (0x0000000000050003, 9)
    let t := tableState (coreOf []); let s := { t with trust := { Trust.reset with mode := .running, log := [e] } }
    s.trust.log.find? (fun x => x.1.toNat / 2 ^ 16 % 2 ^ 16 == 5 % 2 ^ 16) = some e ∧ s.trust.mode ≠ .boot ∧ (5 : BitVec 56).toNat < 2 ^ 16 ∧
    (after (.pldmSensorRead (.logEntry 5) 0) s).mctpOut = leBytes 8 0x50003 ++ leBytes 8 9 ∧
    (after (.idkey false 1) s).trust.mbCode = 2 ∧ (after (.idkey true 1) s).trust.mctpCode = 2 := by decide +kernel

/-- Three lanes of tags 6, 4 and 5 with values 1, 2 and 3 and shuffle positions 2, 5 and 0, in a vector element's firing. -/
def threeLanes : Run :=
  let l := fun (t p : Nat) (a b : W32) => ({ tag := t, pos := p, ins := [(0, ⟨a, false⟩), (1, ⟨b, false⟩)], act := true, prev := 0, res := ⟨0, false⟩ } : Work)
  { core := coreOf [], lfsr := 1, fl := 0, lanes := [l 6 2 1 2, l 4 0 2 5, l 5 1 3 0] }

/-- RunOperationsCombineLanes: vtag, vbcast, vshuf, vred and vscan over them (R255 to R260); the scale of an MX block. -/
theorem test_run_operations : let x := threeLanes
    let sl := slotOf [] [] 0x1F80
    let w := fun (op : BitVec 7) => (0b000#3 ++ op ++ 0b001_000_001_000_001_000_0_000#22 : W32)
    let go := fun (op : BitVec 7) => (runStage sl (w op) x).lanes.map (·.prev)
    (∀ l ∈ x.lanes, l.act = true) ∧ (x.lanes.map (·.tag)).Nodup ∧ (x.lanes.map (·.pos)).Nodup ∧ Stg.dst (w 0x64) < 2 ∧
    Stg.op (w 0x64) = 0x64 ∧ Stg.ty (w 0x61) = 1 ∧ Stg.mod (w 0x61) = 0 ∧ Stg.sat (w 0x61) = false ∧
    go 0x64 = [0x2006, 4, 0x1005] ∧ go 0x63 = [2, 2, 2] ∧ go 0x61 = [6, 6, 6] ∧ go 0x60 = [6, 2, 5] ∧
    ((runStage sl (w 0x62) x).lanes.map fun l => (l.act, l.prev)).head? = some (true, 1) ∧
    ((runStage sl (w 0x62) x).lanes.map (·.act)) = [true, false, true] ∧
    mxScale 3 [.fin false 3 2 false, .fin true 0 0 false] = 122 ∧ mxScale 3 [.inf true] = 255 ∧ mxScale 3 [.fin false 0 0 false] = 127 := by
  decide +kernel

/-- VectorLaneOperationsCompute, RoundingDeliversNeighbours: a saturating sum, clz, 65504 + 65504 in f16, ties, a minimum. -/
theorem test_values : let w := fun (op : BitVec 7) (ty rnd : BitVec 3) (sat : BitVec 1) => (0b000#3 ++ op ++ 0b001_000_001_000#12 ++ ty ++ rnd ++ sat ++ 0b000#3 : W32)
    laneOp (w 0 0 0 1) 0 0x7FFFFFFF 1 0 = (0x7FFFFFFF, 0) ∧ laneOp (w 0x1A 0 0 0) 0 0x00010000 0 0 = (15, 0) ∧
    (laneOp (w 0 4 0 0) 0 0x7BFF 0x7BFF 0) = (0x7C00, fOF ||| fNX) ∧
    cvtInt 8 true 0 false 0 (.fin false 5 (-1) false) = (2, fNX) ∧ cvtInt 8 true 4 false 0 (.fin false 5 (-1) false) = (3, fNX) ∧
    cvtInt 8 true 0 true 0 (.fin false 300 0 false) = (127, fNV) ∧ cvtInt 8 true 0 false 0 (.fin false 100 0 false) = (100, 0) ∧
    (ffmt 0).topField - (ffmt 0).bias < Nat.log2 3 + (200 : Int) ∧
    fminmax (ffmt 0) false 0x80000000 0 = (0x80000000, 0) ∧ mxElem 3 0 127 0 (.fin false 1 0 false) = (0x38, 0) := by decide +kernel

-- further clauses: a store not yet performed, boundaries, further forms ---------------------------------------------------

/-- That state with a store of one byte 7 at 0x40100 issued and not yet performed. -/
def pendingStore (q : Seq) : State := stateOf { coreOf [] with seq := q, unstored := some (0x40100, [7]) } []

/-- The byte that the pending store writes, as it stands in memory, and whether the store is still to perform. -/
def storedBy (i : Instr) (s : State) : Nat × Bool := (memNat (after i s).mem 0x40100 1, (cur (after i s)).unstored.isSome)

/-- A pc from which the next word but one starts the aperture, one in the aperture, and a sequencer inside its handler. -/
def edgeStates : State × State × State :=
  (pendingStore { seqOf [] with pc := 0xFFFFFFFEFFFFFFFC }, pendingStore { seqOf [] with pc := 0xFFFFFFFF00000000 },
   pendingStore { seqOf [] with th := true })

/-- CsrReadsAndWrites, BranchesAndJumpsGoToTheirTarget, TrapsEnterTheHandlerOrEndTheCohort, SequencerFetchFillsTheBuffer: a handler, or
none, once the earlier store has performed. -/
theorem test_store_before_trap_premises : let s := pendingStore (seqOf []); let e := edgeStates.1; let v := edgeStates.2.1; let t := edgeStates.2.2
    Ready s [9, 31] ∧ Handler (begun s) ∧ Ready e [0, 31] ∧ Handler (begun e) ∧ issuing (cur v).seq = true ∧
    Handler (performStore v v.core) ∧ Ready t [] ∧ (cur (begun t)).seq.th = true ∧ (cur (begun t)).seq.st ≠ .dead ∧
    (cur (begun t)).coh = some someCohort := by decide +kernel

/-- R150, R155: the trap finds the store performed; a branch and a fetch into the aperture trap with 0x08; kend in a handler ends the
cohort. -/
theorem test_store_before_trap : let s := pendingStore (seqOf []); let e := edgeStates.1; let v := edgeStates.2.1; let t := edgeStates.2.2
    ([(Instr.trap 0, s), (.csrr 9 0x0B, s), (.j 1, e), (.beq 0 0 1, e), (.sequencerFetch 0, v), (.kend, t)].map
      fun x => storedBy x.1 x.2) = List.replicate 6 (7, false) ∧ (cur (after (.j 1) e)).seq.cause = 8 ∧
    (cur (after (.sequencerFetch 0) v)).seq.cause = 8 ∧ (cur (after .kend t)).seq.st = .dead := by decide +kernel

/-- SequencerFetchFillsTheBuffer: a word in a bad byte, demanded and ahead. -/
theorem test_fetch_bad :
    let s := { stateOf { coreOf [] with seq := { seqOf [] with pc := 0x100, itlb := [(0, 65536, 0x40000)] } } [] with badMem := [0x40103] }
    itlbHit (cur s).seq 0x100 = some 0x40100 ∧ placeBad s 0x40100 4 = true ∧ Handler (performStore s s.core) ∧
    (cur (after (.sequencerFetch 0) s)).seq.cause = BitVec.ofNat 64 (9 + 64 * 0x100) := by decide +kernel

/-- LocalApertureAccesses: the edges of the aperture's parts, and a tile that is Busy. -/
theorem test_aperture_edges : let s := plain []
    let b := setCur (plain [(2, 0xFFFFFFFF01000000)]) { coreOf [(2, 0xFFFFFFFF01000000)] with mx := setTag Matrix.reset 0 .busy }
    localOf s (2 ^ 24 + 2 ^ 20 - 1) = .tile (2 ^ 20 - 1) ∧ localOf s (2 ^ 24 + 2 ^ 20) = .none ∧ localOf s 0x11FFFF = .scratch 0 0x11FFFF ∧
    localOf s 0x120000 = .none ∧ localOf s 0x200000 = .none ∧ localOf s 0x400000 = .none ∧
    Ready b [1, 2] ∧ tagOf (cur (begun b)).mx 0 = .busy ∧ (cur (begun b)).seq.st ≠ .dead ∧
    (cur (after (.lb 1 2 0) b)).seq.st = .wait := by
  refine ⟨rfl, rfl, rfl, rfl, rfl, rfl, ?_⟩
  decide +kernel

/-- TranslationWalksAndParks: a leaf read for the first time, which sets AC, and a table entry that joins the walk cache. -/
theorem test_walk_marks : let s := fun (b c d : Byte) => { plain [] with mem := memPut (memPut (memPut [] 0x20000 b) 0x20001 c) 0x20003 d }
    memNat (walkFrom 1 (s 0x1F 0 0) [] 0 .read 4 0x20000).1.mem 0x20000 1 = 0x3F ∧
    memNat (walkFrom 1 (s 0x1F 0 0) [] 0 .write 4 0x20000).1.mem 0x20000 1 = 0x7F ∧
    (walkFrom 1 (s 0x01 0x10 0) [] 0 .read 3 0x20000).2.1 = [(4, 0, 0x1000)] := by decide +kernel

/-- PinsAndCancellation: a second pin of the context's line, a pin of another's, a full count, a full quota, a release of a count of 3,
one without a pin. -/
theorem test_pins_again : let s := fun (l : List (Nat × Nat × Nat)) => { plain [(2, 0x100)] with pins := l }
    let u := fun (l : List (Nat × Nat × Nat)) => (translateAt (issued (s l) 1 [2] none (.cpin 1 2)) 0 0x100 .read)
    Alone (s [(0x100, 0, 1)]) none someCohort ∧ (u [(0x100, 0, 1)]).2.toOption = some somePage ∧ (u [(0x100, 0, 1)]).1.pins = [(0x100, 0, 1)] ∧
    (u [(0x100, 1, 255)]).1.pins = [(0x100, 1, 255)] ∧ (after (.cpin 1 2) (s [(0x100, 0, 1)])).pins = [(0x100, 0, 2)] ∧
    X (after (.cpin 1 2) (s [(0x100, 1, 1)])) 1 = 0x1A ∧ X (after (.cpin 1 2) (s [(0x100, 0, 255)])) 1 = 3 ∧
    X (after (.cpin 1 2) (s ((List.range 4).map fun i => (4352 + 4096 * i, 0, 1)))) 1 = 0x19 ∧
    X (after (.cpin 1 2) (s ((List.range 14).map fun i => (4352 + 4096 * i, 1, 1)))) 1 = 0x18 ∧
    (after (.cunpin 1 2) (s [(0x100, 0, 3)])).pins = [(0x100, 0, 2)] ∧ X (after (.cunpin 1 2) (s [])) 1 = 0x1B := by decide +kernel

/-- HomeMapWritesPopulateAndDepopulate: a store on its way performs before the map changes. -/
theorem test_homeMap_store : let s := pendingStore (seqOf [])
    (mapGetD s.homeMap 0 0).extractLsb' 0 2 ≠ 0 ∧ memNat (performStores s).mem 0x40100 1 = 7 ∧
    (cur (after (.homeMapDepopulate 0 0) s)).unstored = none := by decide +kernel

/-- TokensMatch: the run of input 1 waits first; runs of which one holds the other; runs that do not meet. -/
theorem test_match_overlaps : let r := fun (a b : Nat) => ({ someRun with tags := (List.range b).map (· + a), lanes := List.replicate b ⟨1, false⟩ } : Tok)
    let m := fun (p a b c d : Nat) => (matchAll 200 { FUnit.reset with store := [{ slot := 3, inp := p, tok := r a b }] } 3 [0, 1] [(1 - p, r c d)] 0).u
    let held := fun (u : FUnit) => u.store.map fun q => (q.inp, q.tok.tags)
    pairs (r 4 6) (r 6 2) = true ∧ (m 1 4 6 6 2).ready.map (fun f => f.toks.map (·.tags)) = [[[6, 7], [6, 7]]] ∧
    held (m 1 4 6 6 2) = [(1, [4, 5]), (1, [8, 9])] ∧ held (m 0 6 2 4 6) = [(1, [4, 5]), (1, [8, 9])] ∧
    held (m 0 4 2 6 2) = [(0, [4, 5]), (1, [6, 7])] ∧ (m 0 4 2 6 2).ready = [] := by decide +kernel

/-- ScratchpadAccessesFireToTheirHoldingUnits: the window's last word, the word behind it, an address that is not aligned, a rank that
the window lacks. -/
theorem test_window_edges : let s := plain []; let h := scratchCohort; let r := fun (v : W32) => resolveWin s 0 (some h) v 0 4 true true
    (r 0xFFC).toOption = some (0, 0xFFC) ∧ causeOf (r 0x1000) = 1 ∧ causeOf (r 0x402) = 2 ∧ causeOf (r 0x400000) = 1 := by
  decide +kernel

/-- HoldingUnitsPerformAccesses: an integer sum, the least of two signed words and the greatest of two unsigned, an f32 sum with its
flag; nobody of the run with a lower tag waits there. -/
theorem test_hold_atomics : let v := fun (op : Instr) (d : W32) => memNat (cur (after (.suHoldingAccess 0 0) (holdState op d 0))).scratch 0 4
    let s := { holdState (.scamoAdd 1 0 1 7 0) 0x80000001 0 with
      cores := [(0, { cur (holdState (.scamoAdd 1 0 1 7 0) 0x80000001 0) with regions := [(0, someRegion)], scratch := [(3, 0x3F), (2, 0x80)] })] }
    v (.scamoAdd 1 0 1 5 0) 0x7FFFFFFF = 0x0000000A ∧ v (.scamoMin 1 0 1 5 0) 5 = 0x8000000B ∧ v (.scamoMax 1 0 1 6 0) 5 = 0x8000000B ∧
    v (.scamoMin 1 0 1 6 0) 5 = 5 ∧ (∀ b ∈ (mapGetD (cur s).hold 0 []).drop 1, b.flight = 7 → 4 ≤ b.tag) ∧
    regionOfPlace (cur s) (siteAt (cur s) 1 2).place = some 0 ∧ (cur s).flags.length = 9 ∧
    memNat (cur (after (.suHoldingAccess 0 0) s)).scratch 0 4 = 0x3F800000 ∧ flagSet (cur (after (.suHoldingAccess 0 0) s)) 0 = fNX := by
  decide +kernel

/-- A `cbput` of two lanes at buffer 0, whose word for the result is `sw.route`. -/
def putState (b : Cb) (max : W32) (op : Instr) (t : Tok) : State :=
  let u := { readyUnit 0 0 max (pairRun 0 4) with slots := [(3, { slotOf [.swRoute 4 1 2] [0] 0x1F80 with k1 := max })] }
  let f := { someFlight op with fire := { slot := 3, toks := [t] } }
  stateOf { coreOf [] with coh := scratchCohort, sites := [(17, u)], flights := [f], cbs := [(0, b)] } []

/-- CircularBuffersAndTileFills: two words put behind the write pointer, three that exceed the free places, two that exceed MAXLEN; two
words got, one that is not filled yet. -/
theorem test_cb_words : let b : Cb := { rp := 0, vp := 15, cp := 15, prod := [7], cons := [] }
    let g : Cb := { rp := 1, vp := 3, cp := 3, prod := [], cons := [7] }
    let s := putState { b with rp := 14 } 2 (.cbput 1 0) (pairRun 0xA 0xB); let w := putState b 2 (.cbput 1 0) (pairRun 0xA 0xB)
    let x := putState { b with rp := 14 } 1 (.cbput 1 0) (pairRun 0xA 0xB); let q := putState g 2 (.cbget 1 0) (pairRun 1 0)
    let z := after (.cbRequestServe 0 false) s; let y := after (.cbRequestServe 0 true) (setCur q { cur q with scratch := [(4, 0x21), (8, 0x22)] })
    (siteAt (cur s) 1 2).wordFor 3 4 = some (.swRoute 4 1 2) ∧ (cur s).badScratch = [] ∧ (cur s).scratch.wf = true ∧
    mapGet (cur w).cbs 16 = none ∧ ((unitLanes (.site 1 2) ((siteAt (cur s) 1 2).slot 3) { slot := 3, toks := [pairRun 0xA 0xB] }).filter
      (·.act)).map (fun l => (l.tag, l.pos)) = [(4, 0), (5, 1)] ∧
    memNat (cur z).scratch 60 4 = 0xA ∧ memNat (cur z).scratch 0 4 = 0xB ∧ (cbAt (cur z) 0).vp = 17 ∧ (cbAt (cur z) 0).cp = 17 ∧
    ((siteAt (cur z) 1 2).queue 4).map (·.lanes) = [[⟨0, false⟩, ⟨0, false⟩]] ∧
    (cbAt (cur (after (.cbRequestServe 0 false) w)) 0).prod = [7] ∧ (cbAt (cur (after (.cbRequestServe 0 false) x)) 0).prod = [] ∧
    (cur (after (.cbRequestServe 0 false) x)).flights = [] ∧
    ((siteAt (cur y) 1 2).queue 4).map (·.lanes) = [[⟨0x22, false⟩, ⟨0x21, false⟩]] := by decide +kernel

/-- MemoryAccessesEnterTheirQueues, MemoryNodeEvents: no flight owes an ordering token; the access arrived first at its bank; the least and
greatest at home. -/
theorem test_lane_atomics : let mark := fun (s : State) => setCur s (setNode (cur s) someBank { nodeAt (cur s) someBank with arrived := [(7, 0)] })
    let p := fun (op : Instr) => memNat (after (.mnLanePerform someBank 0) (mark (bankState op 0xFFFFFFFF Sector.empty))).mem 0x40104 4
    (nodeAt (cur (mark (bankState .mord 0 Sector.empty))) someBank).arrived.head? = some (7, 0) ∧
    (taking (mnState (pairRun 0 4) 0 0) (.mn 2)).2.2.flights = [] ∧
    p (.mamoMin 1 0 1 5 2) = 0xFFFFFFFF ∧ p (.mamoMin 1 0 1 6 2) = 0x0B ∧ p (.mamoMax 1 0 1 5 2) = 0x0B ∧ p (.mamoAnd 1 0 1 2) = 0x0B ∧
    p (.mamoOr 1 0 1 2) = 0xFFFFFFFF ∧ p (.mamoXor 1 0 1 2) = 0xFFFFFFF4 ∧ p (.mamoCas 1 0 1 2 2) = 0x0B := by decide +kernel

/-- MemoryNodeEvents: a release at scope .y writes the dirty byte of the one sector home, an acquire empties it. -/
theorem test_fence_sector : let s := fun (k : BitVec 3) => stateOf { coreOf [] with
      flights := [{ someFlight (.mfence 1 k 4) with unit := .mn 2, left := 0 }], fences := [{ flight := 7, waits := [], fatal := false }]
      nodes := [(1, { Node.reset with sectors := [(0x40104 / 128, { filled := true, clean := [], dirty := [(5, 0xEE)] })] })] } []
    (cur (s 2)).nodes.map (fun e => (e.1, e.2.sectors.length)) = [(1, 1)] ∧ (s 2).slices = [] ∧ placeBad (s 2) (128 * (0x40104 / 128)) 128 = false ∧
    memNat (after (.mfenceComplete 0) (s 2)).mem 0x40105 1 = 0xEE ∧
    (sectorAt (cur (after (.mfenceComplete 0) (s 2))) 1 (0x40104 / 128)).filled = true ∧
    (sectorAt (cur (after (.mfenceComplete 0) (s 1))) 1 (0x40104 / 128)).filled = false ∧
    memNat (after (.mfenceComplete 0) (s 1)).mem 0x40105 1 = 0 := by decide +kernel

/-- MatrixCommandsAnswer: mx.move with a BUSY destination tile. -/
theorem test_move_busy : let s := mxState { someMatrix with tags := [(0, .full), (1, .busy)] } [(4, 0x10000)] []
    Alone s (some 5) someCohort ∧ mxOperandBad (command s 1 [4] (some 5) (.mxMove 1 4 5)) = false ∧ tagOf (cur s).mx 1 = .busy ∧
    X (after (.mxMove 1 4 5) s) 1 = 0x10 := by decide +kernel

/-- MatrixFiringsBeginAndComplete: int8, 3 · (−2) + 10 with AD clear; f16, 2.0 · 3.0; B's element of a sparse descriptor that keeps rows
1 and 3. -/
theorem test_matrix_sums : let q : MxOp := ⟨0, 1, 0, 0, false, false, false, false, false, false⟩
    let x := { someMatrix with tile := [(0, 3), (0x10000, 10)], weight := [(0, 0xFE)] }; let sh := [0x0000000800010101, 0, 0, 0, 0, 0, 0, 0]
    let sp : List Word := [0x0001000418000000, 2, 0, 0, 64, 0, 0, 0]; let y := { someMatrix with weight := [(0, 5), (1, 6), (64, 0x0D)] }
    shapeOk sh = true ∧ isInt8 (shFmt sh) = true ∧ x.tile.wf = true ∧ q.a / 4 ≠ q.g ∧
    memNat (fireStore x q sh [0x0001000108000000, 1, 0, 0, 0, 0, 0, 0]).1 0x10000 4 = 4 ∧
    shapeOk shapeRecord = true ∧ isInt8 (shFmt shapeRecord) = false ∧ someMatrix.tile.wf = true ∧
    memNat (fireStore someMatrix q shapeRecord weightRecord).1 0x10000 4 = 0x40C00000 ∧ wdSparse weightRecord = false ∧ wdSparse sp = true ∧
    (List.range 4).map (fun k => elemB y sp k 0) = [none, some 5, none, some 6] := by decide +kernel

/-- CapacityCommandsAnswerAndProceed: a gather's row, a null row, the stop token behind the last row of a bag that is not the last. -/
theorem test_capacity_gather : let g := fun (r : Nat) (b : CapBag) => bagState (.embGather 1 4 3 5) 0x200 fun k =>
      { k with active := true, bound := true, row := r, bags := [b, someBag 0] }
    let q := fun (s : State) => (portAt (cur (after (.capBagResult 8) s)) 2).outq; let s := g 0 (someBag 0)
    capRuns (cur s) 8 = some (bagRun s) ∧ capPort (bagRun s).1 = some 2 ∧ isPool (bagRun s).1 = false ∧ isScatter (bagRun s).1 = false ∧
    capVirtual (bagRun s).1 = true ∧ (portAt (cur s) 2).outq = [] ∧ (someBag 0).rows[0]? = some (0x10000, 2 ^ 42, 0) ∧
    isBad s.badMem (2 ^ 42) (cRowSize bagRecord) = false ∧ (q s).map (·.lanes) = [[⟨0x3F800000, false⟩], []] ∧
    (q (g 0 { someBag 0 with rows := [] })).map (fun t => t.lanes.map (·.null)) = [[true], []] ∧
    (q (g 1 (someBag 0))).map (fun t => (t.kind, t.level)) = [(.stop, 1)] := by decide +kernel

/-- CapacityCommandsAnswerAndProceed: two ranks, bf16 rows 1.0 and 2.0 of weights 1 and 3, 7.0; an E4M3 row 2.0 (0x40) of scale 0.5 with the
gradient 3.0 of weight 1, (1 + 3) / 0.5 = 8.0 (0x50). -/
theorem test_capacity_sums : let r := fun (f : Nat) => (bagRecord.set 1 (BitVec.ofNat 64 (1 + 2 ^ 32 + f * 2 ^ 48 + 4 * 2 ^ 52)) : List Word)
    let row : List Byte := [0, 0, 0, 0x3F, 0x40]
    cD bagRecord = 1 ∧ cFmt bagRecord = 2 ∧ cFmt (r 0) = 0 ∧ cFmt (r 3) = 3 ∧ cSat (r 3) = false ∧ row.length = 4 + 1 * cD (r 3) ∧
    (pooledVector bagRecord [(2 ^ 42, 0x3F800000, [0x80, 0x3F]), (2 ^ 42 + 2 ^ 36, 0x40400000, [0x00, 0x40])]).1 = [0x40E00000] ∧
    (gatheredRow bagRecord [0x81, 0x7F]).1 = [0x7FC00000] ∧ (gatheredRow (r 0) [1, 2, 3, 4]).1 = [0x04030201] ∧
    (gatheredRow (r 3) row).1 = [0x3F800000] ∧ (updatedRow (r 3) 0x3F800000 [0x40400000] row).1 = [0, 0, 0, 0x3F, 0x50] := by decide +kernel

/-- LoaderCommandsAnswer: a running generator whose extent meets the range, one whose extent does not; translations of both kinds. -/
theorem test_cfg_inv : let near : Tlb := somePage; let far : Tlb := { somePage with va := 0x20000 }
    let v := genOf .running 0; let w := { v with extents := [⟨0x20000, 65536, 0x40000, true, true, true, true, none⟩] }
    let c := { coreOf [(2, 0), (3, 0x10000)] with gens := [(3, v), (5, w)], tlb2 := [near, far],
                                                  nodes := [(1, { Node.reset with tlb := [near, far] })] }
    let s := stateOf { c with seq := { c.seq with itlb := [(0, 65536, 0x40000), (0x20000, 65536, 0x40000)] } } []
    let z := cur (after (.cfgInv 1 2 3 5) s)
    Alone s (some 5) someCohort ∧ loaderOperandBad (command s 1 [2, 3] (some 5) (.cfgInv 1 2 3 5)) = false ∧ c.unstored = none ∧
    lead c 3 = 3 ∧ lead c 5 = 5 ∧ ((List.range 16).all fun k => (genAt c k).fn != 6) = true ∧ z.tlb2 = [far] ∧
    z.seq.itlb = [(0x20000, 65536, 0x40000)] ∧ z.nodes.map (fun e => e.2.tlb) = [[far]] ∧
    ((genAt z 3).st, (genAt z 3).extents.map (·.ok)) = (.paused, [false]) ∧
    ((genAt z 5).st, (genAt z 5).extents.map (·.ok)) = (.running, [true]) := by decide +kernel

/-- ImagesAreFetchedPlacedAndSpliced: the binding word as the fetch first reads it; one with bit 2 of its res0 field set is refused; a
splice whose region keeps no stitch that the successor may not have. -/
theorem test_binding_word : let c := coreOf [(2, 0x100), (3, 3)]; let s := imageState c; let i := Instr.cfgFetch 1 2 3 5
    let b := { s with mem := memWrite s.mem 0x40100 (leBytes 8 0x0010000000050006) }
    let x := translateAt (issued s 1 [2, 3] (some 5) i) 0 0x100 .both
    let y := translateAt (setEntry (takeCmd x.1 0 (command s 1 [2, 3] (some 5) i) 0) 0 3 none) 0 0x100 .both
    let old := { someRegion with census := 0, cfg := { someConfig with block := 2, x0 := 4, y0 := 2, w := 1, h := 1 } }
    x.2.toOption = some somePage ∧ y.2.toOption = some somePage ∧ placeBad x.1 0x40100 8 = false ∧ placeBad y.1 0x40100 8 = false ∧
    memNat x.1.mem 0x40100 8 = 0x0010000000050002 ∧ memNat y.1.mem 0x40100 8 = 0x0010000000050002 ∧
    X (after i b) 1 = 1 ∧ (cur (after i b)).entries = [] ∧
    keptScopeBad (cur s) 1 old (imgConfig someImage 2 4 2) = false := by decide +kernel

/-- ManagementWritesAct: a trip of die 5 with its entry's number; MOD_RESET with the window open and closed; a request of step 15. -/
theorem test_trip_and_steps : let s := tableState (coreOf []); let d := { s with mod := { s.mod with clkReq := 0xF000000000000000 } }
    let w := { s with mod := { s.mod with window := false } }
    s.trust.log.length < 256 ∧ (after (.thermalTrip (.junction 5)) { s with trust := { s.trust with logNext := 3 } }).trust.log.map (·.1) =
      [0x00030501] ∧ s.trust.log = [] ∧ (ctxAt (after (.moduleReset .modReset) s) 0).st = .free ∧
    after (.moduleReset .modReset) w = w ∧ stepOf (after (.clockStepApply 15) d).mod.clkNow 15 = 14 := by decide +kernel

/-- VectorLaneOperationsCompute: the table of R249 and R255's example. -/
theorem test_conversions :
    laneOp 0x11C80000 0 0x40200000 0 0 = (4, fNX) ∧ laneOp 0x11C80000 0 0x40E00000 0 0 = (7, fOF ||| fNX) ∧
    laneOp 0x12080000 0 0xC3028000 0 0 = (0x7E, fNV) ∧ laneOp 0x12080008 0 0xC3028000 0 0 = (0xFFFFFF80, fNV) ∧
    laneOp 0x10480100 0 0x4780 0 0 = (0x7C00, fOF ||| fNX) ∧ laneOp 0x10480108 0 0x4780 0 0 = (0x7BFF, fOF ||| fNX) ∧
    laneOp 0x10880000 0 1 0 0 = (0, fUF ||| fNX) ∧ laneOp 0x10880030 0 1 0 0 = (1, fUF ||| fNX) ∧
    laneOp 0x10080200 0 0x7D 0 0 = (0x7FC00000, fNV) ∧ laneOp 0x10080500 0 0x01000001 0 0 = (0x4B800000, fNX) ∧
    laneOp 0x12480688 0 0x10000 0 0 = (0x7FFF, 0) ∧ laneOp 0x12480680 0 0x18000 0 0 = (0xFFFF8000, 0) ∧
    laneOp 0x10080700 0 0x80 0 0 = (0x40000000, 0) ∧ laneOp 0x10080700 0 0xFF 0 0 = (0x7FC00000, 0) ∧
    laneOp 0x14480004 0 0x8004 0 0 = (0x40800000, 0) ∧ laneOp 0x14480004 0 0x8008 0 0 = (0x80000000, 0) ∧
    laneOp 0x14480004 0 0xFF04 0 0 = (0x7FC00000, 0) := by decide +kernel

/-- RoundingDeliversNeighbours: R57's 300, 470 and 0.0013 in E4M3, R55's three lanes, a sticky value. -/
theorem test_rounding : let rnd := fun (m : Nat) (sat : Bool) (r : Nat) (p : Nat) (e : Int) => roundTo (ffmt 3) m sat r (.fin false p e false)
    rnd 0 false 0 300 0 = (0x79, fNX) ∧ rnd 0 false 0 470 0 = (0x7F, fOF ||| fNX) ∧ rnd 0 true 0 470 0 = (0x7E, fOF ||| fNX) ∧
    rnd 0 false 0 1 (-10) = (0, fUF ||| fNX) ∧ rnd 0 false 0 5 (-12) = (1, fUF ||| fNX) ∧ rnd 1 false 0 5 (-12) = (0, fUF ||| fNX) ∧
    rnd 5 false 0xACE1 300 0 = (0x7A, fNX) ∧ rnd 5 false 0x9FFF 300 0 = (0x79, fNX) ∧
    roundTo (ffmt 3) 3 false 0 (.fin false (2 ^ 70) (-70) true) = (0x39, fNX) := by decide +kernel

/-- RoundingDeliversNeighbours: those values span themselves; a sticky one spans what lies above it. -/
theorem test_spans : Spans 300 0 false 300 ∧ Spans 470 0 false 470 ∧ Spans 5 (-12) false (5 / 4096) ∧
    Spans (2 ^ 70) (-70) true (1 + 1 / 2 ^ 71) := by
  norm_num [Spans]

/-- FloatingOperationsAreExactBeforeRounding: exact operands of every kind, one half of whose cases each pair meets. -/
theorem test_exact : let one := Val.fin false 1 0 false; let neg := Val.fin true 1 0 false; let zero := Val.fin false 0 0 false
    (addV true one neg).1 = .fin true 0 0 false ∧ (addV false one neg).1 = .fin false 0 0 false ∧
    divV one zero = (.inf false, fDZ) ∧ divV zero zero = (.nan false, fNV) ∧ divV zero neg = (.fin true 0 0 false, 0) ∧
    addV false (.inf true) (.inf false) = (.nan false, fNV) ∧ mulV (.inf true) zero = (.nan false, fNV) ∧
    addV false (.nan true) one = (.nan false, fNV) ∧ fcmp 2 (.nan false) one = (false, fNV) ∧ fcmp 1 (.nan false) one = (true, 0) ∧
    fcmp 5 one neg = (true, 0) ∧ cmpV neg one = -1 ∧ specialV 0x32 neg = (.nan false, fNV) ∧ specialV 0x30 (.nan true) = (.nan false, fNV) ∧
    (roundTo f32 0 false 0 (divV one (.fin false 3 0 false)).1) = (0x3EAAAAAB, fNX) ∧
    (roundTo f32 0 false 0 (specialV 0x32 (.fin false 1 2 false)).1) = (0x40000000, 0) ∧
    (roundTo f32 0 false 0 (specialV 0x31 (.fin false 1 2 false)).1) = (0x3F000000, 0) ∧
    (specialV 0x34 (.fin false (2 ^ 3) (-5) false)).1 = .fin true 2 0 false ∧
    specialV 0x33 (.fin true 3 0 false) = (.fin false 1 (-3) false, 0) := by decide +kernel

/-- SpecialFunctionsFollowTheRealFunctions: operands 1, 64, 1024 and −1024 of binary32. -/
theorem test_special_operands : let X := fun (n : Bool) (e : Int) => (((realOf (.fin n 1 e false) : ℚ)) : ℝ)
    |X false 0| < 64 ∧ 64 ≤ |X false 6| ∧ |X true 6| < 1024 ∧ 1024 ≤ X false 10 ∧ X true 10 ≤ -1024 ∧ (1 : Nat) < 2 ^ 24 ∧
    -149 ≤ (0 : Int) ∧ (10 : Int) ≤ 104 := by
  norm_num [realOf, abs_of_pos, abs_of_neg]

/-- DecodeOfEncodeIsTheInstruction: instructions of each kind that have a word, and an event, which has none. -/
theorem test_wordless : wordless (.addi 1 31 0xFFFF) = false ∧ wordless (.swRoute 1 3 5) = false ∧ wordless .coreCycle = true ∧
    (encode32 (.addi 1 31 0xFFFF)).isSome = true ∧ encode32 .coreCycle = none ∧ encode16 .coreCycle = none := by decide +kernel

/-- ManagementWritesAct: a write to the mailbox payload, in running mode. -/
theorem test_payload_write : let s := { plain [] with trust := { Trust.reset with mode := .running } }
    s.trust.mode ≠ .boot ∧ memNat (after (.registerWrite 0x1001008 0x1234) s).trust.payload 8 8 = 0x1234 := by decide +kernel

-- forms and clauses beside those above ----------------------------------------------------------------------------------------

/-- LoadsReadMemoryAtHome, FencesAndWaits: the bytes at 0x40100 that a load has read ahead, before a store changed them (R160); a fence
drops them; a turn that reads ahead, and one at a sequencer that waits. -/
theorem test_load_early : let e := some (0x40100, [0x11, 0x22, 0x33, 0x44, 0x55, 0x66, 0x77, 0x88])
    let s := stateOf { coreOf [(2, 0x100)] with early := e } [(0, 0x80)]
    let w := setCur s { cur s with seq := { seqOf [] with st := .wait, waitu := some (8, false) } }
    let turn := fun (s : State) => match step { s with agenda := [⟨0, .early 0x40100⟩] } with | .next z => (cur z).early | _ => none
    Ready s [1, 2] ∧ issuing (cur w).seq = false ∧ placeBad s 0x40100 8 = false ∧ seen s 0x40100 4 = 0x44332211 ∧
    seen s 0x40106 4 = leNat (memRead s.mem 0x40106 4) ∧ X (after (.lw 1 2 0) s) 1 = 0x44332211 ∧ (cur (after (.lw 1 2 0) s)).early = none ∧
    X (after (.lbu 1 2 0) (after (.fence 0) s)) 1 = 0x80 ∧ turn s = some (0x40100, [0x80, 0, 0, 0, 0, 0, 0, 0]) ∧ turn w = e := by
  decide +kernel

/-- BranchesAndJumpsGoToTheirTarget: beq into the aperture, not taken. -/
theorem test_branch_not_taken : let s := setCur (plain []) { coreOf [] with seq := { seqOf [(1, 1)] with pc := 0xFFFFFFFEFFFFFFFC } }
    Ready s [1, 2] ∧ inAperture ((cur s).seq.pc + 4) = true ∧ (cur (after (.beq 1 2 1) s)).seq.pc = 0xFFFFFFFF00000000 ∧
    (cur (after (.beq 1 2 0xFFFF) s)).seq.pc = 0xFFFFFFFF00000000 ∧ (cur (after (.beq 2 2 1) s)).seq.pc = 0x2000 := by decide +kernel

/-- FencesAndWaits: waitu at an address that is not canonical, and at a misaligned one. -/
theorem test_waitu_address : let s := fun (a : Word) => plain [(2, a), (3, 0)]; let c := fun (a : Word) => (cur (after (.waitu 8 2 6) (s a))).seq.cause
    Ready (s 0x102) [8, 9, 2, 3, 4, 6] ∧ (cur (ordered (s 0x102))).seq.st ≠ .dead ∧ waituBad 0 0 = false ∧ Handler (ordered (s 0x102)) ∧
    canonical 0x0100000000000000 = false ∧ canonical 0x102 = true ∧ (0x102 : Nat) % 4 ≠ 0 ∧
    c 0x0100000000000000 = BitVec.ofNat 64 (5 + 64 * 0x0100000000000000) ∧ c 0x102 = BitVec.ofNat 64 (3 + 64 * 0x102) := by decide +kernel

/-- AmoReadsAndReplacesTheWord, LocalApertureAccesses: 1.0 + 2.0, and fmin with a signalling NaN, in memory and in the scratchpad. -/
theorem test_amo_float : let b : List Byte := [0, 0, 0x80, 0x3F]
    let c := { coreOf [(2, 0x100), (3, 0x40000000), (4, 0xFFFFFFFF00000000), (5, 0x7FA00000)] with scratch := memWrite [] 0 b }
    let s := stateOf c (b.map fun v => (0, v)); let z := after (.amo 1 2 3 0 4) s; let y := after (.amo 1 4 5 1 4) s
    Ready s ([1, 2, 3, 4, 5] ++ [3]) ∧ atomicWord 2 7 0x3F800000 0x40000000 0 = 0x40400000 ∧ atomicFlags 2 7 0x3F800000 0x40000000 = 0 ∧
    memNat z.mem 0x40100 4 = 0x40400000 ∧ X z 1 = 0x3F800000 ∧ localOf (begun s) 0 = .scratch 0 0 ∧
    memNat (cur y).scratch 0 4 = 0x3F800000 ∧ atomicFlags 3 7 0x3F800000 0x7FA00000 = fNV ∧ flagSet (cur y) 8 = fNV ∧ X y 1 = 0x3F800000 := by
  decide +kernel

/-- WatchTableEvents: a wake with an 8-byte value for thread 33 of a cohort of 16 live values; one at scope .k over a sector. -/
theorem test_wake_report : let h := { someCohort with live := 2 }
    let e : Sector := { filled := true, clean := List.replicate 128 1, dirty := [(3, 9)] }
    let c := { coreOf [] with coh := some h, wakes := [(0x10, 0x700000009, [0, 5, 1, 2, 1, 2, 0x40100])], lv := memPut [] 7 1
                              nodes := [(3, { Node.reset with sectors := [(0x802, e)] })], bs := { Sched.reset with watch := [33] } }
    let z := cur (after .threadWake (stateOf c []))
    fabricCohort c = some h ∧ c.saving = false ∧ (c.lv : Mem).wf = true ∧
    [7, 8, 9, 10, 11].map (fun i => lvGet z 33 i) = [0, 0x10, 9, 7, 0] ∧ z.bs.watch = [] ∧
    (sectorAt z 3 0x802).filled = false ∧ (sectorAt z 3 0x802).dirty = [(3, 9)] := by decide +kernel

/-- StepRunsTheDecodedInstruction: memory node 0 can accept the set of slot 3; a state without regions. -/
theorem test_step_runs_the_node : let v := (encode32 (.mld 1 0 0 0)).getD 0
    let n := stateOf { coreOf [] with nodes := [(0, { Node.reset with u := readyUnit v 0 0 (pairRun 0 4) })] } []
    nextNodeSlot n 0 0 = some 3 ∧ n.lu.busy = none ∧ (∀ e ∈ n.cores, e.2.regions = []) := by decide +kernel

/-- Site (2, 2): slot 3 sums .s32, SLEV 2, SACT 2, with 1 and 2 of round 5 and of round 6; a stop token of round 5 and level `n` at input `i`. -/
def sumState (n i : Nat) : State :=
  let sl := slotOf [.swRoute 4 1 2] [0b000_0000000_001_000_000_000_000_000_0_000#32] 0x8BF80
  let a : Acc := { slot := 3, round := 5, frame := 0, ctx := 0, place := 9, vals := [1, 2], count := 0 }
  let u := { FUnit.reset with
    place := 9, slots := [(3, sl)], accs := [a, { a with round := 6 }]
    unitq := [{ slot := 3, inp := i, tok := { stopOf 3 with level := n, round := 5 } }] }
  stateOf { coreOf [] with sites := [(18, u)], regions := [(0, { someRegion with census := 3 })] } []
/-- That site after the stop token. -/
def sumSite (n i : Nat) : FUnit := siteAt (cur (after (.stopToken (.site 2 2) 0) (sumState n i))) 2 2

/-- StopTokensAct: the premises of the releasing clause. -/
theorem test_stop_premises : let u := siteAt (cur (sumState 2 0)) 2 2
    (u.slot 3).acc = true ∧ (u.slot 3).slev = 2 ∧ (u.slot 3).sact = 2 ∧ isOwner (.site 2 2) (u.slot 3) = false ∧
    slotHead (cur (sumState 2 0)) (.site 2 2) 0 = some { slot := 3, inp := 0, tok := { stopOf 3 with round := 5 } } ∧
    resultSpace (cur (sumState 2 0)) (.site 2 2) 3 = true ∧ u.wordFor 3 4 = some (.swRoute 4 1 2) ∧ unitOk (.site 2 2) = true ∧
    Stg.op (u.slot 3).word0 = 0 ∧ Stg.ty (u.slot 3).word0 = 0 ∧ Stg.sat (u.slot 3).word0 = false ∧
    (accValue (u.slot 3) [0x7FFFFFFF, 2]).1 = 0x80000001 := by decide +kernel

/-- StopTokensAct: round 5 leaves as 3 ahead of the stop token, which passes one level lower; round 6 stays; a stop token of level 1 and one at
another input release nothing. -/
theorem test_stop_releases :
    ((sumSite 2 0).queue 4).map (fun t => (t.kind, t.round, t.level)) = [(.run, 5, 0), (.stop, 5, 1)] ∧
    ((sumSite 2 0).queue 4).map (fun t => (t.tags, t.lanes)) = [([0], [⟨3, false⟩]), ([], [])] ∧ (sumSite 2 0).accs.map (·.round) = [6] ∧
    (sumSite 1 0).queue 4 = [] ∧ (sumSite 1 0).accs.length = 2 ∧ (sumSite 2 1).queue 4 = [] ∧ (sumSite 2 1).accs.length = 2 := by
  decide +kernel

/-- MemoryAccessesEnterTheirQueues, MemoryNodeEvents: what a fence of thread 4 waits for, and a state in which nothing is on its way. -/
theorem test_fence_waits : let a := someAccess 0x40104 0 0
    let c := { coreOf [] with nodes := [(1, { Node.reset with compare := [{ a with run := 5 }, { a with tag := 6, run := 9 }] })]
                              hold := [(0, [{ a with flight := 8 }])]
                              parked := [{ seq := 0, who := .piece 1 { slot := 3, toks := [], run := 6, acts := [4] }, va := 0, inRing := true,
                                           answer := 0 }] }
    (nodeLanes c).map (fun a => (a.tag, a.run)) = [(4, 5), (6, 9)] ∧ scratchLanes c = [(8, 4)] ∧ openAccesses c [4] = [5, 8, 6] ∧
    nodeLanes (coreOf []) = [] ∧ scratchLanes (coreOf []) = [] ∧ (takeNode (mnState (pairRun 0 4) 0 0)).isSome = true := by decide +kernel

/-- SchedulerEvents: threads 4 and 5 of one packed set whose exit tokens came by different entries, to blocks 7 and 8. -/
theorem test_exit_entries : let t : Tok := { someRun with kind := .packed, tags := [4, 5], slot := 0 }
    let f : Fire := { slot := 0, toks := [t], exits := [(5, 1)] }; let w : List Word := [0, 0x800800008007, 0, 0]
    let c := { coreOf [] with regions := [(0, fedRegion 3 (.entry 0))]
                              bs := { Sched.reset with dir := 0x100, cached := [(0, w)], exits := [(0, { FUnit.reset with ready := [f] })] } }
    let z := cur (after (.exitPortFire 0) (stateOf c []))
    unperformed c t.tags = false ∧ outValues c t.place = [] ∧ (∀ a ∈ t.tags, inVector c a = false) ∧ exitNumber c t.place 0 = 0 ∧
    (cfgOfPlace c t.place).map (·.block) = some 0 ∧ exitSlot f t 4 = 0 ∧ exitSlot f t 5 = 1 ∧
    [exitEntry w 0, exitEntry w 1].all (fun x => x.getLsbD 15 && xKind x == 0) = true ∧
    waitingOf z 7 = [4] ∧ waitingOf z 8 = [5] := by decide +kernel

/-- A record of three rows at 0x40000, stride 16 KiB, without weights. -/
def rowsRecord : List Word := [0x40000, 3 + 2 ^ 32 + 14 * 2 ^ 52, 0x100, 0x110, 0x120, 0, 1, 0]
/-- Memory with OFFS `o`, LENS `l` and the indices `i` and `j` of that record, in the page of virtual 0. -/
def rowsState (o l i j : Nat) : State :=
  let m := memWrite (memWrite [] 0x40100 (leBytes 4 o)) 0x40110 (leBytes 4 l)
  { plain [] with mem := memWrite m 0x40120 (leBytes 4 i ++ leBytes 4 j) }
/-- Bag 0 of that record, bound with the pages `ps`. -/
def boundBag (ps : Pages) (o l i j : Nat) : Option (CapBag × Option (Nat × Nat)) := (bindBag (rowsState o l i j) 0 rowsRecord 0 ps).2.toOption.map (·.2)

/-- CapacityCommandsAnswerAndProceed: bags of one and of two rows, an index past the table, a row outside the capacity tier, a
range past 2^32. -/
theorem test_capacity_bind :
    boundBag [(0, 4), (4, 2 ^ 26)] 0 1 2 0 = some ({ len := 1, bad := false, rows := [(0x48000, 2 ^ 42 + 0x8000, 0x3F800000)] }, none) ∧
    boundBag [(0, 4), (4, 2 ^ 26)] 0 2 1 3 = some ({ len := 2, bad := true, rows := [] }, some (1, 0x124)) ∧
    boundBag [(0, 4), (4, 4)] 0 1 0 0 = some ({ len := 1, bad := true, rows := [] }, some (2, 0x40000)) ∧
    boundBag [(0, 4), (0x40000, 4)] 0xFFFFFFFF 2 0 0 = some ({ len := 2, bad := true, rows := [] }, some (3, 0x110)) := by decide +kernel

/-- CapacityCommandsAnswerAndProceed: the premises of these; a page that is translated already, and one that is not. -/
theorem test_capacity_pages :
    capEntry rowsRecord 2 0 = 0x100 ∧ capEntry rowsRecord 4 1 = 0x124 ∧ cRows rowsRecord = 3 ∧ cWts rowsRecord = false ∧
    placeBad (rowsState 0 1 2 0) 0x40120 4 = false ∧
    (capPage (plain []) 0 0x105 .read [(0, 4)]).2.toOption = some ([(0, 4)], 0x40105) ∧
    (capPage (plain []) 0 0x105 .read []).2.toOption = some ([(0, 4)], 0x40105) := by decide +kernel

/-- CapacityCommandsAnswerAndProceed: a binding that marks its bag, and one that meets a translation fault. -/
theorem test_capacity_bind_stops : let s := bagState (.embPool 1 4 3 5) 0x200 fun k => { k with active := true }
    let r := bindAll s 0 (bagRun s).1 (bagRun s).2; let z := after (.capBindingDone 8) s
    let t := setCur s { cur s with coh := some { someCohort with root := 0 }, walk := [] }
    capRuns (cur s) 8 = some (bagRun s) ∧ (bagRun s).2.active = true ∧ (bagRun s).2.bound = false ∧ (bagRun s).2.posted = [] ∧
    (bagRun s).1.prev = false ∧ (bagRun s).1.pen = some 5 ∧ r.2.isOk = true ∧ z.lu.fbuf.length = (match r.2 with | .ok v => v.2.2.length | _ => 9) ∧
    (bindAll t 0 (bagRun t).1 (bagRun t).2).2.isOk = false ∧ (cur (after (.capBindingDone 8) t)).parked.length = 1 := by decide +kernel

/-- EnginesFinishTheirWork: the sources may make their final markers. -/
theorem test_may_start : let g := { fedRegion 3 (.entry 0) with drained := true }; let c := { coreOf [] with regions := [(0, g)] }
    c.saving = false ∧ g.sources ≠ [] ∧ g.sources.all (fun q => mayStart c 0 q && g.sources.all fun o => (q.round - o.round).toNat != 128) = true := by
  decide +kernel

/-- ContextInstructionsComplete: ctx.fault with FATAL and code 0x2A, and without. -/
theorem test_ctx_fault : let s := fun (v : Word) => plain [(2, v), (3, 0x77)]; let z := fun (v : Word) => after (.ctxFault 1 2 3) (s v)
    let r := fun (v : Nat) (f : Bool) => [(recordWords { Record.mk' 0x14 7 v f with core := 0, addr := 0x77 } 0 0 0x11, 0)]
    Alone (s 0x12A) none someCohort ∧ (z 0x12A).lu.fbuf = r 0x2A true ∧ (z 0x2A).lu.fbuf = r 0x2A false ∧ (cur (z 0x12A)).seq.st = .dead ∧
    (cur (z 0x2A)).seq.st = .run ∧ (z 0x12A).launches.map (·.fatal) = [true] ∧ (z 0x2A).launches.map (·.fatal) = [false] ∧
    X (z 0x12A) 1 = 0 := by decide +kernel

/-- ContextsSaveAndRestore: in a save the report also covers a core whose units have come to it. -/
theorem test_quiescent_save :
    let k := { coreOf [] with saving := true, seqSaved := true, seq := { seqOf [] with st := .saved, held := .run } }
    coreQuietToSave (stateOf k []) 0 = true ∧ (cur (after .coreQuiescent (stateOf k []))).quiet = true ∧
    (cur (after .coreSaved (stateOf k []))).coh = some someCohort := by decide +kernel

/-- ManagementWritesAct, HostPeersAndTrustCore: what a reset leaves; the entry of port 5, on die 7; CXL.cache without the feature. -/
theorem test_reset_more : let s := { tableState (coreOf []) with trust := { Trust.reset with mode := .running, logNext := 2 }, pins := [(1, 0, 1)] }
    let z := after (.moduleReset .cxl) s
    (z.homeMap, z.pins, z.queues, z.launches) = (State.reset.homeMap, [], [], []) ∧ z.mod.wins = [] ∧ z.trust.grants = Trust.reset.grants ∧
    (after (.halyardPortDown 5) s).trust.log.map (·.1) = [0x25705] ∧ s.remote = [] ∧ Machine.accepted s 3 = false ∧
    after (.hostCacheInvalidation (2 ^ 51) [5]) s = s := by decide +kernel

/-- RunOperationsCombineLanes: signed values 5, 0x7FFFFFFE, −1 of tags 1 to 3, in another order: saturating sums, the least so far. -/
theorem test_folds : let w := fun (op md sat : Nat) => BitVec.ofNat 32 (op * 2 ^ 22 + 2 ^ 19 + sat * 2 ^ 3 + md)
    let lane := fun (t : Nat) (v : W32) => ({ tag := t, pos := t, ins := [(0, ⟨v, false⟩)], act := true, prev := 0, res := ⟨0, true⟩ } : Work)
    let x : Run := { core := coreOf [], lfsr := 1, fl := 0, lanes := [lane 3 0xFFFFFFFF, lane 1 5, lane 2 0x7FFFFFFE] }
    let y := fun (w : W32) => (runStage (slotOf [] [w] 0) w x).lanes.map (·.prev)
    let one : Run := { x with lanes := [lane 1 0x3F800000, lane 2 0x33000000] }
    (x.lanes.all (·.act)) = true ∧ (x.lanes.map (·.tag)).Nodup ∧ Stg.op (w 0x60 0 1) = 0x60 ∧ Stg.dst (w 0x60 0 1) = 1 ∧
    y (w 0x60 0 1) = [0x7FFFFFFE, 5, 0x7FFFFFFF] ∧ y (w 0x61 1 0) = [0xFFFFFFFF, 0xFFFFFFFF, 0xFFFFFFFF] ∧
    y (w 0x60 2 0) = [0x7FFFFFFE, 5, 0x7FFFFFFE] ∧
    (let v := w 0x61 0 0 ||| 0x180; let z := runStage (slotOf [] [v] 0) v one
     Stg.ty v = 3 ∧ z.lanes.map (·.prev) = [0x3F800000, 0x3F800000] ∧ z.fl = fNX ∧
     folded v (0x3F800000, 1, 0) 0x33000000 = (0x3F800000, 1, fNX)) := by decide +kernel
end Sys2Proof.Tests
end

section
/-! Exact values as rational numbers: what the sum, the product, the comparison, the quotient and the roots stand for. -/

namespace Sys2Proof.Numbers

open Sys2Proof Sys2Proof.Machine Sys2Proof.Claim

@[simp] theorem realOf_fin (n : Bool) (m : Nat) (e : Int) (st : Bool) :
    realOf (.fin n m e st) = (if n then -1 else 1) * (m : ℚ) * 2 ^ e := rfl

theorem zpow_two_pos (e : Int) : (0 : ℚ) < 2 ^ e := zpow_pos two_pos e

theorem zpow_two_ne (e : Int) : (2 : ℚ) ^ e ≠ 0 := (zpow_two_pos e).ne'

/-- Powers of 2 with a difference of exponents cut at 0, as the model writes them. -/
theorem pow_toNat_sub_mul_zpow {e q : Int} (h : q ≤ e) : (2 : ℚ) ^ (e - q).toNat * 2 ^ q = 2 ^ e := by
  rw [← zpow_natCast, ← zpow_add₀ two_ne_zero, Int.toNat_of_nonneg (by omega), sub_add_cancel]

/-- The flags that the signalling operands of a two-operand form raise. -/
theorem nvOf_pair (x y : Val) : nvOf [x, y] = if isSnan x = true ∨ isSnan y = true then fNV else 0 := by
  simp [nvOf]

/-- The flags that the signalling operands of a fused form raise. -/
theorem nvOf_triple (x y z : Val) :
    nvOf [x, y, z] = if isSnan x = true ∨ isSnan y = true ∨ isSnan z = true then fNV else 0 := by
  simp [nvOf]

theorem isNan_iff (x : Val) : isNan x = true ↔ ∃ sg, x = .nan sg := by
  cases x <;> simp [isNan]

/-- A NaN operand makes sums, products and quotients the canonical NaN. -/
theorem arith_of_nan {x y : Val} (rdn : Bool) (h : isNan x = true ∨ isNan y = true) :
    ∀ e ∈ [addV rdn x y, mulV x y, divV x y], e = (.nan false, nvOf [x, y]) := by
  rcases h with hx | hy
  · obtain ⟨sg, rfl⟩ := (isNan_iff x).1 hx
    simp [addV, mulV, divV]
  · obtain ⟨sg, rfl⟩ := (isNan_iff y).1 hy
    cases x <;> simp [addV, mulV, divV]

/-- A finite operand brought to a smaller exponent keeps its value. -/
theorem signedAt_mul_zpow (n : Bool) (m : Nat) {e q : Int} (st : Bool) (h : q ≤ e) :
    (signedAt n m e q : ℚ) * 2 ^ q = realOf (.fin n m e st) := by
  rw [realOf_fin, ← pow_toNat_sub_mul_zpow h]
  cases n <;> simp [signedAt, mul_assoc]

/-- Sign and magnitude of an integer stand for that integer. -/
theorem realOf_signMagnitude (t : Int) (q : Int) (st : Bool) :
    realOf (.fin (decide (t < 0)) t.natAbs q st) = t * 2 ^ q := by
  have h : ((t.natAbs : ℚ)) = |(t : ℚ)| := by rw [← Int.cast_abs, Nat.cast_natAbs]
  rw [realOf_fin, h]
  rcases lt_or_ge t 0 with ht | ht
  · have : (t : ℚ) < 0 := by exact_mod_cast ht
    simp [ht, abs_of_neg this]
  · have : (0 : ℚ) ≤ t := by exact_mod_cast ht
    simp [not_lt.2 ht, abs_of_nonneg this]

theorem realOf_eq_zero_iff (n : Bool) (m : Nat) (e : Int) (st : Bool) : realOf (.fin n m e st) = 0 ↔ m = 0 := by
  cases n <;> simp [zpow_two_ne]

/-- The sign bit of a finite value that is not zero is its sign. -/
theorem decide_realOf_neg (n : Bool) {m : Nat} (e : Int) (st : Bool) (h : m ≠ 0) :
    decide (realOf (.fin n m e st) < 0) = n := by
  have hm : (0 : ℚ) < m * 2 ^ e := mul_pos (by positivity) (zpow_two_pos e)
  cases n
  · simpa using hm.le
  · simpa using hm

/-- A sum of finite values that are not zero is formed at the smaller exponent. -/
theorem addV_nonzero (rdn a : Bool) {m : Nat} (e : Int) (b : Bool) {n : Nat} (f : Int) (hm : m ≠ 0) (hn : n ≠ 0) :
    let t := signedAt a m e (min e f) + signedAt b n f (min e f)
    addV rdn (.fin a m e false) (.fin b n f false) =
      (if t = 0 then .fin rdn 0 0 false else .fin (decide (t < 0)) t.natAbs (min e f) false, 0) := by
  intro t
  simp only [addV, hm, hn, decide_false, Bool.false_and, Bool.false_eq_true, if_false, Bool.or_self]
  exact (apply_ite (·, (0 : Flags)) _ _ _).symm

/-- A finite sum is exact, and a zero sum has R61's sign. -/
theorem addV_fin (rdn a : Bool) (m : Nat) (e : Int) (b : Bool) (n : Nat) (f : Int) :
    let s := realOf (.fin a m e false) + realOf (.fin b n f false)
    ∃ c k q, addV rdn (.fin a m e false) (.fin b n f false) = (.fin c k q false, 0) ∧ realOf (.fin c k q false) = s ∧
      (s ≠ 0 → c = decide (s < 0)) ∧ (s = 0 → c = if m = 0 ∧ n = 0 ∧ a = b then a else rdn) := by
  intro s
  by_cases hm : m = 0
  · by_cases hn : n = 0
    · exact ⟨if a = b then a else rdn, 0, 0, by simp [addV, hm, hn], by simp [s, hm, hn], by simp [s, hm, hn],
        by simp [hm, hn]⟩
    · have hs : s = realOf (.fin b n f false) := by simp [s, hm]
      refine ⟨b, n, f, by simp [addV, hm, hn], hs.symm, fun _ => ?_, fun h0 => ?_⟩
      · rw [hs, decide_realOf_neg b f false hn]
      · exact absurd ((realOf_eq_zero_iff b n f false).1 (hs ▸ h0)) hn
  · by_cases hn : n = 0
    · have hs : s = realOf (.fin a m e false) := by simp [s, hn]
      refine ⟨a, m, e, by simp [addV, hm, hn], hs.symm, fun _ => ?_, fun h0 => ?_⟩
      · rw [hs, decide_realOf_neg a e false hm]
      · exact absurd ((realOf_eq_zero_iff a m e false).1 (hs ▸ h0)) hm
    · have hadd := addV_nonzero rdn a e b f hm hn
      set t := signedAt a m e (min e f) + signedAt b n f (min e f)
      have hs : (t : ℚ) * 2 ^ min e f = s := by
        rw [Int.cast_add, add_mul, signedAt_mul_zpow a m false (min_le_left e f),
          signedAt_mul_zpow b n false (min_le_right e f)]
      by_cases ht : t = 0
      · have h0 : s = 0 := by rw [← hs, ht]; simp
        exact ⟨rdn, 0, 0, by simp [hadd, ht], by simp [h0], fun h => absurd h0 h, by simp [hm]⟩
      · have hk : t.natAbs ≠ 0 := Int.natAbs_ne_zero.2 ht
        have hr : realOf (.fin (decide (t < 0)) t.natAbs (min e f) false) = s := (realOf_signMagnitude _ _ _).trans hs
        refine ⟨decide (t < 0), t.natAbs, min e f, by simp [hadd, ht], hr, fun _ => ?_, fun h0 => ?_⟩
        · rw [← hr, decide_realOf_neg _ _ _ hk]
        · exact absurd ((realOf_eq_zero_iff _ _ _ _).1 (hr.trans h0)) hk

/-- A finite product is exact. -/
theorem realOf_mul (a : Bool) (m : Nat) (e : Int) (b : Bool) (n : Nat) (f : Int) :
    realOf (.fin (a != b) (m * n) (e + f) false) = realOf (.fin a m e false) * realOf (.fin b n f false) := by
  simp only [realOf_fin, zpow_add₀ (two_ne_zero (α := ℚ)), Nat.cast_mul]
  cases a <;> cases b <;> simp <;> ring

/-- Finite values are compared as the numbers they stand for. -/
theorem cmpV_fin (a : Bool) (m : Nat) (e : Int) (b : Bool) (n : Nat) (f : Int) :
    let u := realOf (.fin a m e false); let v := realOf (.fin b n f false)
    cmpV (.fin a m e false) (.fin b n f false) = if u < v then -1 else if u = v then 0 else 1 := by
  intro u v
  set t := signedAt a m e (min e f) - signedAt b n f (min e f) with ht
  have hs : u - v = t * 2 ^ min e f := by
    rw [ht, Int.cast_sub, sub_mul, signedAt_mul_zpow a m false (min_le_left e f),
      signedAt_mul_zpow b n false (min_le_right e f)]
  have hlt : u < v ↔ t < 0 := by
    rw [← sub_neg, hs, mul_neg_iff, Int.cast_lt_zero]
    simp [zpow_two_pos, (zpow_two_pos _).le.not_gt]
  have heq : u = v ↔ t = 0 := by
    rw [← sub_eq_zero, hs, mul_eq_zero_iff_right (zpow_two_ne _), Int.cast_eq_zero]
  simp only [hlt, heq]
  rfl

theorem abs_realOf (n : Bool) (m : Nat) (e : Int) (st : Bool) : |realOf (.fin n m e st)| = m * 2 ^ e := by
  cases n <;> simp [abs_mul, abs_of_pos (zpow_two_pos e)]

/-- A quotient of whole numbers spans the fraction that it cuts. -/
theorem spans_div (m : Nat) {n : Nat} (hn : n ≠ 0) (q : Int) :
    Spans (m / n) q (m % n != 0) ((m : ℚ) / n * 2 ^ q) := by
  have hpos : (0 : ℚ) < n := by positivity
  have hm : (m : ℚ) = n * (m / n : Nat) + (m % n : Nat) := by exact_mod_cast (Nat.div_add_mod m n).symm
  by_cases h0 : m % n = 0
  · simp only [Spans, h0, bne_self_eq_false, Bool.false_eq_true, if_false]
    rw [hm, h0, Nat.cast_zero, add_zero, mul_div_cancel_left₀ _ hpos.ne']
  · have hlt : ((m % n : Nat) : ℚ) < n := by exact_mod_cast Nat.mod_lt m (by omega)
    have hgt : (0 : ℚ) < (m % n : Nat) := by exact_mod_cast Nat.pos_of_ne_zero h0
    simp only [Spans, bne_iff_ne, ne_eq, h0, not_false_eq_true, if_true]
    constructor <;> refine mul_lt_mul_of_pos_right ?_ (zpow_two_pos q)
    · rw [lt_div_iff₀ hpos]; linarith
    · rw [div_lt_iff₀ hpos]; linarith

/-- A quotient is cut to at least 300 bits, and marked when the division leaves a remainder. -/
theorem divFin_spans (a : Bool) {m : Nat} (e : Int) (b : Bool) {n : Nat} (f : Int) (hm : m ≠ 0) (hn : n ≠ 0) :
    ∃ k q st, divFin a m e b n f = .fin (a != b) k q st ∧ 2 ^ 70 ≤ k ∧
      Spans k q st |realOf (.fin a m e false) / realOf (.fin b n f false)| := by
  set sh := 300 + Nat.log2 n with hsh
  set num := m * 2 ^ sh with hnum
  refine ⟨num / n, e - f - sh, num % n != 0, rfl, ?_, ?_⟩
  · have hlog : n < 2 ^ (Nat.log2 n + 1) := Nat.lt_log2_self
    rw [Nat.le_div_iff_mul_le (by omega)]
    calc 2 ^ 70 * n ≤ 2 ^ 70 * 2 ^ (Nat.log2 n + 1) := Nat.mul_le_mul_left _ hlog.le
      _ = 2 ^ (70 + (Nat.log2 n + 1)) := (pow_add ..).symm
      _ ≤ 2 ^ sh := Nat.pow_le_pow_right two_pos (by omega)
      _ ≤ num := Nat.le_mul_of_pos_left _ (by omega)
  · have hq : |realOf (.fin a m e false) / realOf (.fin b n f false)| = (num : ℚ) / n * 2 ^ (e - f - sh) := by
      rw [abs_div, abs_realOf, abs_realOf, zpow_sub₀ two_ne_zero, zpow_sub₀ two_ne_zero, zpow_natCast, hnum]
      push_cast
      field_simp
    rw [hq]
    exact spans_div num hn _

/-- The model's bitwise root: `r` is within `2 ^ n` below the root, and comes within 1 of it. -/
theorem isqrtFrom_bounds (n v r : Nat) (hlo : r * r ≤ v) (hhi : v < (r + 2 ^ n) * (r + 2 ^ n)) :
    isqrtFrom n v r * isqrtFrom n v r ≤ v ∧ v < (isqrtFrom n v r + 1) * (isqrtFrom n v r + 1) := by
  induction n generalizing r with
  | zero => exact ⟨hlo, hhi⟩
  | succ n ih =>
    rw [isqrtFrom]
    split
    next h => exact ih (r + 2 ^ n) h (by rwa [add_assoc, ← mul_two, ← pow_succ])
    next h => exact ih r hlo (not_le.1 h)

/-- The model's root is the floor of the square root. -/
theorem isqrt_eq_sqrt (v : Nat) : isqrt v = Nat.sqrt v := by
  refine Nat.eq_sqrt.2 (isqrtFrom_bounds _ v 0 (Nat.zero_le v) ?_)
  calc v < 2 ^ (Nat.log2 v + 1) := Nat.lt_log2_self
    _ ≤ 2 ^ ((Nat.log2 v / 2 + 1) + (Nat.log2 v / 2 + 1)) := Nat.pow_le_pow_right two_pos (by omega)
    _ = (0 + 2 ^ (Nat.log2 v / 2 + 1)) * (0 + 2 ^ (Nat.log2 v / 2 + 1)) := by rw [zero_add, pow_add]

/-- A floor `r` of a square root, scaled by `c`, and the next number enclose the root, or meet it. -/
theorem root_encloses {r v w : Nat} {c u : ℚ} (hc : 0 < c) (hu : 0 < u) (hlo : r * r * w ≤ v)
    (hhi : v < (r + 1) * (r + 1) * w) :
    if (r * r * w != v) = true then r * c * (r * c) * (w * u) < v * (c * c) * u ∧
      v * (c * c) * u < (r + 1) * c * ((r + 1) * c) * (w * u)
    else r * c * (r * c) * (w * u) = v * (c * c) * u := by
  have hpos : 0 < c * c * u := by positivity
  have hscale : ∀ x : ℚ, x * c * (x * c) * (w * u) = x * x * w * (c * c * u) := fun x => by ring
  rw [hscale, hscale, mul_assoc (v : ℚ)]
  split
  next h =>
    exact ⟨mul_lt_mul_of_pos_right (by exact_mod_cast lt_of_le_of_ne hlo (bne_iff_ne.1 h)) hpos,
      mul_lt_mul_of_pos_right (by exact_mod_cast hhi) hpos⟩
  next h =>
    have h : r * r * w = v := by simpa using h
    rw [← h, Nat.cast_mul, Nat.cast_mul]

/-- The model's square root in terms of the library's. -/
theorem sqrtFin_eq (m : Nat) (e : Int) : let v := m * 2 ^ ((e % 2).toNat + 400)
    sqrtFin m e = .fin false (Nat.sqrt v) ((e - (e % 2).toNat - 400) / 2) (Nat.sqrt v * Nat.sqrt v != v) := by
  simp only [sqrtFin, isqrt_eq_sqrt]

/-- A square root is cut to at least 70 bits, and marked when it is not exact. -/
theorem sqrtFin_encloses {m : Nat} (e : Int) (hm : m ≠ 0) :
    ∃ k q st, sqrtFin m e = .fin false k q st ∧ 2 ^ 70 ≤ k ∧ (let lo : ℚ := k * 2 ^ q; let hi : ℚ := (k + 1) * 2 ^ q
      if st = true then lo * lo < m * 2 ^ e ∧ m * 2 ^ e < hi * hi else (m : ℚ) * 2 ^ e = lo * lo) := by
  refine ⟨_, _, _, sqrtFin_eq m e, ?_⟩
  set odd := (e % 2).toNat with hodd
  set v := m * 2 ^ (odd + 400) with hv
  set q := (e - odd - 400) / 2 with hq
  have hk : 2 ^ 70 ≤ Nat.sqrt v := Nat.le_sqrt.2 <| by
    rw [← pow_add]
    calc 2 ^ (70 + 70) ≤ 2 ^ (odd + 400) := Nat.pow_le_pow_right two_pos (by omega)
      _ ≤ v := Nat.le_mul_of_pos_left _ (by omega)
  have hx : (v : ℚ) * (2 ^ q * 2 ^ q) * 1 = m * 2 ^ e := by
    have he : e = ((odd + 400 : Nat) : Int) + (q + q) := by omega
    rw [hv, Nat.cast_mul, mul_one, mul_assoc, ← zpow_add₀ two_ne_zero, Nat.cast_pow, Nat.cast_ofNat, ← zpow_natCast,
      ← zpow_add₀ two_ne_zero, ← he]
  have hlo : Nat.sqrt v * Nat.sqrt v * 1 ≤ v := by rw [mul_one]; exact Nat.sqrt_le v
  have hhi : v < (Nat.sqrt v + 1) * (Nat.sqrt v + 1) * 1 := by rw [mul_one]; exact Nat.lt_succ_sqrt v
  clear_value v
  have henc := root_encloses (u := 1) (zpow_two_pos q) zero_lt_one hlo hhi
  rw [hx] at henc
  exact ⟨hk, by simpa [eq_comm (a := (m : ℚ) * 2 ^ e)] using henc⟩

/-- The model's reciprocal square root in terms of the library's root. -/
theorem rsqrtFin_eq (m : Nat) (e : Int) : let w := m * 2 ^ (e % 2).toNat; let t := 300 + Nat.log2 w
    let r := Nat.sqrt (2 ^ (2 * t) / w)
    rsqrtFin m e = .fin false r (-(t : Int) - (e - (e % 2).toNat) / 2) (r * r * w != 2 ^ (2 * t)) := by
  simp only [rsqrtFin, isqrt_eq_sqrt]

/-- A reciprocal square root is cut to at least 70 bits, and marked when it is not exact. -/
theorem rsqrtFin_encloses {m : Nat} (e : Int) (hm : m ≠ 0) :
    ∃ k q st, rsqrtFin m e = .fin false k q st ∧ 2 ^ 70 ≤ k ∧ (let lo : ℚ := k * 2 ^ q; let hi : ℚ := (k + 1) * 2 ^ q
      if st = true then lo * lo * (m * 2 ^ e) < 1 ∧ 1 < hi * hi * (m * 2 ^ e) else lo * lo * (m * 2 ^ e) = 1) := by
  refine ⟨_, _, _, rsqrtFin_eq m e, ?_⟩
  set odd := (e % 2).toNat with hodd
  set w := m * 2 ^ odd with hw
  set t := 300 + Nat.log2 w with ht
  set v := 2 ^ (2 * t) with hv
  set r := Nat.sqrt (v / w) with hr
  set q := -(t : Int) - (e - odd) / 2 with hq
  have hw0 : w ≠ 0 := by positivity
  have hwlog : w < 2 ^ (Nat.log2 w + 1) := Nat.lt_log2_self
  have hk : 2 ^ 70 ≤ r := Nat.le_sqrt.2 <| by
    rw [← pow_add, Nat.le_div_iff_mul_le (by omega)]
    calc 2 ^ (70 + 70) * w ≤ 2 ^ (70 + 70) * 2 ^ (Nat.log2 w + 1) := Nat.mul_le_mul_left _ hwlog.le
      _ = 2 ^ (70 + 70 + (Nat.log2 w + 1)) := (pow_add ..).symm
      _ ≤ v := Nat.pow_le_pow_right two_pos (by omega)
  have hone : (v : ℚ) * (2 ^ q * 2 ^ q) * 2 ^ (e - odd) = 1 := by
    have he : ((2 * t : Nat) : Int) + (q + q) + (e - odd) = 0 := by omega
    rw [hv, Nat.cast_pow, Nat.cast_ofNat, ← zpow_natCast, ← zpow_add₀ two_ne_zero, ← zpow_add₀ two_ne_zero,
      ← zpow_add₀ two_ne_zero, he, zpow_zero]
  have hx : (w : ℚ) * 2 ^ (e - odd) = m * 2 ^ e := by
    rw [hw, Nat.cast_mul, Nat.cast_pow, Nat.cast_ofNat, mul_assoc, ← zpow_natCast, ← zpow_add₀ two_ne_zero,
      add_sub_cancel]
  have hlo : r * r * w ≤ v := (Nat.le_div_iff_mul_le (by omega)).1 (Nat.sqrt_le _)
  have hhi : v < (r + 1) * (r + 1) * w := (Nat.div_lt_iff_lt_mul (by omega)).1 (Nat.lt_succ_sqrt _)
  have henc := root_encloses (zpow_two_pos q) (zpow_two_pos (e - odd)) hlo hhi
  rw [hone, hx] at henc
  exact ⟨hk, henc⟩

/-- The logarithm of a power of 2 is its exponent. -/
theorem log2Fin_two_pow (j : Nat) (e : Int) : log2Fin (2 ^ j) e = .fin (decide (j + e < 0)) (j + e).natAbs 0 false := by
  simp [log2Fin, ofInt, Nat.log2_two_pow]

/-- A finite value of magnitude below 2^b has its leading bit below place b. -/
theorem log2_add_lt_of_abs_lt {n : Bool} {m : Nat} {e b : Int} {st : Bool} (hm : m ≠ 0)
    (h : |realOf (.fin n m e st)| < 2 ^ b) : Nat.log2 m + e < b := by
  have hlog : ((2 ^ Nat.log2 m : Nat) : ℚ) ≤ m := by exact_mod_cast Nat.log2_self_le hm
  rw [abs_realOf] at h
  refine (zpow_lt_zpow_iff_right₀ (one_lt_two (α := ℚ))).1 (lt_of_le_of_lt ?_ h)
  rw [zpow_add₀ two_ne_zero, zpow_natCast]
  exact mul_le_mul_of_nonneg_right (by exact_mod_cast hlog) (zpow_two_pos e).le

/-- A value with no bit below the fraction bits of fixed point is exact there. -/
theorem toFix_eq (n : Bool) (m : Nat) {e : Int} (he : -640 ≤ e) (st : Bool) :
    (toFix n m e : ℚ) = realOf (.fin n m e st) * Machine.one := by
  have h : (2 : ℚ) ^ (e + P).toNat = 2 ^ e * Machine.one := by
    rw [← zpow_natCast, Int.toNat_of_nonneg (by unfold P; omega), zpow_add₀ two_ne_zero, zpow_natCast, Machine.one,
      Int.cast_pow, Int.cast_ofNat]
  cases n <;> simp [toFix, h, mul_assoc]

/-- 2^x of an integer is exact. -/
theorem exp2Fin_int {n : Bool} {m : Nat} {e i : Int} (hm : m ≠ 0) (he : -640 ≤ e) (hi : i.natAbs < 1024)
    (hx : realOf (.fin n m e false) = i) : exp2Fin n m e = .fin false 1 i false := by
  have hsmall : Nat.log2 m + e < 10 := log2_add_lt_of_abs_lt (n := n) (st := false) hm <| by
    have : |i| < 1024 := by rw [Int.abs_eq_natAbs]; omega
    rw [hx]
    exact_mod_cast this
  have hfix : toFix n m e = i * Machine.one := by
    have : (toFix n m e : ℚ) = (i * Machine.one : Int) := by
      rw [toFix_eq n m he false, hx, Int.cast_mul]
    exact_mod_cast this
  have hone : Machine.one ≠ 0 := by unfold Machine.one; positivity
  simp [exp2Fin, not_le.2 hsmall, hfix, Int.mul_ediv_cancel _ hone]

/-- A NaN operand of a comparison: only "not equal" holds, and the predicates of an order raise invalid. -/
theorem fcmp_of_nan (p : Nat) {x y : Val} (h : isNan x = true ∨ isNan y = true) :
    fcmp p x y = (decide (p = 1), if p ≤ 1 then nvOf [x, y] else fNV) := by
  rw [fcmp, if_pos (by simpa using h), beq_eq_decide]

/-- The six predicates on operands that are no NaN read the order. -/
theorem fcmp_of_order {x y : Val} (hx : isNan x = false) (hy : isNan y = false) :
    ∀ e ∈ [(0, decide (cmpV x y = 0)), (1, decide (cmpV x y ≠ 0)), (2, decide (cmpV x y = -1)),
      (3, decide (cmpV x y ≤ 0)), (4, decide (cmpV x y = 1)), (5, decide (0 ≤ cmpV x y))], fcmp e.1 x y = (e.2, 0) := by
  simp [fcmp, hx, hy, bne, beq_eq_decide]

/-- A NaN operand of a special function. -/
theorem specialV_of_nan (op : Nat) {x : Val} (h : isNan x = true) :
    specialV op x = (.nan false, if isSnan x = true then fNV else 0) := by
  obtain ⟨sg, rfl⟩ := (isNan_iff x).1 h
  rfl

/-- The reciprocal is the quotient of 1. -/
theorem specialV_reciprocal {x : Val} (h : isNan x = false) : specialV 0x30 x = divV (.fin false 1 0 false) x := by
  cases x with
  | nan sg => cases h
  | inf n => rfl
  | fin n m e st => rfl

/-- A negative operand other than zero has no root and no logarithm. -/
theorem specialV_of_neg {m : Nat} (e : Int) (hm : m ≠ 0) :
    ∀ op ∈ [0x31, 0x32, 0x34], specialV op (.fin true m e false) = (.nan false, fNV) := by
  simp [specialV, isNeg, hm]

/-- Two infinite operands. -/
theorem arith_inf_inf (rdn a b : Bool) : let x := Val.inf a; let y := Val.inf b
    addV rdn x y = (if a = b then (.inf a, 0) else (.nan false, fNV)) ∧ mulV x y = (.inf (a != b), 0) ∧
      divV x y = (.nan false, fNV) ∧ cmpV x y = (if a = b then 0 else if a = true then -1 else 1) := by
  simp [addV, mulV, divV, cmpV, isZero, isNeg]

/-- An infinite operand beside a finite one. -/
theorem arith_inf_fin (rdn a b : Bool) (m : Nat) (e : Int) : let x := Val.inf a; let y := Val.fin b m e false
    addV rdn x y = (.inf a, 0) ∧ addV rdn y x = (.inf a, 0) ∧
      mulV x y = (if m = 0 then (.nan false, fNV) else (.inf (a != b), 0)) ∧
      mulV y x = (if m = 0 then (.nan false, fNV) else (.inf (a != b), 0)) ∧ divV x y = (.inf (a != b), 0) ∧
      divV y x = (.fin (b != a) 0 0 false, 0) ∧ cmpV x y = (if a = true then -1 else 1) ∧
      cmpV y x = (if a = true then 1 else -1) := by
  simp [addV, mulV, divV, cmpV, isZero, isNeg]

/-- Settles O58: sums, products and comparisons are exact, quotients and roots are cut to more bits than any format has. -/
theorem floatingOperationsAreExactBeforeRounding : Obligations.FloatingOperationsAreExactBeforeRounding := by
  unfold Obligations.FloatingOperationsAreExactBeforeRounding
  intro x y z rdn g nv order
  have hnv : nvOf [x, y] = nv := nvOf_pair x y
  refine ⟨fun h => ⟨hnv ▸ arith_of_nan rdn h, fun p => hnv ▸ fcmp_of_nan p h⟩, ?_, ?_, fun hx hy => fcmp_of_order hx hy,
    ?_, ?_, ?_, ?_, ?_, ?_, ?_⟩
  · rintro a rfl
    refine ⟨?_, ?_⟩
    · rintro b rfl
      exact arith_inf_inf rdn a b
    · rintro b m e rfl
      exact arith_inf_fin rdn a b m e
  · rintro a m e b n f rfl rfl s
    refine ⟨addV_fin rdn a m e b n f, ⟨m * n, e + f, rfl, realOf_mul a m e b n f⟩, ?_, ?_, ?_, cmpV_fin a m e b n f⟩
    · intro hn
      simp [divV, hn]
    · intro hm hn
      simp [divV, hm, hn]
    · intro hm hn
      obtain ⟨k, q, st, hdiv, hspan⟩ := divFin_spans a e b f hm hn
      exact ⟨k, q, st, by simp [divV, hm, hn, hdiv], hspan⟩
  · simp only [fmaV, nvOf_triple]
  · exact fun op _ _ hx => specialV_of_nan op hx
  · exact specialV_reciprocal
  · rintro m e hm rfl
    exact specialV_of_neg e hm
  · rintro m e hm rfl
    obtain ⟨k, q, st, hs, hroot⟩ := sqrtFin_encloses e hm
    obtain ⟨k', q', st', hs', hroot'⟩ := rsqrtFin_encloses e hm
    exact ⟨⟨k, q, st, by simp [specialV, isNeg, hm, hs], by simpa using hroot⟩,
      ⟨k', q', st', by simp [specialV, isNeg, hm, hs'], by simpa using hroot'⟩⟩
  · rintro j e rfl
    simp [specialV, isNeg, log2Fin_two_pow]
  · rintro n m e i hm he hi rfl hx
    simp [specialV, isNeg, hm, exp2Fin_int hm he hi hx]

end Sys2Proof.Numbers
end

section
/-! Rounding: a cut value as floor and fraction of a rational number, the encodings of R45, and `round` of R57. -/

namespace Sys2Proof.Numbers

open Sys2Proof Sys2Proof.Machine Sys2Proof.Claim

/-- What a cut (`cutAt`) says of the number `x` that it cuts: its floor, whether nothing lies beyond it, how the rest
compares with one half, and the first 16 bits of the rest. -/
structure Cuts (x : ℚ) (t : Nat × Nat × Bool × Nat) : Prop where
  floor : ⌊x⌋ = t.1
  exact : t.2.2.1 = true ↔ x = t.1
  half : t.2.1 = if x - t.1 < 1 / 2 then 0 else if x - t.1 = 1 / 2 then 1 else 2
  bits : ⌊(x - t.1) * 65536⌋ = t.2.2.2

/-- A whole number cut at the unit. -/
theorem cuts_natCast (k : Nat) : Cuts k (k, 0, true, 0) where
  floor := by simp
  exact := by simp
  half := by norm_num
  bits := by simp

section Rest

variable {st : Bool} {d : Nat} {g : ℚ} (hlo : (d : ℚ) ≤ g) (hhi : g < d + 1) (hexact : g = d ↔ st = false)

include hlo hhi

/-- A rest `g`, known as the whole number `d` and perhaps a little more, is below one half where `d` is. -/
theorem rest_lt_half_iff (i : Nat) : g / 2 ^ (i + 1) < 1 / 2 ↔ d < 2 ^ i := by
  rw [div_lt_iff₀ (by positivity), pow_succ', ← mul_assoc, one_div_mul_cancel two_ne_zero, one_mul]
  constructor
  · exact fun h => by exact_mod_cast hlo.trans_lt h
  · exact fun h => hhi.trans_le (by exact_mod_cast h)

include hexact

/-- It is one half where `d` is and nothing comes on top of it. -/
theorem rest_eq_half_iff (i : Nat) : g / 2 ^ (i + 1) = 1 / 2 ↔ d = 2 ^ i ∧ st = false := by
  rw [div_eq_iff (by positivity), pow_succ', ← mul_assoc, one_div_mul_cancel two_ne_zero, one_mul]
  constructor
  · intro h
    have hle : d ≤ 2 ^ i := by exact_mod_cast hlo.trans h.le
    have hge : 2 ^ i < d + 1 := by exact_mod_cast h.symm.le.trans_lt hhi
    have hd : d = 2 ^ i := by omega
    exact ⟨hd, hexact.1 (by rw [h, hd, Nat.cast_pow, Nat.cast_ofNat])⟩
  · rintro ⟨hd, hst⟩
    rw [hexact.2 hst, hd, Nat.cast_pow, Nat.cast_ofNat]

/-- Its first 16 bits are those of `d`: what comes on top lies below them. -/
theorem floor_rest_bits {n : Nat} (hn : st = true → 16 ≤ n) : ⌊g / 2 ^ n * 65536⌋ = (d * 2 ^ 16 / 2 ^ n : Nat) := by
  set b := d * 2 ^ 16 / 2 ^ n
  have hle : b * 2 ^ n ≤ d * 65536 := Nat.div_mul_le_self _ _
  have hlt : d * 65536 < (b + 1) * 2 ^ n := (Nat.div_lt_iff_lt_mul (by positivity)).1 (Nat.lt_succ_self b)
  have hg : g * 65536 < (b + 1) * 2 ^ n := by
    cases st with
    | false => rw [hexact.2 rfl]; exact_mod_cast hlt
    | true =>
      obtain ⟨i, rfl⟩ := Nat.exists_eq_add_of_le' (hn rfl)
      have hfit : (d + 1) * 65536 ≤ (b + 1) * 2 ^ (i + 16) := by
        rw [pow_add, ← mul_assoc] at hlt ⊢
        exact Nat.mul_le_mul_right _ (lt_of_mul_lt_mul_right hlt (by norm_num))
      calc g * 65536 < (d + 1) * 65536 := mul_lt_mul_of_pos_right hhi (by norm_num)
        _ ≤ (b + 1) * 2 ^ (i + 16) := by exact_mod_cast hfit
  rw [div_mul_eq_mul_div, Int.floor_eq_iff, Int.cast_natCast, le_div_iff₀ (by positivity), div_lt_iff₀ (by positivity)]
  exact ⟨le_trans (by exact_mod_cast hle) (mul_le_mul_of_nonneg_right hlo (by norm_num)), hg⟩

end Rest

/-- What the sticky bit says of a numerator. -/
theorem sticky_bounds {a : Nat} {st : Bool} {c : ℚ} (hc : if st = true then (a : ℚ) < c ∧ c < a + 1 else c = a) :
    (a : ℚ) ≤ c ∧ c < a + 1 ∧ (c = a ↔ st = false) := by
  cases st with
  | false =>
    have hc : c = a := by simpa using hc
    exact ⟨hc.ge, hc ▸ lt_add_one _, by simp [hc]⟩
  | true =>
    obtain ⟨hgt, hlt⟩ : (a : ℚ) < c ∧ c < a + 1 := by simpa using hc
    exact ⟨hgt.le, hlt, by simp [hgt.ne']⟩

/-- The cut of a fraction with a power of 2 below it; `c` is its numerator `a`, or a little above it where the value is
sticky, which needs 16 bits or more below the cut. -/
theorem cuts_fraction {a n : Nat} {st : Bool} {c : ℚ} (hn : n ≠ 0) (hst : st = true → 16 ≤ n)
    (hc : if st = true then (a : ℚ) < c ∧ c < a + 1 else c = a) :
    Cuts (c / 2 ^ n) (a / 2 ^ n, if a % 2 ^ n < 2 ^ (n - 1) then 0 else if a % 2 ^ n = 2 ^ (n - 1) && !st then 1 else 2,
      a % 2 ^ n == 0 && !st, a % 2 ^ n * 2 ^ 16 / 2 ^ n) := by
  obtain ⟨i, rfl⟩ : ∃ i, n = i + 1 := ⟨n - 1, by omega⟩
  obtain ⟨hac, hca, hceq⟩ := sticky_bounds hc
  have hN : (0 : ℚ) < 2 ^ (i + 1) := by positivity
  set k := a / 2 ^ (i + 1)
  set d := a % 2 ^ (i + 1)
  have hdN : d < 2 ^ (i + 1) := Nat.mod_lt a (by positivity)
  have ha : (a : ℚ) = 2 ^ (i + 1) * k + d := by exact_mod_cast (Nat.div_add_mod a (2 ^ (i + 1))).symm
  obtain ⟨g, rfl⟩ : ∃ g, c = 2 ^ (i + 1) * k + g := ⟨c - 2 ^ (i + 1) * k, by ring⟩
  have hlo : (d : ℚ) ≤ g := by linarith
  have hhi : g < d + 1 := by linarith
  have hexact : g = d ↔ st = false := by rw [← hceq, ha, add_right_inj]
  have hsplit : (2 ^ (i + 1) * k + g) / 2 ^ (i + 1) = k + g / 2 ^ (i + 1) := by
    rw [add_div, mul_div_cancel_left₀ _ hN.ne']
  have hrest : k + g / 2 ^ (i + 1) - k = g / 2 ^ (i + 1) := add_sub_cancel_left _ _
  rw [hsplit]
  constructor
  case floor =>
    have hg0 : 0 ≤ g := (Nat.cast_nonneg d).trans hlo
    have hgN : g < 2 ^ (i + 1) := hhi.trans_le (by exact_mod_cast hdN)
    rw [Int.floor_eq_iff, Int.cast_natCast]
    exact ⟨le_add_of_nonneg_right (div_nonneg hg0 hN.le), by simpa using (div_lt_one hN).2 hgN⟩
  case exact =>
    rw [add_eq_left, div_eq_zero_iff, or_iff_left hN.ne', Bool.and_eq_true, beq_iff_eq, Bool.not_eq_true']
    constructor
    · rintro ⟨hd0, hst0⟩
      rw [hexact.2 hst0, hd0, Nat.cast_zero]
    · intro hg0
      have hd0 : d = 0 := by exact_mod_cast le_antisymm (hlo.trans hg0.le) (Nat.cast_nonneg d)
      exact ⟨hd0, hexact.1 (by rw [hg0, hd0, Nat.cast_zero])⟩
  case half =>
    simp only [hrest, rest_lt_half_iff hlo hhi, rest_eq_half_iff hlo hhi hexact, Bool.and_eq_true, decide_eq_true_eq,
      Bool.not_eq_true']
    all_goals rfl
  case bits =>
    rw [hrest]
    exact floor_rest_bits hlo hhi hexact hst

/-- The cut of a value that lies within a span. -/
theorem cuts_cutAt {m : Nat} {e q : Int} {st : Bool} {a : ℚ} (ha : Spans m e st a) (hst : st = true → e + 16 ≤ q) :
    Cuts (a / 2 ^ q) (cutAt m e q st) := by
  rw [cutAt]
  split
  next hqe =>
    obtain rfl : st = false := by
      cases st
      · rfl
      · have := hst rfl; omega
    have hx : a / 2 ^ q = ((m * 2 ^ (e - q).toNat : Nat) : ℚ) := by
      have : a = m * 2 ^ e := by simpa [Spans] using ha
      rw [div_eq_iff (zpow_two_ne q), this, Nat.cast_mul, Nat.cast_pow, Nat.cast_ofNat, mul_assoc,
        pow_toNat_sub_mul_zpow hqe]
    rw [hx]
    exact cuts_natCast _
  next hqe =>
    have hx : a / 2 ^ q = a / 2 ^ e / 2 ^ (q - e).toNat := by
      rw [div_div, mul_comm, pow_toNat_sub_mul_zpow (by omega)]
    rw [hx]
    refine cuts_fraction (by omega) (fun h => by have := hst h; omega) ?_
    cases st <;>
      simpa [Spans, lt_div_iff₀ (zpow_two_pos e), div_lt_iff₀ (zpow_two_pos e), div_eq_iff (zpow_two_ne e)] using ha

/-- The whole number that a cut is rounded to. -/
def roundedCut (mode : Nat) (neg : Bool) (r : Nat) (t : Nat × Nat × Bool × Nat) : Nat :=
  if t.2.2.1 = true then t.1 else if roundUp mode neg t.1 t.2.1 t.2.2.2 r = true then t.1 + 1 else t.1

theorem Cuts.above_half_iff {x : ℚ} {t : Nat × Nat × Bool × Nat} (h : Cuts x t) : t.2.1 = 2 ↔ 1 / 2 < x - t.1 := by
  rw [h.half]
  grind

theorem Cuts.at_half_iff {x : ℚ} {t : Nat × Nat × Bool × Nat} (h : Cuts x t) : t.2.1 = 1 ↔ x - t.1 = 1 / 2 := by
  rw [h.half]
  split_ifs with hlt heq
  · exact iff_of_false (by decide) hlt.ne
  · exact iff_of_true rfl heq
  · exact iff_of_false (by decide) heq

theorem Cuts.half_or_above_iff {x : ℚ} {t : Nat × Nat × Bool × Nat} (h : Cuts x t) : 1 ≤ t.2.1 ↔ 1 / 2 ≤ x - t.1 := by
  rw [h.half]
  grind

/-- The model's choice under each mode of R53 and R55. -/
theorem roundUp_rne (neg : Bool) (k c d r : Nat) : roundUp 0 neg k c d r = (c == 2 || (c == 1 && k % 2 == 1)) := rfl
theorem roundUp_rtz (neg : Bool) (k c d r : Nat) : roundUp 1 neg k c d r = false := rfl
theorem roundUp_rdn (neg : Bool) (k c d r : Nat) : roundUp 2 neg k c d r = neg := rfl
theorem roundUp_rup (neg : Bool) (k c d r : Nat) : roundUp 3 neg k c d r = !neg := rfl
theorem roundUp_rna (neg : Bool) (k c d r : Nat) : roundUp 4 neg k c d r = decide (1 ≤ c) := rfl
theorem roundUp_sr (mode : Nat) (neg : Bool) (k c d r : Nat) :
    roundUp (mode + 5) neg k c d r = decide (65536 ≤ d + r) := rfl

/-- The rule's choice under the three modes that look at the fraction. -/
theorem takesUpper_rne (neg : Bool) (j : Int) (f : ℚ) (r : Nat) :
    takesUpper 0 neg j f r = decide (1 / 2 < f ∨ (f = 1 / 2 ∧ j % 2 = 1)) := rfl
theorem takesUpper_rna (neg : Bool) (j : Int) (f : ℚ) (r : Nat) : takesUpper 4 neg j f r = decide (1 / 2 ≤ f) := rfl
theorem takesUpper_sr (mode : Nat) (neg : Bool) (j : Int) (f : ℚ) (r : Nat) :
    takesUpper (mode + 5) neg j f r = decide (65536 ≤ ⌊f * 65536⌋ + r) := rfl

/-- The model chooses the neighbour that R53 and R55 name. -/
theorem takesUpper_of_cuts {x : ℚ} {t : Nat × Nat × Bool × Nat} (h : Cuts x t) (mode : Nat) (neg : Bool) (r : Nat) :
    takesUpper mode neg t.1 (x - t.1) r = roundUp mode neg t.1 t.2.1 t.2.2.2 r := by
  match mode with
  | 0 =>
    have hparity : ((t.1 : Int) % 2 = 1) ↔ t.1 % 2 = 1 := by omega
    rw [takesUpper_rne, roundUp_rne, Bool.eq_iff_iff, decide_eq_true_iff, Bool.or_eq_true, Bool.and_eq_true, beq_iff_eq,
      beq_iff_eq, beq_iff_eq, h.above_half_iff, h.at_half_iff, hparity]
  | 1 => rfl
  | 2 => rfl
  | 3 => rfl
  | 4 =>
    rw [takesUpper_rna, roundUp_rna, Bool.eq_iff_iff, decide_eq_true_iff, decide_eq_true_iff, h.half_or_above_iff]
  | mode + 5 =>
    rw [takesUpper_sr, roundUp_sr, h.bits, Bool.eq_iff_iff, decide_eq_true_iff, decide_eq_true_iff]
    omega

/-- The helper grid of R54 is the rounded cut in units of the grid. -/
theorem onGrid_of_cuts {a q : ℚ} {t : Nat × Nat × Bool × Nat} (h : Cuts (a / q) t) (mode : Nat) (neg : Bool) (r : Nat) :
    onGrid mode neg a q r = roundedCut mode neg r t * q := by
  have hexact : a / q - t.1 ≠ 0 ↔ ¬ t.2.2.1 = true := by rw [h.exact, sub_ne_zero]
  simp only [onGrid, roundedCut, h.floor, Int.cast_natCast, takesUpper_of_cuts h, hexact]
  by_cases he : t.2.2.1 = true <;> by_cases hu : roundUp mode neg t.1 t.2.1 t.2.2.2 r = true <;> simp [he, hu]

/-- Rounding to whole numbers keeps a lower bound that is one. -/
theorem le_roundedCut {x : ℚ} {t : Nat × Nat × Bool × Nat} (h : Cuts x t) (mode : Nat) (neg : Bool) (r : Nat) {k : Nat}
    (hk : (k : ℚ) ≤ x) : k ≤ roundedCut mode neg r t := by
  have hle : (k : Int) ≤ t.1 := h.floor ▸ Int.le_floor.2 (by exact_mod_cast hk)
  unfold roundedCut
  split_ifs <;> omega

/-- Rounding to whole numbers keeps an upper bound that is one. -/
theorem roundedCut_le {x : ℚ} {t : Nat × Nat × Bool × Nat} (h : Cuts x t) (mode : Nat) (neg : Bool) (r : Nat) {k : Nat}
    (hk : x < k) : roundedCut mode neg r t ≤ k := by
  have hlt : (t.1 : Int) < k := h.floor ▸ Int.floor_lt.2 (by exact_mod_cast hk)
  unfold roundedCut
  split_ifs <;> omega

/-- A rounding changes a value exactly where the cut leaves something. -/
theorem roundedCut_eq_self_iff {x : ℚ} {t : Nat × Nat × Bool × Nat} (h : Cuts x t) (mode : Nat) (neg : Bool) (r : Nat) :
    (roundedCut mode neg r t : ℚ) = x ↔ t.2.2.1 = true := by
  constructor
  · intro hx
    have hfloor : roundedCut mode neg r t = t.1 := by
      have := h.floor
      rw [← hx, Int.floor_natCast] at this
      exact_mod_cast this
    exact h.exact.2 (by rw [← hx, hfloor])
  · intro he
    rw [roundedCut, if_pos he, ← h.exact.1 he]

/-- Where a rounded value lies beyond the largest finite one, what R57 delivers for it. -/
def beyondMax (F : FFmt) (mode : Nat) (sat neg : Bool) : Nat :=
  if sat || !F.hasNan then F.encMax neg
  else if mode = 1 || (mode = 2 && !neg) || (mode = 3 && neg) then F.encMax neg
  else if F.hasInf then F.encInf neg else F.canon

/-- Exponent of the grid's unit for a value with its leading bit at place `lg` (R54). -/
def gridExp (F : FFmt) (lg : Int) : Int := max lg F.emin - F.mb

/-- The largest finite value. -/
def topValue (F : FFmt) : ℚ := F.topMant * 2 ^ F.topExp

/-- Shifted whole numbers compare as the numbers they stand for. -/
theorem shifted_lt_iff (a b : Nat) (p q : Int) :
    a * 2 ^ (p - q).toNat < b * 2 ^ (q - p).toNat ↔ (a : ℚ) * 2 ^ p < b * 2 ^ q := by
  rcases le_total p q with h | h
  · rw [← pow_toNat_sub_mul_zpow h, ← mul_assoc, mul_lt_mul_iff_left₀ (zpow_two_pos p), Int.toNat_of_nonpos (by omega),
      pow_zero, mul_one]
    exact_mod_cast Iff.rfl
  · rw [← pow_toNat_sub_mul_zpow h, ← mul_assoc, mul_lt_mul_iff_left₀ (zpow_two_pos q),
      Int.toNat_of_nonpos (z := q - p) (by omega), pow_zero, mul_one]
    exact_mod_cast Iff.rfl

/-- `round` of R57 for a finite value that is not zero, in terms of the rounded cuts. -/
theorem roundTo_fin (F : FFmt) (mode : Nat) (sat : Bool) (r : Nat) (neg : Bool) {m : Nat} (e : Int) (st : Bool)
    (hm : m ≠ 0) : let lg : Int := Nat.log2 m + e; let q := gridExp F lg
    let y := roundedCut mode neg r (cutAt m e q st); let u := roundedCut mode neg r (cutAt m e (lg - F.mb) st)
    roundTo F mode sat r (.fin neg m e st) =
      if topValue F < y * 2 ^ q then (beyondMax F mode sat neg, fOF ||| fNX)
      else (if y = 0 then F.encZero neg else encodeF F neg y q,
        if (cutAt m e q st).2.2.1 = true then 0
        else if (u : ℚ) * 2 ^ (lg - F.mb) < 2 ^ F.emin then fUF ||| fNX else fNX) := by
  intro lg q y u
  have hbig : topValue F < y * 2 ^ q ↔ F.topMant * 2 ^ (F.topExp - q).toNat < y * 2 ^ (q - F.topExp).toNat :=
    (shifted_lt_iff ..).symm
  have htiny : (u : ℚ) * 2 ^ (lg - F.mb) < 2 ^ F.emin ↔
      u * 2 ^ (lg - F.mb - (F.emin - F.mb)).toNat < 2 ^ F.mb * 2 ^ (F.emin - F.mb - (lg - F.mb)).toNat := by
    rw [shifted_lt_iff, Nat.cast_pow, Nat.cast_ofNat, ← zpow_natCast, ← zpow_add₀ two_ne_zero, add_sub_cancel]
  have hbeyond : (beyondMax F mode sat neg, fOF ||| fNX) =
      if (sat || !F.hasNan) = true then (F.encMax neg, fOF ||| fNX)
      else if (decide (mode = 1) || decide (mode = 2) && !neg || decide (mode = 3) && neg) = true then
        (F.encMax neg, fOF ||| fNX)
      else if F.hasInf = true then (F.encInf neg, fOF ||| fNX) else (F.canon, fOF ||| fNX) := by
    unfold beyondMax
    split_ifs <;> rfl
  simp only [hbig, htiny, hbeyond, roundTo, hm, decide_false, Bool.false_and, Bool.false_eq_true, if_false,
    decide_eq_true_eq]
  all_goals rfl

/-- What the formats of R45 have in common: fields wide enough, and E4M3's widths where its special encoding is used. -/
structure Fmt (F : FFmt) : Prop where
  expBits : 2 ≤ F.eb
  mantBits : F.mb ≤ 23
  e4m3 : F.e4m3 = true → F.hasInf = false ∧ F.eb = 4 ∧ F.mb = 3

theorem fmt_ffmt (k : Nat) : Fmt (ffmt k) := by
  unfold ffmt
  split <;> constructor <;> decide

/-- An encoding of its sign, exponent field and mantissa field (R45). -/
def pack (F : FFmt) (neg : Bool) (x m : Nat) : Nat := neg.toNat * 2 ^ (F.eb + F.mb) + x * 2 ^ F.mb + m

section Pack

variable {F : FFmt} {neg : Bool} {x m : Nat}

theorem pack_eq : pack F neg x m = 2 ^ F.mb * (2 ^ F.eb * neg.toNat + x) + m := by
  unfold pack
  ring

theorem pack_mod (hm : m < 2 ^ F.mb) : pack F neg x m % 2 ^ F.mb = m := by
  rw [pack_eq, Nat.mul_add_mod, Nat.mod_eq_of_lt hm]

theorem pack_div (hm : m < 2 ^ F.mb) : pack F neg x m / 2 ^ F.mb = 2 ^ F.eb * neg.toNat + x := by
  rw [pack_eq, Nat.mul_add_div (by positivity), Nat.div_eq_of_lt hm, add_zero]

theorem pack_exp (hm : m < 2 ^ F.mb) (hx : x < 2 ^ F.eb) : pack F neg x m / 2 ^ F.mb % 2 ^ F.eb = x := by
  rw [pack_div hm, Nat.mul_add_mod, Nat.mod_eq_of_lt hx]

theorem pack_sign (hm : m < 2 ^ F.mb) (hx : x < 2 ^ F.eb) :
    (pack F neg x m / 2 ^ (F.eb + F.mb) % 2 == 1) = neg := by
  rw [add_comm, pow_add, ← Nat.div_div_eq_div_mul, pack_div hm, Nat.mul_add_div (by positivity),
    Nat.div_eq_of_lt hx]
  cases neg <;> rfl

theorem pack_lt_width (hm : m < 2 ^ F.mb) (hx : x < 2 ^ F.eb) : pack F neg x m < 2 ^ F.width := by
  have hneg : neg.toNat < 2 := Bool.toNat_lt neg
  rw [FFmt.width, pow_add, ← Nat.div_lt_iff_lt_mul (by positivity), pack_div hm, pow_add, pow_one, mul_comm 2]
  calc 2 ^ F.eb * neg.toNat + x < 2 ^ F.eb * (neg.toNat + 1) := by rw [mul_add, mul_one]; omega
    _ ≤ 2 ^ F.eb * 2 := Nat.mul_le_mul_left _ hneg

/-- Every encoding consists of its fields. -/
theorem exists_pack {v : Nat} (hv : v < 2 ^ F.width) :
    ∃ neg x m, v = pack F neg x m ∧ x < 2 ^ F.eb ∧ m < 2 ^ F.mb := by
  refine ⟨v / 2 ^ F.mb / 2 ^ F.eb == 1, v / 2 ^ F.mb % 2 ^ F.eb, v % 2 ^ F.mb, ?_, Nat.mod_lt _ (by positivity),
    Nat.mod_lt _ (by positivity)⟩
  have hsign : v / 2 ^ F.mb / 2 ^ F.eb < 2 := by
    rw [Nat.div_div_eq_div_mul, Nat.div_lt_iff_lt_mul (by positivity), ← pow_add, ← pow_succ']
    rwa [FFmt.width, add_assoc, add_comm, add_comm F.eb] at hv
  have hbit : (v / 2 ^ F.mb / 2 ^ F.eb == 1).toNat = v / 2 ^ F.mb / 2 ^ F.eb := by
    interval_cases v / 2 ^ F.mb / 2 ^ F.eb <;> rfl
  rw [pack_eq, hbit, Nat.div_add_mod, Nat.div_add_mod]

/-- The fields of a finite value: its exponent field and mantissa do not exceed those of the largest one. -/
def FiniteFields (F : FFmt) (x m : Nat) : Prop :=
  m < 2 ^ F.mb ∧ x ≤ F.topField ∧ (x = F.topField → m + 2 ^ F.mb ≤ F.topMant)

theorem topField_lt (hF : Fmt F) : F.topField < 2 ^ F.eb := by
  have : 2 ^ 2 ≤ 2 ^ F.eb := Nat.pow_le_pow_right two_pos hF.expBits
  unfold FFmt.topField
  split_ifs <;> omega

/-- The value of an encoding whose fields are those of a finite value. -/
theorem decodeF_pack (hF : Fmt F) (h : FiniteFields F x m) : decodeF F (pack F neg x m) =
    if x = 0 then .fin neg m (F.emin - F.mb) false else .fin neg (m + 2 ^ F.mb) (x - F.bias - F.mb) false := by
  obtain ⟨hm, hx, htop⟩ := h
  have hx' : x < 2 ^ F.eb := hx.trans_lt (topField_lt hF)
  have hnan : (F.e4m3 && x == 15 && m == 7) = false := by
    by_contra hcon
    obtain ⟨he4m3, rfl, rfl⟩ : F.e4m3 = true ∧ x = 15 ∧ m = 7 := by simpa using hcon
    obtain ⟨hinf, heb, hmb⟩ := hF.e4m3 he4m3
    have htop : 7 + 2 ^ F.mb ≤ F.topMant := htop (by simp [FFmt.topField, hinf, heb])
    simp [FFmt.topMant, he4m3, hmb] at htop
  have hinf : (F.hasInf && x == 2 ^ F.eb - 1) = false := by
    by_contra hcon
    obtain ⟨hinf, hmax⟩ : F.hasInf = true ∧ x = 2 ^ F.eb - 1 := by simpa using hcon
    have : 2 ^ 2 ≤ 2 ^ F.eb := Nat.pow_le_pow_right two_pos hF.expBits
    simp only [FFmt.topField, hinf, if_true] at hx
    omega
  simp only [decodeF, pack_mod hm, pack_exp hm hx', pack_sign hm hx', hnan, hinf, Bool.false_eq_true, if_false,
    beq_iff_eq]

/-- An encoding that is no NaN is an infinity or has the fields of a finite value. -/
theorem fields_of_not_nan (hm : m < 2 ^ F.mb) (hx : x < 2 ^ F.eb) (hF : Fmt F)
    (h : isNan (decodeF F (pack F neg x m)) = false) :
    FiniteFields F x m ∨ F.hasInf = true ∧ x = 2 ^ F.eb - 1 ∧ m = 0 := by
  simp only [decodeF, pack_mod hm, pack_exp hm hx, pack_sign hm hx] at h
  split at h
  next => cases h
  next hnan =>
    have hnan : F.e4m3 = true → x = 15 → m ≠ 7 := by simpa using hnan
    split at h
    next hinf =>
      obtain ⟨hinf, hx⟩ : F.hasInf = true ∧ x = 2 ^ F.eb - 1 := by simpa using hinf
      split at h
      next hm0 => exact .inr ⟨hinf, hx, by simpa using hm0⟩
      next => cases h
    next hinf =>
      have hinf : F.hasInf = true → x ≠ 2 ^ F.eb - 1 := by simpa using hinf
      refine .inl ⟨hm, ?_, fun htop => ?_⟩
      · unfold FFmt.topField
        split_ifs with hi
        · have := hinf hi; omega
        · omega
      · unfold FFmt.topMant
        split_ifs with he
        · obtain ⟨hi, heb, hmb⟩ := hF.e4m3 he
          have := hnan he (by simpa [FFmt.topField, hi, heb] using htop)
          rw [hmb] at hm ⊢
          omega
        · rw [pow_succ]; omega

theorem decodeF_inf (hF : Fmt F) (h : F.hasInf = true) : decodeF F (pack F neg (2 ^ F.eb - 1) 0) = .inf neg := by
  have hx : 2 ^ F.eb - 1 < 2 ^ F.eb := Nat.sub_lt (by positivity) one_pos
  have he : F.e4m3 = false := by
    by_contra hcon
    cases (hF.e4m3 (by simpa using hcon)).1.symm.trans h
  simp only [decodeF, pack_mod (Nat.two_pow_pos _), pack_exp (Nat.two_pow_pos _) hx, pack_sign (Nat.two_pow_pos _) hx]
  simp [he, h]

end Pack

theorem encZero_eq (F : FFmt) (neg : Bool) : F.encZero neg = pack F neg 0 0 := by
  simp [FFmt.encZero, pack]

theorem encInf_eq (F : FFmt) (neg : Bool) : F.encInf neg = pack F neg (2 ^ F.eb - 1) 0 := rfl

/-- A subnormal number is encoded by its multiple of the smallest one. -/
theorem encodeF_subnormal (F : FFmt) (neg : Bool) {y : Nat} (h0 : y ≠ 0) (hy : y < 2 ^ F.mb) :
    encodeF F neg y (F.emin - F.mb) = pack F neg 0 y := by
  have hlg : (Nat.log2 y : Int) + (F.emin - F.mb) < F.emin := by
    have := (Nat.log2_lt h0).2 hy
    omega
  simp [encodeF, h0, hlg, encZero_eq, pack]

/-- A normal number is encoded by its exponent and its mantissa without the leading bit. -/
theorem encodeF_normal (F : FFmt) (neg : Bool) {x m : Nat} (hx : x ≠ 0) (hm : m < 2 ^ F.mb) :
    encodeF F neg (m + 2 ^ F.mb) (x - F.bias - F.mb) = pack F neg x m := by
  have h0 : m + 2 ^ F.mb ≠ 0 := by positivity
  have hlog : Nat.log2 (m + 2 ^ F.mb) = F.mb := (Nat.log2_eq_iff h0).2 ⟨by omega, by rw [pow_succ]; omega⟩
  have hfield : (F.mb : Int) + (x - F.bias - F.mb) + F.bias = x := by ring
  have hlg : ¬ (F.mb : Int) + (x - F.bias - F.mb) < F.emin := by unfold FFmt.emin; omega
  simp only [encodeF, h0, hlog, hlg, if_false, hfield, Int.toNat_natCast]
  simp [encZero_eq, pack]

/-- A mantissa that rounding has carried to the next power of 2 is encoded with the next exponent. -/
theorem encodeF_carry (F : FFmt) (neg : Bool) {q : Int} (hq : F.emin - F.mb ≤ q) :
    encodeF F neg (2 ^ (F.mb + 1)) q = encodeF F neg (2 ^ F.mb) (q + 1) := by
  have hlg : ¬ (F.mb : Int) + (q + 1) < F.emin := by omega
  have hsum : ((F.mb + 1 : Nat) : Int) + q = F.mb + (q + 1) := by push_cast; ring
  simp only [encodeF, Nat.log2_two_pow, hlg, if_false, hsum]
  simp [pow_succ]

section Range

variable {F : FFmt} {x m : Nat}

theorem two_pow_le_topMant (hF : Fmt F) : 2 ^ F.mb ≤ F.topMant := by
  have : 0 < 2 ^ F.mb := by positivity
  unfold FFmt.topMant
  split_ifs with he
  · rw [(hF.e4m3 he).2.2]; norm_num
  · rw [pow_succ]; omega

theorem topMant_lt (hF : Fmt F) : F.topMant < 2 ^ (F.mb + 1) := by
  unfold FFmt.topMant
  split_ifs with he
  · rw [(hF.e4m3 he).2.2]; norm_num
  · exact Nat.sub_lt (by positivity) one_pos

theorem topField_pos (hF : Fmt F) : 1 ≤ F.topField := by
  have : 2 ^ 2 ≤ 2 ^ F.eb := Nat.pow_le_pow_right two_pos hF.expBits
  unfold FFmt.topField
  split_ifs <;> omega

/-- Every finite value of a format lies below the power of 2 above the largest one. -/
theorem topValue_lt (hF : Fmt F) : topValue F < 2 ^ ((F.mb : Int) + 1 + F.topExp) := by
  rw [zpow_add₀ two_ne_zero, topValue]
  exact mul_lt_mul_of_pos_right (by exact_mod_cast topMant_lt hF) (zpow_two_pos _)

theorem two_zpow_le_topValue (hF : Fmt F) : 2 ^ ((F.mb : Int) + F.topExp) ≤ topValue F := by
  rw [zpow_add₀ two_ne_zero, topValue]
  exact mul_le_mul_of_nonneg_right (by exact_mod_cast two_pow_le_topMant hF) (zpow_two_pos _).le

/-- Two powers of 2 and whole multiples of them. -/
theorem mul_zpow_le_zpow {y a : Nat} (e : Int) (hy : y ≤ 2 ^ a) : (y : ℚ) * 2 ^ e ≤ 2 ^ ((a : Int) + e) := by
  rw [zpow_add₀ two_ne_zero]
  exact mul_le_mul_of_nonneg_right (by exact_mod_cast hy) (zpow_two_pos _).le

theorem zpow_le_mul_zpow {y a : Nat} (e : Int) (hy : 2 ^ a ≤ y) : 2 ^ ((a : Int) + e) ≤ (y : ℚ) * 2 ^ e := by
  rw [zpow_add₀ two_ne_zero]
  exact mul_le_mul_of_nonneg_right (by exact_mod_cast hy) (zpow_two_pos _).le

/-- A normal number has the fields of a finite value exactly where it does not exceed the largest one. -/
theorem finiteFields_iff_le_topValue (hF : Fmt F) (hm : m < 2 ^ F.mb) :
    FiniteFields F x m ↔ ((m + 2 ^ F.mb : Nat) : ℚ) * 2 ^ ((x : Int) - F.bias - F.mb) ≤ topValue F := by
  have hpow : 2 ^ (F.mb + 1) = 2 ^ F.mb + 2 ^ F.mb := by rw [pow_succ, mul_two]
  rcases lt_trichotomy x F.topField with hx | rfl | hx
  · refine iff_of_true ⟨hm, hx.le, fun h => absurd h hx.ne⟩ ?_
    refine ((mul_zpow_le_zpow (a := F.mb + 1) _ (by omega)).trans ?_).trans (two_zpow_le_topValue hF)
    exact zpow_le_zpow_right₀ one_le_two (by unfold FFmt.topExp; push_cast; omega)
  · have hexp : (F.topField : Int) - F.bias - F.mb = F.topExp := rfl
    rw [hexp, topValue, mul_le_mul_iff_left₀ (zpow_two_pos _), Nat.cast_le]
    exact ⟨fun h => h.2.2 rfl, fun h => ⟨hm, le_rfl, fun _ => h⟩⟩
  · refine iff_of_false (fun h => absurd h.2.1 (by omega)) (not_le.2 ?_)
    refine (topValue_lt hF).trans_le (le_trans ?_ (zpow_le_mul_zpow _ (Nat.le_add_left _ _)))
    exact zpow_le_zpow_right₀ one_le_two (by unfold FFmt.topExp; omega)

/-- Subnormal numbers are finite. -/
theorem finiteFields_zero (hF : Fmt F) (hm : m < 2 ^ F.mb) : FiniteFields F 0 m :=
  ⟨hm, Nat.zero_le _, fun h => absurd (topField_pos hF) (by omega)⟩

theorem subnormal_le_topValue (hF : Fmt F) (hm : m < 2 ^ F.mb) : (m : ℚ) * 2 ^ (F.emin - F.mb) ≤ topValue F := by
  refine ((mul_zpow_le_zpow _ hm.le).trans ?_).trans (two_zpow_le_topValue hF)
  have := topField_pos hF
  exact zpow_le_zpow_right₀ one_le_two (by unfold FFmt.topExp FFmt.emin; omega)

/-- A mantissa with its leading bit, in range, is encoded as a finite value that equals it. -/
theorem decodeF_encodeF_normal (hF : Fmt F) (neg : Bool) {q : Int} (hm : m < 2 ^ F.mb) (hq : F.emin - F.mb ≤ q)
    (htop : ((m + 2 ^ F.mb : Nat) : ℚ) * 2 ^ q ≤ topValue F) :
    decodeF F (encodeF F neg (m + 2 ^ F.mb) q) = .fin neg (m + 2 ^ F.mb) q false ∧
      encodeF F neg (m + 2 ^ F.mb) q < 2 ^ F.width := by
  obtain ⟨x, hx, rfl⟩ : ∃ x : Nat, x ≠ 0 ∧ q = x - F.bias - F.mb :=
    ⟨(q + F.mb + F.bias).toNat, by unfold FFmt.emin at hq; omega, by unfold FFmt.emin at hq; omega⟩
  have hfields := (finiteFields_iff_le_topValue hF hm).2 htop
  rw [encodeF_normal F neg hx hm, decodeF_pack hF hfields, if_neg hx]
  exact ⟨rfl, pack_lt_width hm (hfields.2.1.trans_lt (topField_lt hF))⟩

/-- A multiple of the grid's unit that does not exceed the largest value is encoded as a finite value that equals it. -/
theorem decodeF_encodeF (hF : Fmt F) (neg : Bool) {y : Nat} {q : Int} (h0 : y ≠ 0) (hq : F.emin - F.mb ≤ q)
    (hlow : y < 2 ^ F.mb → q = F.emin - F.mb) (hhigh : y ≤ 2 ^ (F.mb + 1)) (htop : (y : ℚ) * 2 ^ q ≤ topValue F) :
    (∃ j p, decodeF F (encodeF F neg y q) = .fin neg j p false ∧ (j : ℚ) * 2 ^ p = y * 2 ^ q) ∧
      encodeF F neg y q < 2 ^ F.width := by
  have hpow : 2 ^ (F.mb + 1) = 2 ^ F.mb + 2 ^ F.mb := by rw [pow_succ, mul_two]
  rcases lt_or_ge y (2 ^ F.mb) with hsub | hnormal
  · obtain rfl := hlow hsub
    have hfields := finiteFields_zero hF hsub
    rw [encodeF_subnormal F neg h0 hsub, decodeF_pack hF hfields, if_pos rfl]
    exact ⟨⟨_, _, rfl, rfl⟩, pack_lt_width hsub (by positivity)⟩
  rcases hhigh.lt_or_eq with hlt | rfl
  · obtain ⟨m, rfl⟩ := Nat.exists_eq_add_of_le' hnormal
    obtain ⟨hdec, hwidth⟩ := decodeF_encodeF_normal hF neg (by omega) hq htop
    exact ⟨⟨_, _, hdec, rfl⟩, hwidth⟩
  · have hcarry : ((2 ^ F.mb : Nat) : ℚ) * 2 ^ (q + 1) = (2 ^ (F.mb + 1) : Nat) * 2 ^ q := by
      rw [zpow_add_one₀ two_ne_zero]
      push_cast
      ring
    obtain ⟨hdec, hwidth⟩ := decodeF_encodeF_normal (m := 0) hF neg (by positivity) (by omega : F.emin - F.mb ≤ q + 1)
      (by rw [zero_add, hcarry]; exact htop)
    rw [zero_add] at hdec hwidth
    rw [encodeF_carry F neg hq]
    exact ⟨⟨_, _, hdec, hcarry⟩, hwidth⟩

end Range

/-- A value on the grid that is in range rounds to itself. -/
theorem roundTo_on_grid (F : FFmt) (mode : Nat) (sat : Bool) (r : Nat) (neg : Bool) {m : Nat} {e : Int} (hm : m ≠ 0)
    (hgrid : gridExp F (Nat.log2 m + e) = e) (htop : (m : ℚ) * 2 ^ e ≤ topValue F) :
    roundTo F mode sat r (.fin neg m e false) = (encodeF F neg m e, 0) := by
  have hcut : cutAt m e e false = (m, 0, true, 0) := by simp [cutAt]
  rw [roundTo_fin F mode sat r neg e false hm]
  simp only [hgrid, hcut, roundedCut, if_true, if_neg (not_lt.2 htop), if_neg hm]

/-- Every value of a format rounds to itself. -/
theorem roundTo_decodeF {F : FFmt} (hF : Fmt F) (mode : Nat) (sat : Bool) (r : Nat) {v : Nat} (hv : v < 2 ^ F.width)
    (hnan : isNan (decodeF F v) = false) : roundTo F mode sat r (decodeF F v) = (v, 0) := by
  obtain ⟨neg, x, m, rfl, hx, hm⟩ := exists_pack hv
  rcases fields_of_not_nan hm hx hF hnan with hfin | ⟨hinf, rfl, rfl⟩
  · rw [decodeF_pack hF hfin]
    split
    next hx0 =>
      subst hx0
      by_cases hm0 : m = 0
      · subst hm0
        simp [roundTo, encZero_eq]
      · have hlog := (Nat.log2_lt hm0).2 hm
        rw [roundTo_on_grid F mode sat r neg hm0 (by unfold gridExp; omega) (subnormal_le_topValue hF hm),
          encodeF_subnormal F neg hm0 hm]
    next hx0 =>
      have hlog : Nat.log2 (m + 2 ^ F.mb) = F.mb :=
        (Nat.log2_eq_iff (by positivity)).2 ⟨by omega, by rw [pow_succ]; omega⟩
      have hgrid : gridExp F (Nat.log2 (m + 2 ^ F.mb) + (x - F.bias - F.mb)) = x - F.bias - F.mb := by
        unfold gridExp FFmt.emin; omega
      rw [roundTo_on_grid F mode sat r neg (by positivity) hgrid ((finiteFields_iff_le_topValue hF hm).1 hfin),
        encodeF_normal F neg hx0 hm]
  · rw [decodeF_inf hF hinf]
    simp [roundTo, hinf, encInf_eq]

section Spanned

variable {F : FFmt} {m : Nat} {e : Int} {st : Bool} {a : ℚ}

/-- The leading bit of a value that is not zero bounds it on both sides. -/
theorem spans_log (hm : m ≠ 0) (ha : Spans m e st a) :
    2 ^ ((Nat.log2 m : Int) + e) ≤ a ∧ a < 2 ^ ((Nat.log2 m : Int) + e + 1) := by
  have hlo : (2 : ℚ) ^ ((Nat.log2 m : Int) + e) ≤ m * 2 ^ e := zpow_le_mul_zpow e (Nat.log2_self_le hm)
  have hhi : ((m + 1 : Nat) : ℚ) * 2 ^ e ≤ 2 ^ (((Nat.log2 m + 1 : Nat) : Int) + e) :=
    mul_zpow_le_zpow e Nat.lt_log2_self
  rw [Nat.cast_add_one, Nat.cast_add_one, add_right_comm] at hhi
  have hstep : (m : ℚ) * 2 ^ e < (m + 1) * 2 ^ e := mul_lt_mul_of_pos_right (lt_add_one _) (zpow_two_pos e)
  cases st
  · obtain rfl : a = m * 2 ^ e := by simpa [Spans] using ha
    exact ⟨hlo, hstep.trans_le hhi⟩
  · obtain ⟨hgt, hlt⟩ : (m : ℚ) * 2 ^ e < a ∧ a < (m + 1) * 2 ^ e := by simpa [Spans] using ha
    exact ⟨hlo.trans hgt.le, hlt.trans_le hhi⟩

variable (hF : Fmt F) (hm : m ≠ 0) (ha : Spans m e st a) (hst : st = true → 2 ^ 70 ≤ m)

include hF hm ha hst in
/-- A cut that leaves at most the format's mantissa bits describes the value, sticky or not. -/
theorem cuts_of_spans {q : Int} (hq : Nat.log2 m + e - F.mb ≤ q) : Cuts (a / 2 ^ q) (cutAt m e q st) := by
  refine cuts_cutAt ha fun h => ?_
  have hlog : 70 ≤ Nat.log2 m := (Nat.le_log2 hm).2 (hst h)
  have := hF.mantBits
  omega

include hF hm ha hst in
/-- Rounding is the grid's neighbour, with what R57 does beyond the largest value, and its flags. -/
theorem roundTo_spans (mode : Nat) (sat : Bool) (r : Nat) (neg : Bool) : let lg : Int := Nat.log2 m + e
    let q := gridExp F lg; let k := roundedCut mode neg r (cutAt m e q st)
    let y := onGrid mode neg a (2 ^ q) r; let u := onGrid mode neg a (2 ^ (lg - F.mb)) r
    y = k * 2 ^ q ∧ roundTo F mode sat r (.fin neg m e st) =
      if topValue F < y then (beyondMax F mode sat neg, fOF ||| fNX)
      else (if k = 0 then F.encZero neg else encodeF F neg k q,
        if y = a then 0 else if u < 2 ^ F.emin then fUF ||| fNX else fNX) := by
  intro lg q k y u
  have hcut : Cuts (a / 2 ^ q) (cutAt m e q st) := cuts_of_spans hF hm ha hst (by simp only [q, gridExp]; omega)
  have hcutu : Cuts (a / 2 ^ (lg - F.mb)) (cutAt m e (lg - F.mb) st) := cuts_of_spans hF hm ha hst le_rfl
  have hy : y = k * 2 ^ q := onGrid_of_cuts hcut mode neg r
  have hu : u = roundedCut mode neg r (cutAt m e (lg - F.mb) st) * 2 ^ (lg - F.mb) := onGrid_of_cuts hcutu mode neg r
  have hexact : y = a ↔ (cutAt m e q st).2.2.1 = true := by
    rw [← roundedCut_eq_self_iff hcut mode neg r, hy, eq_div_iff (zpow_two_ne q)]
  refine ⟨hy, ?_⟩
  rw [roundTo_fin F mode sat r neg e st hm]
  rw [hy] at hexact
  simp only [hy, hu, hexact]
  all_goals rfl

include hF hm ha hst in
/-- Beyond the largest finite value rounding overflows. -/
theorem roundTo_above (mode : Nat) (sat : Bool) (r : Nat) (neg : Bool)
    (h : topValue F < onGrid mode neg a (2 ^ gridExp F (Nat.log2 m + e)) r) :
    roundTo F mode sat r (.fin neg m e st) = (beyondMax F mode sat neg, fOF ||| fNX) := by
  obtain ⟨-, hround⟩ := roundTo_spans hF hm ha hst mode sat r neg
  rw [hround, if_pos h]

include hF hm ha hst in
/-- Up to the largest finite value rounding delivers the grid's neighbour. -/
theorem roundTo_within (mode : Nat) (sat : Bool) (r : Nat) (neg : Bool) : let lg : Int := Nat.log2 m + e
    let y := onGrid mode neg a (2 ^ gridExp F lg) r; let u := onGrid mode neg a (2 ^ (lg - F.mb)) r
    let z := roundTo F mode sat r (.fin neg m e st)
    y ≤ topValue F → (∃ j p, decodeF F z.1 = .fin neg j p false ∧ (j : ℚ) * 2 ^ p = y) ∧ z.1 < 2 ^ F.width ∧
      z.2 = if y = a then 0 else if u < 2 ^ F.emin then fUF ||| fNX else fNX := by
  intro lg y u z htop
  obtain ⟨hy, hround⟩ := roundTo_spans hF hm ha hst mode sat r neg
  set q := gridExp F lg with hq
  have hz : z = (if roundedCut mode neg r (cutAt m e q st) = 0 then F.encZero neg
      else encodeF F neg (roundedCut mode neg r (cutAt m e q st)) q,
      if y = a then 0 else if u < 2 ^ F.emin then fUF ||| fNX else fNX) := hround.trans (if_neg (not_lt.2 htop))
  set k := roundedCut mode neg r (cutAt m e q st) with hk
  rw [hz]
  obtain ⟨hlo, hhi⟩ := spans_log hm ha
  have hqmin : F.emin - F.mb ≤ q := by rw [hq, gridExp]; omega
  have hcut : Cuts (a / 2 ^ q) (cutAt m e q st) := cuts_of_spans hF hm ha hst (by rw [hq, gridExp]; omega)
  by_cases hk0 : k = 0
  · have hy0 : y = 0 := by rw [show y = k * 2 ^ q from hy, hk0, Nat.cast_zero, zero_mul]
    have hfields := finiteFields_zero hF (m := 0) (by positivity)
    rw [if_pos hk0, encZero_eq, decodeF_pack hF hfields, if_pos rfl, hy0]
    exact ⟨⟨_, _, rfl, by simp⟩, pack_lt_width (by positivity) (by positivity), rfl⟩
  · have hhigh : k ≤ 2 ^ (F.mb + 1) := roundedCut_le hcut mode neg r <| by
      rw [div_lt_iff₀ (zpow_two_pos q)]
      refine hhi.trans_le (le_trans ?_ (zpow_le_mul_zpow q le_rfl))
      exact zpow_le_zpow_right₀ one_le_two (by rw [hq, gridExp]; omega)
    have hlow : k < 2 ^ F.mb → q = F.emin - F.mb := by
      intro hlt
      by_contra hne
      refine absurd (le_roundedCut hcut mode neg r (k := 2 ^ F.mb) ?_) (not_le.2 hlt)
      rw [le_div_iff₀ (zpow_two_pos q)]
      refine (mul_zpow_le_zpow q le_rfl).trans (le_trans ?_ hlo)
      exact zpow_le_zpow_right₀ one_le_two (by rw [hq, gridExp] at hne ⊢; omega)
    rw [if_neg hk0]
    obtain ⟨⟨j, p, hdec, hval⟩, hwidth⟩ :=
      decodeF_encodeF hF neg hk0 hqmin hlow hhigh (hy ▸ htop : (k : ℚ) * 2 ^ q ≤ topValue F)
    exact ⟨⟨j, p, hdec, hval.trans hy.symm⟩, hwidth, rfl⟩

end Spanned

/-- A finite value with its leading bit above that of the largest one overflows. -/
theorem roundTo_leading_bit_above {F : FFmt} (hF : Fmt F) (mode : Nat) (sat : Bool) (r : Nat) (neg : Bool) {m : Nat}
    {e : Int} (hm : m ≠ 0) (h : F.topField - F.bias < Nat.log2 m + e) :
    roundTo F mode sat r (.fin neg m e false) = (beyondMax F mode sat neg, fOF ||| fNX) := by
  have ha : Spans m e false (m * 2 ^ e) := by simp [Spans]
  refine roundTo_above hF hm ha nofun mode sat r neg ((topValue_lt hF).trans_le ?_)
  have hq : Nat.log2 m + e = F.mb + gridExp F (Nat.log2 m + e) := by
    have := topField_pos hF
    unfold gridExp FFmt.emin
    omega
  have hcut : Cuts (m * 2 ^ e / 2 ^ gridExp F (Nat.log2 m + e)) (cutAt m e (gridExp F (Nat.log2 m + e)) false) :=
    cuts_of_spans hF hm ha nofun (by omega)
  rw [onGrid_of_cuts hcut]
  refine le_trans ?_ (zpow_le_mul_zpow _ (le_roundedCut hcut mode neg r (k := 2 ^ F.mb) ?_))
  · exact zpow_le_zpow_right₀ one_le_two (by rw [← hq]; unfold FFmt.topExp; omega)
  · rw [le_div_iff₀ (zpow_two_pos _)]
    refine (mul_zpow_le_zpow _ le_rfl).trans ?_
    rw [← hq]
    exact (spans_log hm ha).1

end Sys2Proof.Numbers
end

section
/-! Conversions to integers, minimum and maximum, the LFSR, and the statement about rounding. -/

namespace Sys2Proof.Numbers

open Sys2Proof Sys2Proof.Machine Sys2Proof.Claim

/-- An integer of the given sign and magnitude. -/
def withSign (n : Bool) (k : Nat) : Int := if n = true then -(k : Int) else k

/-- `cvt_int` of R59 for a finite value, in terms of the rounded cut at the unit. -/
theorem cvtInt_fin (w : Nat) (sg : Bool) (mode : Nat) (sat : Bool) (r : Nat) (n : Bool) (m : Nat) (e : Int) (st : Bool) :
    let y := withSign n (roundedCut mode n r (cutAt m e 0 st))
    cvtInt w sg mode sat r (.fin n m e st) =
      if y < intLo w sg ∨ intHi w sg < y then
        (if sat = true then clamp y (intLo w sg) (intHi w sg)
          else if sg = true then (BitVec.ofInt w y).toInt else (BitVec.ofInt w y).toNat, fNV)
      else (y, if (cutAt m e 0 st).2.2.1 = true then 0 else fNX) := by
  intro y
  simp only [cvtInt, Bool.or_eq_true, decide_eq_true_eq]
  all_goals rfl

/-- A conversion that does not raise invalid delivers the rounded value. -/
theorem cvtInt_valid {w : Nat} {sg : Bool} {mode : Nat} {sat : Bool} {r : Nat} {n : Bool} {m : Nat} {e : Int} {st : Bool}
    (h : (cvtInt w sg mode sat r (.fin n m e st)).2 ≠ fNV) : cvtInt w sg mode sat r (.fin n m e st) =
      (withSign n (roundedCut mode n r (cutAt m e 0 st)), if (cutAt m e 0 st).2.2.1 = true then 0 else fNX) := by
  rw [cvtInt_fin] at h ⊢
  split_ifs at h ⊢ <;> simp_all

/-- How the rest `d` of a cut compares with one half `h`, as the model codes it. -/
def halfCode (d h : Nat) : Nat := if d < h then 0 else if d = h then 1 else 2

/-- A fraction cut at the unit. -/
theorem cutAt_fraction (p : Nat) {j : Nat} (hj : 0 < j) : let d := p % 2 ^ j
    cutAt p (-(j : Int)) 0 false = (p / 2 ^ j, halfCode d (2 ^ (j - 1)), d == 0, d * 65536 / 2 ^ j) := by
  simp [cutAt, halfCode, hj.ne']

/-- A whole number cut at the unit. -/
theorem cutAt_integer (p : Nat) : cutAt p 0 0 false = (p, 0, true, 0) := by simp [cutAt]

/-- Floor and remainder of a fraction that is not whole, of either sign. -/
theorem withSign_divMod (n : Bool) {p d : Nat} (hd : 0 < d) (h : p % d ≠ 0) :
    withSign n p / d = (if n = true then -((p / d : Nat) : Int) - 1 else (p / d : Nat)) ∧
      withSign n p % d = if n = true then (d : Int) - (p % d : Nat) else (p % d : Nat) := by
  have hp : (p : Int) = d * (p / d : Nat) + (p % d : Nat) := by exact_mod_cast (Nat.div_add_mod p d).symm
  have hlt : p % d < d := Nat.mod_lt p hd
  rw [Int.ediv_emod_unique (by exact_mod_cast hd)]
  cases n <;> simp only [withSign, Bool.false_eq_true, if_true, if_false]
  · exact ⟨by rw [hp]; ring, by omega, by omega⟩
  · exact ⟨by rw [hp]; ring, by omega, by omega⟩

/-- A sign does not change whether a fraction is whole. -/
theorem withSign_mod_eq_zero_iff (n : Bool) (p d : Nat) : withSign n p % d = 0 ↔ p % d = 0 := by
  cases n <;> simp [withSign, ← Nat.dvd_iff_mod_eq_zero, Int.natCast_dvd_natCast]

theorem withSign_div_of_dvd (n : Bool) {p d : Nat} (h : p % d = 0) : withSign n p / d = withSign n (p / d) := by
  have hd : (d : Int) ∣ p := Int.natCast_dvd_natCast.2 (Nat.dvd_of_mod_eq_zero h)
  cases n <;> simp [withSign, Int.neg_ediv_of_dvd hd]

/-- The rest of a fraction that rounds to nearest lies on the chosen side of one half. -/
theorem roundUp_nearest {mode : Nat} (hmode : mode = 0 ∨ mode = 4) (n : Bool) (r k d h c : Nat) :
    if roundUp mode n k (halfCode d h) c r = true then h ≤ d else d ≤ h := by
  unfold halfCode
  rcases lt_trichotomy d h with hd | rfl | hd
  · rcases hmode with rfl | rfl <;> simp [roundUp_rne, roundUp_rna, hd, hd.le]
  · simp
  · rcases hmode with rfl | rfl <;> simp [roundUp_rne, roundUp_rna, hd.not_gt, hd.ne', hd.le]

section Fraction

variable (n : Bool) (r p mode : Nat) {j : Nat} (hj : 0 < j) (h : p % 2 ^ j ≠ 0)

/-- Whether the model rounds the magnitude `p / 2 ^ j` away from zero. -/
def fractionUp (j : Nat) : Bool :=
  roundUp mode n (p / 2 ^ j) (halfCode (p % 2 ^ j) (2 ^ (j - 1))) (p % 2 ^ j * 65536 / 2 ^ j) r

include hj h

/-- The magnitude that a fraction that is not whole rounds to. -/
theorem roundedCut_fraction : roundedCut mode n r (cutAt p (-(j : Int)) 0 false) =
    p / 2 ^ j + if fractionUp n r p mode j = true then 1 else 0 := by
  rw [cutAt_fraction p hj]
  simp only [roundedCut, fractionUp, beq_iff_eq, h, if_false]
  split_ifs with hup <;> simp [hup]

/-- The error of that rounding, in units of `1 / 2 ^ j`. -/
theorem fraction_error : (p : Int) - roundedCut mode n r (cutAt p (-(j : Int)) 0 false) * 2 ^ j =
    (p % 2 ^ j : Nat) - if fractionUp n r p mode j = true then 2 ^ j else 0 := by
  have hp : (p : Int) = 2 ^ j * (p / 2 ^ j : Nat) + (p % 2 ^ j : Nat) := by
    exact_mod_cast (Nat.div_add_mod p (2 ^ j)).symm
  rw [roundedCut_fraction n r p mode hj h]
  split_ifs <;> simp only [Nat.cast_add, Nat.cast_one, Nat.cast_zero] <;> linear_combination hp

end Fraction

section FractionModes

variable (n : Bool) (r p : Nat) {j : Nat} (hj : 0 < j) (h : p % 2 ^ j ≠ 0)

theorem two_pow_eq_half (hj : 0 < j) : 2 ^ j = 2 * 2 ^ (j - 1) := by
  rw [← pow_succ', Nat.sub_add_cancel hj]

include hj h

/-- Rounding to nearest errs by at most one half. -/
theorem fraction_error_nearest {mode : Nat} (hmode : mode = 0 ∨ mode = 4) :
    let err := (p : Int) - roundedCut mode n r (cutAt p (-(j : Int)) 0 false) * 2 ^ j
    2 * err ≤ 2 ^ j ∧ -(2 * err) ≤ 2 ^ j := by
  have hside := roundUp_nearest hmode n r (p / 2 ^ j) (p % 2 ^ j) (2 ^ (j - 1)) (p % 2 ^ j * 65536 / 2 ^ j)
  have hlt : p % 2 ^ j < 2 ^ j := Nat.mod_lt p (Nat.two_pow_pos j)
  have hcast : (2 : Int) ^ j = (2 ^ j : Nat) := by simp
  have hpow := two_pow_eq_half hj
  intro err
  have herr : err = (p % 2 ^ j : Nat) - if fractionUp n r p mode j = true then (2 : Int) ^ j else 0 :=
    fraction_error n r p mode hj h
  rw [fractionUp, hcast] at herr
  rw [hcast]
  generalize p % 2 ^ j = d at *
  clear_value err
  split_ifs at hside herr <;> omega

/-- The halves of RNE go to the even neighbour. -/
theorem rne_half (hhalf : p % 2 ^ j = 2 ^ (j - 1)) : roundedCut 0 n r (cutAt p (-(j : Int)) 0 false) % 2 = 0 := by
  have hup : fractionUp n r p 0 j = (p / 2 ^ j % 2 == 1) := by
    simp [fractionUp, roundUp_rne, halfCode, hhalf]
  rw [roundedCut_fraction n r p 0 hj h, hup]
  generalize p / 2 ^ j = k
  simp only [beq_iff_eq]
  split_ifs <;> omega

/-- The halves of RNA go away from zero. -/
theorem rna_half (hhalf : p % 2 ^ j = 2 ^ (j - 1)) :
    p < roundedCut 4 n r (cutAt p (-(j : Int)) 0 false) * 2 ^ j := by
  have herr := fraction_error n r p 4 hj h
  have hup : fractionUp n r p 4 j = true := by simp [fractionUp, roundUp_rna, halfCode, hhalf]
  have hlt : ((p % 2 ^ j : Nat) : Int) < 2 ^ j := by exact_mod_cast Nat.mod_lt p (Nat.two_pow_pos j)
  rw [if_pos hup] at herr
  have : (p : Int) < roundedCut 4 n r (cutAt p (-(j : Int)) 0 false) * 2 ^ j := by omega
  exact_mod_cast this

end FractionModes

/-- Rounding a fraction that is not whole delivers one of its neighbours, the one that R53 or R55 names. -/
theorem withSign_roundedCut_fraction (n : Bool) (r p : Nat) {mode j : Nat} (hj : 0 < j)
    (h : p % 2 ^ j ≠ 0) : let x := withSign n p; let d : Int := 2 ^ j
    let y := withSign n (roundedCut mode n r (cutAt p (-(j : Int)) 0 false))
    (y = x / d ∨ y = x / d + 1) ∧
      (mode = 0 → 2 * (x - y * d) ≤ d ∧ 2 * (y * d - x) ≤ d ∧ (2 * (x % d) = d → y % 2 = 0)) ∧
      (mode = 1 → y.natAbs * 2 ^ j ≤ p) ∧ (mode = 2 → y = x / d) ∧ (mode = 3 → y = x / d + 1) ∧
      (mode = 4 → 2 * (x - y * d) ≤ d ∧ 2 * (y * d - x) ≤ d ∧ (2 * (x % d) = d → p < y.natAbs * 2 ^ j)) ∧
      (mode = 5 → y.natAbs = p / 2 ^ j + if 65536 ≤ p % 2 ^ j * 65536 / 2 ^ j + r then 1 else 0) := by
  intro x d y
  have hd : d = (2 ^ j : Nat) := by simp [d]
  have hpow := two_pow_eq_half hj
  obtain ⟨hdiv, hmod⟩ := withSign_divMod n (Nat.two_pow_pos j) h
  rw [← hd] at hdiv hmod
  have hround := roundedCut_fraction n r p mode hj h
  have habs : y.natAbs = roundedCut mode n r (cutAt p (-(j : Int)) 0 false) := by
    cases n <;> simp [y, withSign]
  have herr : x - y * d = withSign n 1 * (p - roundedCut mode n r (cutAt p (-(j : Int)) 0 false) * 2 ^ j) := by
    cases n <;> simp only [x, y, d, withSign, Bool.false_eq_true, if_true, if_false, Nat.cast_one] <;> ring
  have htie : 2 * (x % d) = d ↔ p % 2 ^ j = 2 ^ (j - 1) := by
    rw [hmod, hd]
    generalize p % 2 ^ j = c
    split_ifs <;> omega
  have hnear : mode = 0 ∨ mode = 4 → 2 * (x - y * d) ≤ d ∧ 2 * (y * d - x) ≤ d := by
    intro hm
    obtain ⟨hlo, hhi⟩ := fraction_error_nearest n r p hj h hm
    have hflip : y * d - x = -(x - y * d) := by ring
    rw [hflip, herr]
    cases n <;> simp only [withSign, Bool.false_eq_true, if_true, if_false] <;> omega
  refine ⟨?_, ?_, ?_, ?_, ?_, ?_, ?_⟩
  · rw [hdiv]
    simp only [y, hround]
    cases n <;> simp only [withSign, Bool.false_eq_true, if_true, if_false] <;> split_ifs <;> omega
  · rintro rfl
    refine ⟨(hnear (.inl rfl)).1, (hnear (.inl rfl)).2, fun ht => ?_⟩
    have heven := rne_half n r p hj h (htie.1 ht)
    rw [← habs] at heven
    omega
  · rintro rfl
    rw [habs, hround, fractionUp, roundUp_rtz, if_neg Bool.false_ne_true, add_zero]
    exact Nat.div_mul_le_self p _
  · rintro rfl
    rw [hdiv]
    simp only [y, hround, fractionUp, roundUp_rdn]
    cases n <;> simp only [withSign, Bool.false_eq_true, if_true, if_false] <;> omega
  · rintro rfl
    rw [hdiv]
    simp only [y, hround, fractionUp, roundUp_rup]
    cases n <;> simp [withSign]
  · rintro rfl
    refine ⟨(hnear (.inr rfl)).1, (hnear (.inr rfl)).2, fun ht => ?_⟩
    rw [habs]
    exact rna_half n r p hj h (htie.1 ht)
  · rintro rfl
    rw [habs, hround, fractionUp, roundUp_sr 0]
    exact congrArg _ (if_congr decide_eq_true_iff rfl rfl)

/-- Conversion of a fraction to an integer, where it does not raise invalid. -/
theorem cvtInt_fraction {w : Nat} {sg : Bool} {mode : Nat} {sat : Bool} {r : Nat} {n : Bool} {p j : Nat} (hj : 0 < j)
    (hvalid : (cvtInt w sg mode sat r (.fin n p (-(j : Int)) false)).2 ≠ fNV) :
    cvtInt w sg mode sat r (.fin n p (-(j : Int)) false) =
      if p % 2 ^ j = 0 then (withSign n (p / 2 ^ j), 0)
      else (withSign n (roundedCut mode n r (cutAt p (-(j : Int)) 0 false)), fNX) := by
  have hexact : (cutAt p (-(j : Int)) 0 false).2.2.1 = true ↔ p % 2 ^ j = 0 := by rw [cutAt_fraction p hj, beq_iff_eq]
  rw [cvtInt_valid hvalid]
  simp only [hexact]
  split
  next h => rw [roundedCut, if_pos (hexact.2 h), cutAt_fraction p hj]
  next h => rfl

/-- Conversion of an integer: R59's clamp or wrap beyond the range. -/
theorem cvtInt_integer (w : Nat) (sg : Bool) (mode : Nat) (sat : Bool) (r : Nat) (n : Bool) (p : Nat) :
    let x := withSign n p
    cvtInt w sg mode sat r (.fin n p 0 false) =
      if x < intLo w sg ∨ intHi w sg < x then
        (if sat = true then clamp x (intLo w sg) (intHi w sg)
          else if sg = true then (BitVec.ofInt w x).toInt else (BitVec.ofInt w x).toNat, fNV)
      else (x, 0) := by
  simp only [cvtInt_fin, cutAt_integer, roundedCut, if_true]

theorem clamp_eq {x lo hi : Int} (h : lo ≤ hi) : clamp x lo hi = max lo (min hi x) := by
  unfold clamp
  split_ifs <;> omega

theorem intLo_le_intHi (w : Nat) (sg : Bool) : intLo w sg ≤ intHi w sg := by
  have hhalf : (0 : Int) < 2 ^ (w - 1) := by positivity
  have hfull : (0 : Int) < 2 ^ w := by positivity
  cases sg <;> simp only [intLo, intHi, Bool.false_eq_true, if_true, if_false] <;> omega

/-- An integer that is wrapped to `w` bits keeps its residue. -/
theorem wrapped_sub_emod (w : Nat) (sg : Bool) (x : Int) :
    ((if sg = true then (BitVec.ofInt w x).toInt else (BitVec.ofInt w x).toNat) - x) % 2 ^ w = 0 := by
  have hcast : (2 : Int) ^ w = (2 ^ w : Nat) := by simp
  rw [← Int.emod_eq_emod_iff_emod_sub_eq_zero, hcast]
  split_ifs
  · rw [BitVec.toInt_ofInt, Int.bmod_emod]
  · rw [BitVec.toNat_ofInt, Int.toNat_of_nonneg (Int.emod_nonneg _ (by positivity)), Int.emod_emod]

/-- The order of R63: that of the values, with -0 below +0. -/
def lessV (x y : Val) : Bool := cmpV x y == -1 || (cmpV x y == 0 && isNeg x && !isNeg y)

theorem lessV_iff (x y : Val) :
    lessV x y = true ↔ cmpV x y = -1 ∨ cmpV x y = 0 ∧ isNeg x = true ∧ isNeg y = false := by
  simp [lessV, and_assoc]

/-- fmin and fmax on the encodings of a format, case by case (R63). -/
theorem fminmax_fst (F : FFmt) (hi : Bool) {a b : Nat} (ha : a < 2 ^ F.width) (hb : b < 2 ^ F.width) :
    let x := decodeF F a; let y := decodeF F b
    (fminmax F hi a b).1 = if (isNan x && isNan y) = true then F.canon else if isNan x = true then b
      else if isNan y = true then a else if (lessV x y != hi) = true then a else b := by
  simp only [fminmax, lessV, Nat.mod_eq_of_lt ha, Nat.mod_eq_of_lt hb, apply_ite Prod.fst]
  all_goals rfl

theorem fminmax_snd (F : FFmt) (hi : Bool) (a b : Nat) :
    (fminmax F hi a b).2 = nvOf [decodeF F a, decodeF F b] := by
  simp only [fminmax, apply_ite Prod.snd, ite_self]

/-- Minimum and maximum as R63 states them. -/
theorem fminmax_spec (F : FFmt) (hi : Bool) {a b : Nat} (ha : a < 2 ^ F.width) (hb : b < 2 ^ F.width) :
    let x := decodeF F a; let y := decodeF F b; let z := fminmax F hi a b
    z.2 = (if isSnan x = true ∨ isSnan y = true then fNV else 0) ∧
    (isNan x = true → isNan y = true → z.1 = F.canon) ∧ (isNan x = true → isNan y = false → z.1 = b) ∧
    (isNan x = false → isNan y = true → z.1 = a) ∧
    (isNan x = false → isNan y = false → (z.1 = a ∨ z.1 = b) ∧
      (cmpV x y = -1 → z.1 = if hi = true then b else a) ∧ (cmpV x y = 1 → z.1 = if hi = true then a else b) ∧
      (cmpV x y = 0 → isNeg x = true → isNeg y = false → z.1 = if hi = true then b else a)) := by
  intro x y z
  have hz : z.1 = if (isNan x && isNan y) = true then F.canon else if isNan x = true then b
      else if isNan y = true then a else if (lessV x y != hi) = true then a else b := fminmax_fst F hi ha hb
  have hflags : z.2 = nvOf [x, y] := fminmax_snd F hi a b
  clear_value x y z
  refine ⟨hflags.trans (nvOf_pair x y), fun hx hy => by simp [hz, hx, hy], fun hx hy => by simp [hz, hx, hy],
    fun hx hy => by simp [hz, hx, hy], fun hx hy => ?_⟩
  have hchoice : z.1 = if (lessV x y != hi) = true then a else b := by simp [hz, hx, hy]
  have hless : lessV x y = true → z.1 = if hi = true then b else a := by
    intro hl
    rw [hchoice, hl]
    cases hi <;> rfl
  refine ⟨?_, fun hc => hless ((lessV_iff x y).2 (.inl hc)), fun hc => ?_,
    fun hc hnx hny => hless ((lessV_iff x y).2 (.inr ⟨hc, hnx, hny⟩))⟩
  · rw [hchoice]
    exact ite_eq_or_eq _ _ _
  · have hl : lessV x y = false := by simp [lessV, hc]
    rw [hchoice, hl]
    cases hi <;> rfl

/-- The LFSR is loaded from the low half of k1. -/
theorem lfsrSeed_eq (k1 : W32) : lfsrSeed k1 = if k1.toNat % 65536 = 0 then 1 else BitVec.ofNat 16 k1.toNat := by
  have hlow : k1.setWidth 16 = BitVec.ofNat 16 k1.toNat := by
    apply BitVec.eq_of_toNat_eq
    simp
  have hzero : k1.setWidth 16 = (0 : Half) ↔ k1.toNat % 65536 = 0 := by
    rw [← BitVec.toNat_inj]
    simp
  rw [lfsrSeed, if_congr hzero rfl hlow]

/-- The special encodings of the formats of R45. -/
theorem ffmt_hasNan {k : Nat} (hk : k < 8) : (ffmt k).hasNan = decide (k < 5) := by
  interval_cases k <;> rfl

theorem ffmt_hasInf {k : Nat} (hk : k < 8) : (ffmt k).hasInf = decide (k < 5 ∧ k ≠ 3) := by
  interval_cases k <;> rfl

theorem ffmt_canon {k : Nat} (hk : k < 5) :
    (ffmt k).canon = nthD [0x7FC00000, 0x7E00, 0x7FC0, 0x7F, 0x7E] k 0 := by
  interval_cases k <;> rfl

theorem ffmt_encMax {k : Nat} (hk : k < 8) :
    (ffmt k).encMax false = nthD [0x7F7FFFFF, 0x7BFF, 0x7F7F, 0x7E, 0x7B, 0x1F, 0x1F, 0x7] k 0 := by
  interval_cases k <;> rfl

theorem ffmt_mb {k : Nat} (hk : k < 8) : ((ffmt k).mb : Int) = nthD [23, 10, 7, 3, 2, 2, 3, 1] k 0 := by
  interval_cases k <;> rfl

theorem ffmt_emin {k : Nat} (hk : k < 8) : (ffmt k).emin = nthD [-126, -14, -126, -6, -14, -2, 0, 0] k 0 := by
  interval_cases k <;> rfl

/-- The largest finite values of the formats. -/
theorem topValue_ffmt {k : Nat} (hk : k < 8) : topValue (ffmt k) =
    nthD [(2 ^ 24 - 1) * 2 ^ 104, 65504, (2 ^ 8 - 1) * 2 ^ 120, 448, 57344, 28, 15 / 2, 6] k 0 := by
  interval_cases k <;> norm_num [topValue, ffmt, FFmt.topMant, FFmt.topExp, FFmt.topField, nthD]

/-- What R57 delivers beyond the largest finite value of a format. -/
theorem beyondMax_ffmt {k : Nat} (hk : k < 8) (m : Nat) (sat n : Bool) : beyondMax (ffmt k) m sat n =
    if sat = true ∨ 5 ≤ k ∨ m = 1 ∨ (m = 2 ∧ n = false) ∨ (m = 3 ∧ n = true) then (ffmt k).encMax n
    else if k = 3 then 0x7F else (ffmt k).encInf n := by
  simp only [beyondMax, ffmt_hasNan hk, ffmt_hasInf hk]
  by_cases hsat : sat = true ∨ 5 ≤ k
  · rw [if_pos (by simpa using hsat), if_pos (by tauto)]
  · obtain ⟨hsat, h5⟩ := not_or.1 hsat
    have h5 : k < 5 := not_le.1 h5
    rw [if_neg (by simp [hsat, h5])]
    by_cases hm : m = 1 ∨ (m = 2 ∧ n = false) ∨ (m = 3 ∧ n = true)
    · rw [if_pos (by simpa [or_assoc] using hm), if_pos (.inr (.inr hm))]
    · rw [if_neg (by simpa [or_assoc] using hm), if_neg (by tauto : ¬ (sat = true ∨ 5 ≤ k ∨ _))]
      by_cases h3 : k = 3
      · subst h3; rfl
      · simp [h3, h5]

/-- The special operands of `round`, exact values and the overflow of a large one, in each format. -/
theorem roundTo_ffmt_special {k : Nat} (hk : k < 8) (m r : Nat) (sat : Bool) : let F := ffmt k
    (∀ v, v < 2 ^ F.width → isNan (decodeF F v) = false → roundTo F m sat r (decodeF F v) = (v, 0)) ∧
    (∀ g, roundTo F m sat r (.nan g) = if k < 5 then (nthD [0x7FC00000, 0x7E00, 0x7FC0, 0x7F, 0x7E] k 0, 0) else (0, fNV)) ∧
    (∀ n, k = 3 → roundTo F m sat r (.inf n) = (if sat = true then (if n = true then 0xFE else 0x7E) else 0x7F, fNV)) ∧
    (∀ n, 5 ≤ k → roundTo F m sat r (.inf n) = (F.encMax n, fNV)) := by
  refine ⟨fun v => roundTo_decodeF (fmt_ffmt k) m sat r, fun g => ?_, ?_, fun n h5 => ?_⟩
  · by_cases h5 : k < 5
    · simp [roundTo, ffmt_hasNan hk, h5, ffmt_canon h5]
    · simp [roundTo, ffmt_hasNan hk, h5]
  · rintro n rfl
    cases sat <;> cases n <;> rfl
  · simp [roundTo, ffmt_hasNan hk, ffmt_hasInf hk, not_lt.2 h5]

/-- Settles O60: a rounded value is the grid's neighbour that R53 or R55 names, and each format's special cases follow R57. -/
theorem roundingDeliversNeighbours : Obligations.RoundingDeliversNeighbours := by
  unfold Obligations.RoundingDeliversNeighbours
  refine ⟨?_, ?_, ?_, ?_, fun k a b hi _ => fminmax_spec (ffmt k) hi, fun s => rfl, lfsrSeed_eq⟩
  · intro k m r sat hk F
    obtain ⟨hself, hnan, hinfE4m3, hinfMx⟩ := roundTo_ffmt_special hk m r sat
    refine ⟨hself, hnan, hinfE4m3, hinfMx, fun n p e hp hlarge => ?_, ffmt_encMax hk⟩
    rw [roundTo_leading_bit_above (fmt_ffmt k) m sat r n hp hlarge, beyondMax_ffmt hk]
  · intro k m r p sat n st e a hk _ hp ha hst mb emin top lg y u z
    have hF := fmt_ffmt k
    have hmb : mb = (ffmt k).mb := (ffmt_mb hk).symm
    have hemin : emin = (ffmt k).emin := (ffmt_emin hk).symm
    have htop : top = topValue (ffmt k) := (topValue_ffmt hk).symm
    have hy : y = onGrid m n a (2 ^ gridExp (ffmt k) lg) r := by simp only [y, hmb, hemin]; rfl
    have hu : u = onGrid m n a (2 ^ (lg - (ffmt k).mb)) r := by simp only [u, hmb]
    rw [htop, hemin]
    refine ⟨fun habove => ?_, fun hwithin => ?_⟩
    · rw [← beyondMax_ffmt hk]
      exact roundTo_above hF hp ha hst m sat r n (hy ▸ habove)
    · rw [hu, hy] at *
      exact roundTo_within hF hp ha hst m sat r n hwithin
  · intro w m r p j sg sat n _ _ hj x d y hvalid
    have hd : d = (2 ^ j : Nat) := by simp [d]
    have hwhole : x % d = 0 ↔ p % 2 ^ j = 0 := hd ▸ withSign_mod_eq_zero_iff n p (2 ^ j)
    have hy : y = _ := cvtInt_fraction hj hvalid
    refine ⟨fun h => ?_, fun h => ?_⟩
    · rw [hy, if_pos (hwhole.1 h), ← withSign_div_of_dvd n (hwhole.1 h), ← hd]
      rfl
    · rw [hy, if_neg (hwhole.not.1 h)]
      exact ⟨rfl, withSign_roundedCut_fraction n r p hj (hwhole.not.1 h)⟩
  · intro w m r p sg sat n _ x lo hi y
    have hy : y = if x < lo ∨ hi < x then _ else (x, 0) := cvtInt_integer w sg m sat r n p
    refine ⟨fun g => rfl, rfl, fun hlo hhi => ?_, fun hout => ?_⟩
    · rw [hy, if_neg (by omega)]
    · rw [hy, if_pos hout]
      refine ⟨rfl, fun hs => ?_, fun hs => ?_⟩
      · rw [if_pos hs]
        exact clamp_eq (intLo_le_intHi w sg)
      · rw [hs, if_neg Bool.false_ne_true]
        exact wrapped_sub_emod w sg x

end Sys2Proof.Numbers
end

section
/-! The fields of a word: fields that lie side by side, fields within fields, and a word as the encoding of its fields,
format by format (R101, R107, R114, R117, R118). -/

namespace Sys2Proof.Words

open Sys2Proof Sys2Proof.Laws

/-- Two fields side by side are one field. -/
theorem bits_append_bits {n hi lo k len : Nat} (x : BitVec n) (h : hi = lo + k) :
    bits x hi len ++ bits x lo k = bits x lo (len + k) := BitVec.extractLsb'_append_extractLsb'_eq_extractLsb' h

theorem bits_full {n : Nat} (x : BitVec n) : bits x 0 n = x := BitVec.extractLsb'_eq_self

theorem bits_append_low {a b lo k : Nat} {x : BitVec a} {y : BitVec b} (h : lo + k ≤ b) :
    bits (x ++ y) lo k = bits y lo k := BitVec.extractLsb'_append_eq_of_add_le h

theorem bits_append_high {a b lo k : Nat} {x : BitVec a} {y : BitVec b} (h : b ≤ lo) :
    bits (x ++ y) lo k = bits x (lo - b) k := BitVec.extractLsb'_append_eq_of_le h

theorem bits_ext {n lo k : Nat} {x : BitVec n} {y : BitVec k} (h : ∀ i < k, x.getLsbD (lo + i) = y.getLsbD i) :
    bits x lo k = y := by
  apply BitVec.eq_of_getLsbD_eq
  intro i hi
  simp [bits, hi, h i hi]

/-- A field inside a field that is zero is zero. -/
theorem bits_eq_zero_of_within {n lo len l k : Nat} {x : BitVec n} (h : bits x lo len = 0) (hlo : lo ≤ l)
    (hhi : l + k ≤ lo + len) : bits x l k = 0 := by
  refine bits_ext fun i hi => ?_
  have hbit : (bits x lo len).getLsbD (l + i - lo) = false := by simp [h]
  rw [bits, BitVec.getLsbD_extractLsb', decide_eq_true (by omega), Bool.true_and,
    Nat.add_sub_cancel' (by omega)] at hbit
  simpa using hbit

/-- The high bits of a field with a small value are zero. -/
theorem bits_high_eq_zero {n lo k len : Nat} {x : BitVec n} (h : (bits x lo (len + k)).toNat < 2 ^ k) :
    bits x (lo + k) len = 0 := by
  refine bits_ext fun i hi => ?_
  have hbit : (bits x lo (len + k)).getLsbD (k + i) = false :=
    Nat.testBit_lt_two_pow (h.trans_le (Nat.pow_le_pow_right two_pos (Nat.le_add_right k i)))
  rw [bits, BitVec.getLsbD_extractLsb', decide_eq_true (by omega), Bool.true_and, ← Nat.add_assoc] at hbit
  simpa using hbit

variable {w : W32} {v : Half}

theorem encSA_eq_iff {m : BitVec 6} {d a b : Reg} {f : BitVec 11} : encSA m d a b f = w ↔
    Fld.major w = m ∧ Fld.rd w = d ∧ Fld.ra w = a ∧ Fld.rb w = b ∧ Fld.fn11 w = f := by
  constructor
  · rintro rfl
    simp
  · rintro ⟨rfl, rfl, rfl, rfl, rfl⟩
    simp only [encSA, Fld.major, Fld.rd, Fld.ra, Fld.rb, Fld.fn11, bits_append_bits]
    exact bits_full w

theorem encSI_eq_iff {m : BitVec 6} {d a : Reg} {j : BitVec 16} : encSI m d a j = w ↔
    Fld.major w = m ∧ Fld.rd w = d ∧ Fld.ra w = a ∧ Fld.imm w = j := by
  constructor
  · rintro rfl
    simp
  · rintro ⟨rfl, rfl, rfl, rfl⟩
    simp only [encSI, Fld.major, Fld.rd, Fld.ra, Fld.imm, bits_append_bits]
    exact bits_full w

theorem encSJ_eq_iff {m : BitVec 6} {o : BitVec 26} : encSJ m o = w ↔ Fld.major w = m ∧ bits w 0 26 = o := by
  constructor
  · rintro rfl
    simp
  · rintro ⟨rfl, rfl⟩
    simp only [encSJ, Fld.major, bits_append_bits]
    exact bits_full w

theorem encSE_eq_iff {m : BitVec 6} {d a b : Reg} {p : Pen} {f : BitVec 8} : encSE m d a b p f = w ↔
    Fld.major w = m ∧ Fld.rd w = d ∧ Fld.ra w = a ∧ Fld.rb w = b ∧ Fld.pn w = p ∧ Fld.fn8 w = f := by
  constructor
  · rintro rfl
    simp
  · rintro ⟨rfl, rfl, rfl, rfl, rfl, rfl⟩
    simp only [encSE, Fld.major, Fld.rd, Fld.ra, Fld.rb, Fld.pn, Fld.fn8, bits_append_bits]
    exact bits_full w

/-- The class and the opcode of R107 are the two parts of what the encoder writes in front. -/
theorem encOp_eq_iff {co : BitVec 10} {d a b c t r m : BitVec 3} {s : BitVec 1} : encOp co d a b c t r s m = w ↔
    bits w 29 3 = bits co 7 3 ∧ bits w 22 7 = bits co 0 7 ∧ OpF.dst w = d ∧ OpF.srcA w = a ∧ OpF.srcB w = b ∧
    OpF.srcC w = c ∧ OpF.ty w = t ∧ OpF.rnd w = r ∧ OpF.sat w = s ∧ OpF.mod w = m := by
  constructor
  · rintro rfl
    simp
  · rintro ⟨hclass, hcode, rfl, rfl, rfl, rfl, rfl, rfl, rfl, rfl⟩
    have hco : bits w 29 3 ++ bits w 22 7 = co := by
      rw [hclass, hcode]
      exact (bits_append_bits co rfl).trans (bits_full co)
    simp only [encOp, ← hco, OpF.dst, OpF.srcA, OpF.srcB, OpF.srcC, OpF.ty, OpF.rnd, OpF.sat, OpF.mod,
      bits_append_bits]
    exact bits_full w

theorem encMx_eq_iff {co : BitVec 7} {a : BitVec 6} {g h x : BitVec 4} {n b z c k : BitVec 1} :
    encMx co a g h x n b z c k = w ↔ bits w 29 3 = bits co 4 3 ∧ bits w 25 4 = bits co 0 4 ∧ bits w 19 6 = a ∧
    bits w 15 4 = g ∧ bits w 11 4 = h ∧ bits w 7 4 = x ∧ bits w 6 1 = n ∧ bits w 5 1 = b ∧ bits w 4 1 = z ∧
    bits w 3 1 = c ∧ bits w 2 1 = k ∧ bits w 0 2 = 0 := by
  constructor
  · rintro rfl
    simp
  · rintro ⟨hclass, hcode, rfl, rfl, rfl, rfl, rfl, rfl, rfl, rfl, rfl, hlow⟩
    have hco : bits w 29 3 ++ bits w 25 4 = co := by
      rw [hclass, hcode]
      exact (bits_append_bits co rfl).trans (bits_full co)
    simp only [encMx, ← hco, ← hlow, bits_append_bits]
    exact bits_full w

theorem encSw_eq_iff {k : BitVec 4} {i o q n : BitVec 3} : encSw k i o q n = v ↔
    bits v 12 4 = k ∧ bits v 9 3 = i ∧ bits v 6 3 = o ∧ bits v 3 3 = q ∧ bits v 0 3 = n := by
  constructor
  · rintro rfl
    simp
  · rintro ⟨rfl, rfl, rfl, rfl, rfl⟩
    simp only [encSw, bits_append_bits]
    exact bits_full v

/-- The word of `sw.fork`, whose [5:0] are one field. -/
theorem fork_eq_iff {k : BitVec 4} {i n : BitVec 3} {m : BitVec 6} : k ++ i ++ n ++ m = v ↔
    bits v 12 4 = k ∧ bits v 9 3 = i ∧ bits v 6 3 = n ∧ bits v 0 6 = m := by
  constructor
  · rintro rfl
    refine ⟨?_, ?_, ?_, ?_⟩ <;> exact bits_ext fun j hj => by simp only [BitVec.getLsbD_append]; grind
  · rintro ⟨rfl, rfl, rfl, rfl⟩
    simp only [bits_append_bits]
    exact bits_full v

/-- The word of `sw.steer`. -/
theorem steer_eq_iff {k : BitVec 4} {i t f : BitVec 3} {u : BitVec 1} {l : BitVec 2} :
    k ++ i ++ t ++ u ++ f ++ l = v ↔ bits v 12 4 = k ∧ bits v 9 3 = i ∧ bits v 6 3 = t ∧ bits v 5 1 = u ∧
    bits v 2 3 = f ∧ bits v 0 2 = l := by
  constructor
  · rintro rfl
    refine ⟨?_, ?_, ?_, ?_, ?_, ?_⟩ <;> exact bits_ext fun j hj => by simp only [BitVec.getLsbD_append]; grind
  · rintro ⟨rfl, rfl, rfl, rfl, rfl, rfl⟩
    simp only [bits_append_bits]
    exact bits_full v

/-- The word of `sw.null`. -/
theorem null_eq_iff {k : BitVec 4} {i o n : BitVec 3} {p : BitVec 2} {z : BitVec 1} :
    k ++ i ++ o ++ p ++ z ++ n = v ↔ bits v 12 4 = k ∧ bits v 9 3 = i ∧ bits v 6 3 = o ∧ bits v 4 2 = p ∧
    bits v 3 1 = z ∧ bits v 0 3 = n := by
  constructor
  · rintro rfl
    refine ⟨?_, ?_, ?_, ?_, ?_, ?_⟩ <;> exact bits_ext fun j hj => by simp only [BitVec.getLsbD_append]; grind
  · rintro ⟨rfl, rfl, rfl, rfl, rfl, rfl⟩
    simp only [bits_append_bits]
    exact bits_full v

-- fields that a decoder reads at one go ----------------------------------------------------------------------------

theorem registers_eq : bits w 11 15 = Fld.rd w ++ Fld.ra w ++ Fld.rb w := by
  simp only [Fld.rd, Fld.ra, Fld.rb, bits_append_bits]

theorem registers_pennant_eq : bits w 8 18 = Fld.rd w ++ Fld.ra w ++ Fld.rb w ++ Fld.pn w := by
  simp only [Fld.rd, Fld.ra, Fld.rb, Fld.pn, bits_append_bits]

theorem operands_eq : bits w 10 12 = OpF.dst w ++ OpF.srcA w ++ OpF.srcB w ++ OpF.srcC w := by
  simp only [OpF.dst, OpF.srcA, OpF.srcB, OpF.srcC, bits_append_bits]

theorem switch_low6_eq : bits v 0 6 = bits v 3 3 ++ bits v 0 3 := by simp only [bits_append_bits]

theorem switch_low9_eq : bits v 0 9 = bits v 6 3 ++ bits v 3 3 ++ bits v 0 3 := by simp only [bits_append_bits]

theorem fn11_eq : Fld.fn11 w = bits w 3 8 ++ bits w 0 3 := by simp only [Fld.fn11, bits_append_bits]

theorem bits_fn11 {lo k : Nat} (h : lo + k ≤ 11) : bits (Fld.fn11 w) lo k = bits w lo k :=
  BitVec.extractLsb'_extractLsb'_of_le h

theorem bits_mod {lo k : Nat} (h : lo + k ≤ 3) : bits (OpF.mod w) lo k = bits w lo k :=
  BitVec.extractLsb'_extractLsb'_of_le h

theorem registers_eq_zero (h : bits w 11 15 = 0) : Fld.rd w = 0 ∧ Fld.ra w = 0 ∧ Fld.rb w = 0 :=
  ⟨bits_eq_zero_of_within h (by decide) (by decide), bits_eq_zero_of_within h (by decide) (by decide),
    bits_eq_zero_of_within h (by decide) (by decide)⟩

/-- The immediate of a shift: the selection and the distance, with zero bits above each (R147). -/
theorem shift_immediate {k : BitVec 2} (htop : bits w 10 6 = 0) (hmid : bits w 6 2 = 0)
    (hk : (bits w 8 2).toNat = k.toNat) :
    Fld.imm w = (0 : BitVec 6) ++ k ++ (0 : BitVec 2) ++ bits w 0 6 := by
  rw [← htop, ← hmid, ← BitVec.eq_of_toNat_eq hk]
  simp only [Fld.imm, bits_append_bits]

/-- The function of an `amo` is its operation and its type below two zero bits (R104). -/
theorem amo_function (h : (Fld.fn8 w).toNat < 0x40) : Fld.fn8 w = (0 : BitVec 2) ++ bits w 3 3 ++ bits w 0 3 := by
  have hhigh : bits w 6 2 = 0 := bits_high_eq_zero (lo := 0) (k := 6) h
  rw [← hhigh]
  simp only [Fld.fn8, bits_append_bits]

/-- A mode field that is at most 1 is one bit below two zero bits. -/
theorem mode_one_bit (h : (OpF.mod w).toNat ≤ 1) : OpF.mod w = (0 : BitVec 2) ++ bits w 0 1 := by
  have hhigh : bits w 1 2 = 0 := bits_high_eq_zero (lo := 0) (k := 1) (Nat.lt_succ_of_le h)
  rw [← hhigh]
  simp only [OpF.mod, bits_append_bits]

end Sys2Proof.Words
end

section
/-! A word that a decoder accepts is the encoding of what it gives, table by table. In each table the row's function and
the condition on its reserved fields fix those fields of the word that the encoder writes as constants; the other fields
are the operands. -/

namespace Sys2Proof.Words

open Sys2Proof Sys2Proof.Laws

/-- `P` holds of the instruction that a decoder answers, when it answers one. -/
def Answers (P : Instr → Prop) (r : Except Reject Instr) : Prop := ∀ i, r = .ok i → P i

section Answers

variable {P : Instr → Prop} {i : Instr} {r r' : Except Reject Instr} {e : Reject}

theorem answers_ok (h : P i) : Answers P (.ok i) := by
  rintro _ ⟨⟩
  exact h

theorem answers_error (e : Reject) : Answers P (.error e) := nofun

theorem answers_ite {c : Prop} [Decidable c] (h : c → Answers P r) (h' : ¬ c → Answers P r') :
    Answers P (if c then r else r') := by
  split
  · exact h ‹_›
  · exact h' ‹_›

theorem answers_unless {c : Bool} (h : c = false → Answers P r) : Answers P (if c then .error e else r) :=
  answers_ite (fun _ => answers_error e) fun hc => h (Bool.eq_false_of_not_eq_true hc)

theorem answers_when {c : Bool} (h : c = true → P i) : Answers P (if c then .ok i else .error e) :=
  answers_ite (fun hc => answers_ok (h hc)) fun _ => answers_error e

theorem answers_res0 {c : Bool} (h : c = true → P i) : Answers P (res0 c i) := answers_when h

theorem answers_okField (h : P i) : Answers P (okField i) := answers_when fun _ => h

theorem answers_okOp {z : Bool} (h : z = true → P i) : Answers P (okOp z i) :=
  answers_ite (fun hz => answers_okField (h hz)) fun _ => answers_error _

theorem answers_okPorts {ps : List (BitVec 3)} {z : Bool} (h : z = true → P i) : Answers P (okPorts ps z i) :=
  answers_unless fun hz => answers_when fun _ => h (by simpa using hz)

end Answers

variable {w : W32} {v : Half}

/-- A row of the table of engine commands whose condition fixes reserved fields. -/
theorem answers_command {i : Instr} {z : Bool} {m : BitVec 6} {d a b : Reg} {p : Pen} {f : BitVec 8}
    (he : encode32 i = some (encSE m d a b p f)) (hm : (Fld.major w).toNat = m.toNat)
    (hf : (Fld.fn8 w).toNat = f.toNat) (hz : z = true → Fld.rd w = d ∧ Fld.ra w = a ∧ Fld.rb w = b ∧ Fld.pn w = p) :
    Answers (encode32 · = some w) (res0 z i) := by
  refine answers_res0 fun h => he.trans (congrArg some (encSE_eq_iff.2 ?_))
  obtain ⟨hd, ha, hb, hp⟩ := hz h
  exact ⟨BitVec.eq_of_toNat_eq hm, hd, ha, hb, hp, BitVec.eq_of_toNat_eq hf⟩

/-- A row of a table of operation words. -/
theorem answers_operation {i : Instr} {z : Bool} {co : BitVec 10} {d a b c t r m : BitVec 3} {s : BitVec 1}
    (he : encode32 i = some (encOp co d a b c t r s m)) (hclass : bits w 29 3 = bits co 7 3)
    (hcode : (bits w 22 7).toNat = (bits co 0 7).toNat)
    (hz : z = true → OpF.dst w = d ∧ OpF.srcA w = a ∧ OpF.srcB w = b ∧ OpF.srcC w = c ∧ OpF.ty w = t ∧
      OpF.rnd w = r ∧ OpF.sat w = s ∧ OpF.mod w = m) :
    Answers (encode32 · = some w) (okOp z i) :=
  answers_okOp fun h => he.trans (congrArg some (encOp_eq_iff.2 ⟨hclass, BitVec.eq_of_toNat_eq hcode, hz h⟩))

/-- A row of the table of switch words with two fields in [5:0]. -/
theorem answers_switch {i : Instr} {z : Bool} {ps : List (BitVec 3)} {k : BitVec 4} {x o q n : BitVec 3}
    (he : encode16 i = some (encSw k x o q n)) (hk : (bits v 12 4).toNat = k.toNat)
    (hz : z = true → bits v 9 3 = x ∧ bits v 6 3 = o ∧ bits v 3 3 = q ∧ bits v 0 3 = n) :
    Answers (encode16 · = some v) (okPorts ps z i) :=
  answers_okPorts fun h => he.trans (congrArg some (encSw_eq_iff.2 ⟨BitVec.eq_of_toNat_eq hk, hz h⟩))

theorem decInteger_answers (hm : Fld.major w = 0x01) : Answers (encode32 · = some w) (decInteger w) := by
  unfold decInteger
  split
  case h_17 hf | h_18 hf | h_19 hf => -- clz, ctz, popc
    refine answers_res0 fun hb => congrArg some (encSA_eq_iff.2 ?_)
    exact ⟨hm, rfl, rfl, eq_of_beq hb, BitVec.eq_of_toNat_eq hf⟩
  case h_20 => exact answers_error _
  all_goals
    rename_i hf
    exact answers_ok (congrArg some (encSA_eq_iff.2 ⟨hm, rfl, rfl, rfl, BitVec.eq_of_toNat_eq hf⟩))

theorem decMulDiv_answers (hm : Fld.major w = 0x02) : Answers (encode32 · = some w) (decMulDiv w) := by
  unfold decMulDiv
  split
  case h_9 => exact answers_error _
  all_goals
    rename_i hf
    exact answers_ok (congrArg some (encSA_eq_iff.2 ⟨hm, rfl, rfl, rfl, BitVec.eq_of_toNat_eq hf⟩))

theorem decCsr_answers (hm : Fld.major w = 0x03) : Answers (encode32 · = some w) (decCsr w) := by
  refine answers_unless fun hb => ?_
  have hb : Fld.rb w = 0 := by simpa using hb
  split
  case h_1 hp => -- csrr
    refine answers_unless fun ha => answers_okField (congrArg some (encSE_eq_iff.2 ?_))
    exact ⟨hm, rfl, by simpa using ha, hb, BitVec.eq_of_toNat_eq hp, rfl⟩
  case h_5 => exact answers_error _
  all_goals
    rename_i hp
    exact answers_okField (congrArg some (encSE_eq_iff.2 ⟨hm, rfl, rfl, hb, BitVec.eq_of_toNat_eq hp, rfl⟩))

theorem decShiftImm_answers (hm : Fld.major w = 0x0B) : Answers (encode32 · = some w) (decShiftImm w) := by
  refine answers_unless fun hz => ?_
  obtain ⟨htop, hmid⟩ : bits w 10 6 = 0 ∧ bits w 6 2 = 0 := by simpa using hz
  split
  case h_4 => exact answers_error _
  all_goals
    rename_i hk
    exact answers_ok (congrArg some (encSI_eq_iff.2 ⟨hm, rfl, rfl, shift_immediate htop hmid hk⟩))

theorem decSystem_answers (hm : Fld.major w = 0x2C) : Answers (encode32 · = some w) (decSystem w) := by
  refine answers_unless fun hz => ?_
  obtain ⟨hd, ha, hb⟩ := registers_eq_zero (w := w) (by simpa using hz)
  refine answers_ite (fun htrap => ?_) fun _ => answers_ite (fun hfence => ?_) fun _ => ?_
  · exact answers_ok (congrArg some (encSE_eq_iff.2 ⟨hm, hd, ha, hb, eq_of_beq htrap, rfl⟩))
  · refine answers_okField (congrArg some (encSA_eq_iff.2 ⟨hm, hd, ha, hb, ?_⟩))
    rw [← eq_of_beq hfence, fn11_eq]
  · split
    case h_4 => exact answers_error _
    all_goals
      rename_i hf
      exact answers_ok (congrArg some (encSA_eq_iff.2 ⟨hm, hd, ha, hb, BitVec.eq_of_toNat_eq hf⟩))

theorem decEngine_answers : Answers (encode32 · = some w) (decEngine w) := by
  unfold decEngine
  split
  case h_30 hm hf => -- waitu
    refine answers_unless fun hp => answers_when fun _ => congrArg some (encSE_eq_iff.2 ?_)
    exact ⟨BitVec.eq_of_toNat_eq hm, rfl, rfl, rfl, by simpa using hp, BitVec.eq_of_toNat_eq hf⟩
  case h_34 hm _ _ _ _ => -- amo
    refine answers_ite (fun _ => answers_error _) fun hlow => answers_unless fun hp => answers_okField ?_
    refine congrArg some (encSE_eq_iff.2 ⟨BitVec.eq_of_toNat_eq hm, rfl, rfl, rfl, by simpa using hp, ?_⟩)
    exact amo_function (not_le.1 hlow)
  case h_42 => exact answers_error _
  -- the commands whose operands must not pass s31
  case h_17 hm hf | h_35 hm hf | h_36 hm hf | h_37 hm hf =>
    refine answers_when fun _ => congrArg some (encSE_eq_iff.2 ?_)
    exact ⟨BitVec.eq_of_toNat_eq hm, rfl, rfl, rfl, rfl, BitVec.eq_of_toNat_eq hf⟩
  -- the commands with reserved fields
  case h_4 hm hf | h_6 hm hf | h_7 hm hf | h_8 hm hf | h_11 hm hf | h_12 hm hf | h_14 hm hf | h_15 hm hf | h_20 hm hf
      | h_21 hm hf | h_24 hm hf | h_25 hm hf | h_26 hm hf | h_27 hm hf | h_28 hm hf | h_29 hm hf | h_31 hm hf
      | h_32 hm hf | h_33 hm hf | h_38 hm hf | h_39 hm hf | h_40 hm hf | h_41 hm hf =>
    exact answers_command rfl hm hf (by simp +contextual)
  all_goals
    rename_i hm hf
    refine answers_ok (congrArg some (encSE_eq_iff.2 ?_))
    exact ⟨BitVec.eq_of_toNat_eq hm, rfl, rfl, rfl, rfl, BitVec.eq_of_toNat_eq hf⟩

/-- A word that the sequencer's decoder accepts is the encoding of what it gives. -/
theorem decodeSeq_answers : Answers (encode32 · = some w) (decodeSeq w) := by
  unfold decodeSeq
  split
  case h_1 hm => exact decInteger_answers (BitVec.eq_of_toNat_eq hm)
  case h_2 hm => exact decMulDiv_answers (BitVec.eq_of_toNat_eq hm)
  case h_3 hm => exact decCsr_answers (BitVec.eq_of_toNat_eq hm)
  case h_10 hm => -- lui
    exact answers_res0 fun ha => congrArg some (encSI_eq_iff.2 ⟨BitVec.eq_of_toNat_eq hm, rfl, eq_of_beq ha, rfl⟩)
  case h_11 hm => exact decShiftImm_answers (BitVec.eq_of_toNat_eq hm)
  case h_29 hm | h_30 hm => -- j, jal
    exact answers_ok (congrArg some (encSJ_eq_iff.2 ⟨BitVec.eq_of_toNat_eq hm, rfl⟩))
  case h_32 hm => exact decSystem_answers (BitVec.eq_of_toNat_eq hm)
  case h_33 hm => -- waitp
    refine answers_res0 fun hz => congrArg some (encSE_eq_iff.2 ?_)
    have hz := eq_of_beq hz
    obtain ⟨hd, ha, hb⟩ := registers_eq_zero (bits_eq_zero_of_within hz (l := 11) (k := 15) (by decide) (by decide))
    exact ⟨BitVec.eq_of_toNat_eq hm, hd, ha, hb, bits_eq_zero_of_within hz (by decide) (by decide), rfl⟩
  case h_34 | h_35 | h_36 | h_37 | h_38 | h_39 | h_40 | h_41 => exact decEngine_answers
  case h_42 => exact answers_error _
  all_goals
    rename_i hm
    exact answers_ok (congrArg some (encSI_eq_iff.2 ⟨BitVec.eq_of_toNat_eq hm, rfl, rfl, rfl⟩))

theorem decScratch_answers (hclass : bits w 29 3 = 1) : Answers (encode32 · = some w) (decScratch w) := by
  unfold decScratch
  split
  case h_13 hcode | h_14 hcode => -- cbadv, cbwait
    refine answers_operation rfl hclass hcode fun hz => ?_
    simp only [Bool.and_eq_true, beq_iff_eq, decide_eq_true_eq] at hz
    obtain ⟨⟨⟨⟨hr, hs⟩, hb, hc⟩, ht⟩, hmod⟩ := hz
    exact ⟨rfl, rfl, hb, hc, ht, hr, hs, mode_one_bit hmod⟩
  case h_17 => exact answers_error _
  all_goals
    rename_i hcode
    exact answers_operation rfl hclass hcode (by simp +contextual)

theorem decMemNode_answers (hclass : bits w 29 3 = 2) : Answers (encode32 · = some w) (decMemNode w) := by
  unfold decMemNode
  split
  case h_8 hcode => -- mord
    refine answers_operation rfl hclass hcode fun hz => ?_
    obtain ⟨hlow, hd⟩ : bits w 0 19 = 0 ∧ OpF.dst w = 2 := by simpa using hz
    have hfield {l k : Nat} (hl : l + k ≤ 19) : bits w l k = 0 :=
      bits_eq_zero_of_within hlow (Nat.zero_le l) (by omega)
    exact ⟨hd, hfield (by decide), hfield (by decide), hfield (by decide), hfield (by decide), hfield (by decide),
      hfield (by decide), hfield (by decide)⟩
  case h_20 => exact answers_error _
  all_goals
    rename_i hcode
    exact answers_operation rfl hclass hcode (by simp +contextual)

theorem decMatrix_answers (hclass : bits w 29 3 = 3) : Answers (encode32 · = some w) (decMatrix w) := by
  refine answers_unless fun hlow => ?_
  have hlow : bits w 0 2 = 0 := by simpa using hlow
  split
  case h_3 => exact answers_error _
  all_goals
    rename_i hcode
    refine answers_ok (congrArg some (encMx_eq_iff.2 ?_))
    exact ⟨hclass, BitVec.eq_of_toNat_eq hcode, rfl, rfl, rfl, rfl, rfl, rfl, rfl, rfl, rfl, hlow⟩

theorem decRelay_answers (hclass : bits w 29 3 = 4) : Answers (encode32 · = some w) (decRelay w) := by
  refine answers_unless fun hz => ?_
  obtain ⟨hop, hr⟩ : bits w 10 12 = 0 ∧ OpF.rnd w = 0 := by simpa using hz
  have hd : OpF.dst w = 0 := bits_eq_zero_of_within hop (by decide) (by decide)
  have ha : OpF.srcA w = 0 := bits_eq_zero_of_within hop (by decide) (by decide)
  have hb : OpF.srcB w = 0 := bits_eq_zero_of_within hop (by decide) (by decide)
  have hc : OpF.srcC w = 0 := bits_eq_zero_of_within hop (by decide) (by decide)
  split
  case h_1 hcode => exact answers_operation rfl hclass hcode (by simp +contextual [hd, ha, hb, hc, hr])
  case h_2 hcode =>
    refine answers_okField (congrArg some (encOp_eq_iff.2 ?_))
    exact ⟨hclass, BitVec.eq_of_toNat_eq hcode, hd, ha, hb, hc, rfl, hr, rfl, rfl⟩
  case h_3 => exact answers_error _

/-- A word that the operation-word decoder accepts is the encoding of what it gives. -/
theorem decodeOp_answers : Answers (encode32 · = some w) (decodeOp w) := by
  unfold decodeOp
  split
  case h_1 hclass => exact decScratch_answers (BitVec.eq_of_toNat_eq hclass)
  case h_2 hclass => exact decMemNode_answers (BitVec.eq_of_toNat_eq hclass)
  case h_3 hclass => exact decMatrix_answers (BitVec.eq_of_toNat_eq hclass)
  case h_4 hclass => exact decRelay_answers (BitVec.eq_of_toNat_eq hclass)
  case h_5 => exact answers_error _

/-- A word that the switch-word decoder accepts is the encoding of what it gives. -/
theorem decodeSw_answers : Answers (encode16 · = some v) (decodeSw v) := by
  unfold decodeSw
  split
  case h_2 hk => -- sw.fork
    exact answers_okPorts fun _ => congrArg some (fork_eq_iff.2 ⟨BitVec.eq_of_toNat_eq hk, rfl, rfl, rfl⟩)
  case h_5 hk => -- sw.steer
    exact answers_okPorts fun _ => congrArg some (steer_eq_iff.2 ⟨BitVec.eq_of_toNat_eq hk, rfl, rfl, rfl, rfl, rfl⟩)
  case h_6 hk => -- sw.bound
    exact answers_ite (fun _ => answers_switch rfl hk fun _ => ⟨rfl, rfl, rfl, rfl⟩) fun _ => answers_error _
  case h_7 hk => -- sw.null
    refine answers_unless fun _ => answers_okPorts fun hz => congrArg some (null_eq_iff.2 ?_)
    exact ⟨BitVec.eq_of_toNat_eq hk, rfl, rfl, rfl, eq_of_beq hz, rfl⟩
  case h_8 hk => -- sw.sink
    refine answers_switch rfl hk fun hz => ⟨rfl, ?_⟩
    have hz := eq_of_beq hz
    exact ⟨bits_eq_zero_of_within hz (by decide) (by decide), bits_eq_zero_of_within hz (by decide) (by decide),
      bits_eq_zero_of_within hz (by decide) (by decide)⟩
  case h_10 hk => -- sw.ctl
    refine answers_ite (fun ho => answers_switch rfl hk fun hz => ⟨rfl, eq_of_beq ho, ?_⟩) fun _ => answers_error _
    have hz := eq_of_beq hz
    exact ⟨bits_eq_zero_of_within hz (by decide) (by decide), bits_eq_zero_of_within hz (by decide) (by decide)⟩
  case h_12 => exact answers_error _
  all_goals
    rename_i hk
    exact answers_switch rfl hk (by simp +contextual)

end Sys2Proof.Words
end

section
/-! What an encoder writes is read back. For every instruction the decoder's table is found by the fields that the
encoder writes as constants, and the operands are the fields that Laws/Encoding reads back. -/

namespace Sys2Proof.Words

open Sys2Proof Sys2Proof.Laws Sys2Proof.Claim

/-- The words of `i`, when it is well formed, are read back as `i`; it has one unless it is a command or an event. -/
def RoundTrips (i : Instr) : Prop := WellFormed i = true →
  (∀ w, encode32 i = some w → decodeSeq w = .ok i ∨ decodeOp w = .ok i) ∧
  (∀ h, encode16 i = some h → decodeSw h = .ok i) ∧
  (wordless i = false → (encode32 i).isSome = true ∨ (encode16 i).isSome = true)

variable {i : Instr} {w : W32} {v : Half}

theorem roundTrips_of_decodeSeq (h32 : encode32 i = some w) (h16 : encode16 i = none)
    (h : WellFormed i = true → decodeSeq w = .ok i) : RoundTrips i := by
  intro hwf
  simp [h32, h16, h hwf]

theorem roundTrips_of_decodeOp (h32 : encode32 i = some w) (h16 : encode16 i = none)
    (h : WellFormed i = true → decodeOp w = .ok i) : RoundTrips i := by
  intro hwf
  simp [h32, h16, h hwf]

theorem roundTrips_of_decodeSw (h32 : encode32 i = none) (h16 : encode16 i = some v)
    (h : WellFormed i = true → decodeSw v = .ok i) : RoundTrips i := by
  intro hwf
  simp [h32, h16, h hwf]

theorem roundTrips_of_wordless (h32 : encode32 i = none) (h16 : encode16 i = none) (h : wordless i = true) :
    RoundTrips i := by
  intro _
  simp [h32, h16, h]

theorem okField_of_wellFormed (h : WellFormed i = true) : okField i = .ok i := if_pos h

theorem okOp_of_wellFormed {z : Bool} (hz : z = true) (h : WellFormed i = true) : okOp z i = .ok i :=
  (if_pos hz).trans (if_pos h)

theorem okPorts_of_portOk {ps : List (BitVec 3)} {z : Bool} (hz : z = true) (h : ps.all portOk = true) :
    okPorts ps z i = .ok i := by
  simp [okPorts, hz, h]

-- words of the sequencer that are not read field by field ----------------------------------------------------------

theorem decodeSeq_engine {m : BitVec 6} {d a b : Reg} {p : Pen} {f : BitVec 8} (h : 0x30 ≤ m ∧ m ≤ 0x37) :
    decodeSeq (encSE m d a b p f) = decEngine (encSE m d a b p f) := by
  have hm : m = 0x30 ∨ m = 0x31 ∨ m = 0x32 ∨ m = 0x33 ∨ m = 0x34 ∨ m = 0x35 ∨ m = 0x36 ∨ m = 0x37 := by bv_omega
  obtain rfl | rfl | rfl | rfl | rfl | rfl | rfl | rfl := hm
  · exact decodeSeq_engine30 _ (encSE_major ..)
  · exact decodeSeq_engine31 _ (encSE_major ..)
  · exact decodeSeq_engine32 _ (encSE_major ..)
  · exact decodeSeq_engine33 _ (encSE_major ..)
  · exact decodeSeq_engine34 _ (encSE_major ..)
  · exact decodeSeq_engine35 _ (encSE_major ..)
  · exact decodeSeq_engine36 _ (encSE_major ..)
  · exact decodeSeq_engine37 _ (encSE_major ..)

theorem decodeSeq_trap (n : BitVec 8) : decodeSeq (encSE 0x2C 0 0 0 1 n) = .ok (.trap n) := by
  rw [decodeSeq_decSystem _ (encSE_major ..), decSystem, registers_eq, encSE_rd, encSE_ra, encSE_rb, encSE_fn8]
  exact (if_neg (by decide)).trans (if_pos (congrArg (· == 1) (encSE_pn ..)))

theorem decodeSeq_waitp (m : BitVec 8) : decodeSeq (encSE 0x2D 0 0 0 0 m) = .ok (.waitp m) := by
  rw [decodeSeq, registers_pennant_eq, encSE_major, encSE_rd, encSE_ra, encSE_rb, encSE_pn, encSE_fn8]
  rfl

theorem decodeSeq_fence {s : BitVec 3} (hw : encSA 0x2C 0 0 0 ((2 : BitVec 8) ++ s) = w) :
    decodeSeq w = okField (.fence s) := by
  obtain ⟨hm, hd, ha, hb, hf⟩ := encSA_eq_iff.1 hw
  have hpn : bits w 8 3 = 0 := by
    rw [← bits_fn11 (by decide), hf, bits_append_high (by decide)]
    rfl
  have hfn : bits w 3 8 = 2 := by
    rw [← bits_fn11 (by decide), hf, bits_append_high (by decide)]
    rfl
  have hs : bits w 0 3 = s := by
    rw [← bits_fn11 (by decide), hf, bits_append_low (by decide)]
    exact bits_full s
  rw [decodeSeq_decSystem w hm, decSystem, registers_eq, hd, ha, hb, hpn, hfn, hs]
  rfl

/-- Below 0x40 a function of major 0x34 is none of the four other commands of that major. -/
theorem decEngine_amo (hm : Fld.major w = 0x34) (hf : (Fld.fn8 w).toNat < 0x40) (hp : Fld.pn w = 0) :
    decEngine w = okField (.amo (Fld.rd w) (Fld.ra w) (Fld.rb w) (bits w 3 3) (bits w 0 3)) := by
  replace hm : (Fld.major w).toNat = 0x34 := congrArg BitVec.toNat hm
  unfold decEngine
  split
  case h_34 => simp [hp, not_le.2 hf]
  case h_42 => exact absurd hm ‹_›
  all_goals omega

theorem decodeSeq_amo (d a b : Reg) (o t : BitVec 3) :
    decodeSeq (encSE 0x34 d a b 0 ((0 : BitVec 2) ++ o ++ t)) = okField (.amo d a b o t) := by
  have hf : (Fld.fn8 (encSE 0x34 d a b 0 ((0 : BitVec 2) ++ o ++ t))).toNat < 0x40 := by
    rw [encSE_fn8]
    revert o t
    decide
  rw [decodeSeq_engine (by decide), decEngine_amo (encSE_major ..) hf (encSE_pn ..), encSE_rd, encSE_ra, encSE_rb,
    encSE_kind, encSE_type]

-- operation words and switch words with other fields ----------------------------------------------------------------

theorem encOp_mode {co : BitVec 10} {d a b c t r : BitVec 3} {s m : BitVec 1} :
    bits (encOp co d a b c t r s ((0 : BitVec 2) ++ m)) 0 1 = m := by
  rw [← bits_mod (by decide), encOp_mod, bits_append_low (by decide)]
  exact bits_full m

theorem mode_le_one (m : BitVec 1) : ((0 : BitVec 2) ++ m).toNat ≤ 1 := by
  revert m
  decide

theorem decodeSw_fork {x n : BitVec 3} {m : BitVec 6} (hv : (0x1 : BitVec 4) ++ x ++ n ++ m = v)
    (hx : portOk x = true) : decodeSw v = .ok (.swFork x n m) := by
  obtain ⟨hkind, hin, hslot, hmask⟩ := fork_eq_iff.1 hv
  rw [decodeSw, hkind, hin, hslot, hmask]
  exact okPorts_of_portOk rfl (by simp [hx])

theorem decodeSw_steer {x t f : BitVec 3} {u : BitVec 1} {l : BitVec 2}
    (hv : (0x4 : BitVec 4) ++ x ++ t ++ u ++ f ++ l = v) (hp : portOk x = true ∧ portOk t = true ∧ portOk f = true) :
    decodeSw v = .ok (.swSteer x t u f l) := by
  obtain ⟨hkind, hin, htrue, hu, hfalse, hlane⟩ := steer_eq_iff.1 hv
  rw [decodeSw, hkind, hin, htrue, hu, hfalse, hlane]
  exact okPorts_of_portOk rfl (by simp [hp])

theorem decodeSw_null {x o n : BitVec 3} {p : BitVec 2}
    (hv : (0x6 : BitVec 4) ++ x ++ o ++ p ++ (0 : BitVec 1) ++ n = v) (hp : portOk x = true ∧ portOk o = true)
    (h3 : p ≠ 3) : decodeSw v = .ok (.swNull x o p n) := by
  obtain ⟨hkind, hin, hout, hpolicy, hres, hslot⟩ := null_eq_iff.1 hv
  rw [decodeSw, hkind, hin, hout, hpolicy, hres, hslot]
  exact (if_neg (by simpa using h3)).trans (okPorts_of_portOk rfl (by simp [hp]))

/-- Every instruction's words are read back, one case for the rows of a table that have the same fields. -/
theorem roundTrips (i : Instr) : RoundTrips i := by
  cases i
  -- words of the sequencer
  case add | sub | and | or | xor | andn | sll | srl | sra | slt | sltu | seq | min | minu | max | maxu | clz | ctz
      | popc =>
    refine roundTrips_of_decodeSeq rfl rfl fun _ => ?_
    rw [decodeSeq_decInteger _ (encSA_major ..), decInteger, encSA_fn11, encSA_rd, encSA_ra, encSA_rb]
    rfl
  case mul | mulh | mulhu | mulhsu | div | divu | rem | remu =>
    refine roundTrips_of_decodeSeq rfl rfl fun _ => ?_
    rw [decodeSeq_decMulDiv _ (encSA_major ..), decMulDiv, encSA_fn11, encSA_rd, encSA_ra, encSA_rb]
    rfl
  case csrr | csrw | csrs | csrc =>
    refine roundTrips_of_decodeSeq rfl rfl fun h => ?_
    rw [decodeSeq_decCsr _ (encSE_major ..), decCsr, encSE_pn, encSE_fn8, encSE_rd, encSE_ra, encSE_rb]
    exact okField_of_wellFormed h
  case slli | srli | srai =>
    refine roundTrips_of_decodeSeq rfl rfl fun _ => ?_
    rw [decodeSeq_decShiftImm _ (encSI_major ..), decShiftImm, encSI_top, encSI_select, encSI_mid, encSI_low, encSI_rd,
      encSI_ra]
    rfl
  case addi | andi | ori | xori | slti | sltiu | lui | lb | lbu | lh | lhu | lw | lwu | ld | stb | sth | stw | std
      | beq | bne | blt | bge | bltu | bgeu | jalr =>
    refine roundTrips_of_decodeSeq rfl rfl fun _ => ?_
    rw [decodeSeq, encSI_major, encSI_rd, encSI_ra, encSI_imm]
    rfl
  case j | jal =>
    refine roundTrips_of_decodeSeq rfl rfl fun _ => ?_
    rw [decodeSeq, encSJ_major, encSJ_off]
    rfl
  case ifence | tret | kend => exact roundTrips_of_decodeSeq rfl rfl fun _ => rfl
  case trap n => exact roundTrips_of_decodeSeq rfl rfl fun _ => decodeSeq_trap n
  case waitp m => exact roundTrips_of_decodeSeq rfl rfl fun _ => decodeSeq_waitp m
  case fence => exact roundTrips_of_decodeSeq rfl rfl fun h => (decodeSeq_fence rfl).trans (okField_of_wellFormed h)
  case cfgFetch | cfgPlace | cfgStitch | cfgStart | cfgSplice | cfgDrain | cfgEvict | cfgPatch | cfgInv | sxBind | sxGo
      | sxBar | sxMcast | sxStop | sxQuery | sxSparse | sxWbload | sxTile | mxZero | mxMove | mxLdsh | mxLdwd | mxTag
      | bsQuery | bsSeed | bsPolicy | bsUniform | bsRound | wcancel | cpin | cunpin | nbDrain | ctxYield | ctxMark
      | ctxFault =>
    refine roundTrips_of_decodeSeq rfl rfl fun _ => ?_
    rw [decodeSeq_engine (by decide), decEngine, encSE_major, encSE_fn8, encSE_rd, encSE_ra, encSE_rb, encSE_pn]
    rfl
  case sxRemote | waitu | embPool | embGather | embScatadd =>
    refine roundTrips_of_decodeSeq rfl rfl fun h => ?_
    rw [decodeSeq_engine (by decide), decEngine, encSE_major, encSE_fn8, encSE_rd, encSE_ra, encSE_rb, encSE_pn]
    exact if_pos h
  case amo => exact roundTrips_of_decodeSeq rfl rfl fun h => (decodeSeq_amo ..).trans (okField_of_wellFormed h)
  -- operation words
  case scld | scst | scamoAdd | scamoMin | scamoMax | scamoAnd | scamoOr | scamoXor | scamoSwap | scamoCas | cbput
      | cbget | mtfill | mttag =>
    refine roundTrips_of_decodeOp rfl rfl fun h => ?_
    rw [decodeOp_decScratch _ (encOp_class ..), decScratch, encOp_code, encOp_dst, encOp_srcA, encOp_srcB, encOp_srcC,
      encOp_ty, encOp_rnd, encOp_sat, encOp_mod]
    exact okOp_of_wellFormed rfl h
  case cbadv | cbwait =>
    refine roundTrips_of_decodeOp rfl rfl fun h => ?_
    rw [decodeOp_decScratch _ (encOp_class ..), decScratch, encOp_code, encOp_dst, encOp_srcA, encOp_srcB, encOp_srcC,
      encOp_ty, encOp_rnd, encOp_sat, encOp_mod, encOp_mode]
    exact okOp_of_wellFormed (by simpa using mode_le_one _) h
  case mld | mst | mldNc | mstNc | mgath | mscat | mfence | mflush | minv | mamoAdd | mamoMin | mamoMax | mamoAnd
      | mamoOr | mamoXor | mamoSwap | mamoCas | mwaitu =>
    refine roundTrips_of_decodeOp rfl rfl fun h => ?_
    rw [decodeOp_decMemNode _ (encOp_class ..), decMemNode, encOp_code, encOp_dst, encOp_srcA, encOp_srcB, encOp_srcC,
      encOp_ty, encOp_rnd, encOp_sat, encOp_mod]
    exact okOp_of_wellFormed rfl h
  case mord | nbFwd => exact roundTrips_of_decodeOp rfl rfl fun _ => rfl
  case mxMma | mxMmas =>
    refine roundTrips_of_decodeOp rfl rfl fun _ => ?_
    rw [decodeOp_decMatrix _ (encMx_class ..), decMatrix, encMx_low, encMx_code, encMx_a, encMx_g, encMx_h, encMx_w,
      encMx_n, encMx_b, encMx_z, encMx_c, encMx_k]
    rfl
  case nbScan =>
    refine roundTrips_of_decodeOp rfl rfl fun h => ?_
    rw [decodeOp_decRelay _ (encOp_class ..), decRelay, operands_eq, encOp_dst, encOp_srcA, encOp_srcB, encOp_srcC,
      encOp_code, encOp_ty, encOp_rnd, encOp_sat, encOp_mod]
    exact okField_of_wellFormed h
  -- switch words
  case swRoute | swMerge | swGate | swSrc | swOrd =>
    refine roundTrips_of_decodeSw rfl rfl fun h => ?_
    rw [decodeSw, encSw_kind, encSw_in, encSw_out, encSw_mid, encSw_low]
    exact okPorts_of_portOk rfl (by simp_all [WellFormed])
  case swBound =>
    refine roundTrips_of_decodeSw rfl rfl fun h => ?_
    rw [decodeSw, encSw_kind, encSw_in, encSw_out, encSw_mid, encSw_low]
    exact (if_pos (by simp_all [WellFormed])).trans (okPorts_of_portOk rfl (by simp_all [WellFormed]))
  case swSink =>
    refine roundTrips_of_decodeSw rfl rfl fun h => ?_
    rw [decodeSw, switch_low9_eq, encSw_kind, encSw_in, encSw_out, encSw_mid, encSw_low]
    exact okPorts_of_portOk rfl (by simp_all [WellFormed])
  case swCtl =>
    refine roundTrips_of_decodeSw rfl rfl fun h => ?_
    rw [decodeSw, switch_low6_eq, encSw_kind, encSw_in, encSw_out, encSw_mid, encSw_low]
    exact okPorts_of_portOk rfl (by simp_all [WellFormed])
  case swFork => exact roundTrips_of_decodeSw rfl rfl fun h => decodeSw_fork rfl (by simp_all [WellFormed])
  case swSteer => exact roundTrips_of_decodeSw rfl rfl fun h => decodeSw_steer rfl (by simp_all [WellFormed])
  case swNull =>
    exact roundTrips_of_decodeSw rfl rfl fun h =>
      decodeSw_null rfl (by simp_all [WellFormed]) (by simp_all [WellFormed])
  -- commands and events
  all_goals exact roundTrips_of_wordless rfl rfl rfl

/-- Settles O4: every case of the instruction is read back, and every table of a decoder has the encoder's words alone. -/
theorem decodeOfEncodeIsTheInstruction : Obligations.DecodeOfEncodeIsTheInstruction := by
  unfold Obligations.DecodeOfEncodeIsTheInstruction
  exact ⟨roundTrips, fun _ => decodeSeq_answers, fun _ => decodeOp_answers, fun _ => decodeSw_answers⟩

/-- Refutes O5: the switch-word decoder accepts the word 0x0000, `sw.route` from port N to port N, which R118 refuses
because its output port equals its input port; the decoder leaves the comparison of ports to the placement. -/
theorem not_decodedInstructionsAreWellFormed : ¬ Obligations.DecodedInstructionsAreWellFormed := by
  unfold Obligations.DecodedInstructionsAreWellFormed
  rintro ⟨-, -, hswitch⟩
  have haccepted : decodeSw 0x0000 = .ok (.swRoute 0 0 0) := rfl
  exact absurd (hswitch _ _ haccepted) (by decide)

end Sys2Proof.Words
end

section
/-! An engine command of a sequencer that has no other outstanding, from its issue to its engine's answer (R105, R106, R158). -/

namespace Sys2Proof.Commands

open Sys2Proof Sys2Proof.Machine Sys2Proof.Claim Sys2Proof.Laws

@[simp] theorem coreAt_updCore_same (s : State) (n : Nat) (f : Core → Core) : coreAt (updCore s n f) n = f (coreAt s n) := by
  simp [updCore]

theorem cur_eq_coreAt {s : State} {n : Nat} (h : s.core = n) : cur s = coreAt s n := by rw [cur, h]

-- the engine's answer ---------------------------------------------------------------------------------------------

section Serve
variable {s v : State} {n k : Nat} {m : Cmd} {x : Word}

theorem serveCmd_of_refuse (hpen : pennantFull (coreAt s n) m.pen = false) (hj : judge s n m = (v, .refuse k)) :
    (serveCmd s n m).1 = demandFails (refuseCmd v n m k) n m k := by
  simp [serveCmd, hpen, hj]

theorem serveCmd_of_take (hpen : pennantFull (coreAt s n) m.pen = false) (hj : judge s n m = (v, .take x)) :
    (serveCmd s n m).1 = runCmd (takeCmd v n m x) n m := by
  simp [serveCmd, hpen, hj]

theorem demandFails_of_no_demand (h : (coreAt s n).bs.demand = []) : demandFails s n m k = s := by
  simp [demandFails, h]

/-- The sequencer once command `m` of its core is accepted with the answer `x` (R106, R158). -/
def takenSeq (q : Seq) (m : Cmd) (x : Word) : Seq :=
  match m.pen with
  | some p => setPennant (setX q m.rd x) p (pennant (setX q m.rd x) p + 1)
  | none => setX q m.rd x

/-- Acceptance touches the sequencer and the command, nothing else of the core. -/
theorem coreAt_takeCmd : coreAt (takeCmd v n m x) n = { coreAt v n with
    seq := takenSeq (coreAt v n).seq m x
    cmds := mapWhere (mapWhere (coreAt v n).cmds (fun k => k.id == m.id) fun k => { k with rdWait := false })
      (fun k => k.id == m.id) fun k => { k with phase := .running } } := by
  cases hp : m.pen <;> simp [takeCmd, answerCmd, updCmd, takenSeq, hp]

theorem coreAt_takeCmd_cmds (h : (coreAt v n).cmds = [m]) :
    (coreAt (takeCmd v n m x) n).cmds = [{ m with rdWait := false, phase := .running }] := by
  simp [coreAt_takeCmd, mapWhere, h]

theorem coreAt_takeCmd_pc : (coreAt (takeCmd v n m x) n).seq.pc = (coreAt v n).seq.pc := by
  rw [coreAt_takeCmd]
  cases hp : m.pen <;> simp [takenSeq, hp]

theorem coreAt_takeCmd_rd (h : m.rd ≠ 0) : getX (coreAt (takeCmd v n m x) n).seq m.rd = x := by
  rw [coreAt_takeCmd]
  cases hp : m.pen <;> simp only [takenSeq, hp] <;> exact getX_setX_same _ x h

theorem coreAt_takeCmd_coh : (coreAt (takeCmd v n m x) n).coh = (coreAt v n).coh := by rw [coreAt_takeCmd]

theorem coreAt_takeCmd_entries : (coreAt (takeCmd v n m x) n).entries = (coreAt v n).entries := by rw [coreAt_takeCmd]

theorem coreAt_takeCmd_regions : (coreAt (takeCmd v n m x) n).regions = (coreAt v n).regions := by rw [coreAt_takeCmd]

end Serve

-- issue -----------------------------------------------------------------------------------------------------------

section Issue
variable {s v : State} {d : Reg} {rs : List Reg} {p : Option Nat} {op : Instr} {h : Cohort} {k : Nat} {x : Word}

@[simp] theorem coreAt_issued :
    coreAt (issued s d rs p op) s.core = issueCore (ran s) (command s d rs p op) := by
  simp [issued, setCur]

theorem cmds_issued (hA : Alone s p h) : (coreAt (issued s d rs p op) s.core).cmds = [command s d rs p op] := by
  obtain ⟨-, hcmds, -⟩ := hA
  simp [issueCore, ran, hcmds]

theorem coh_issued (hA : Alone s p h) : (coreAt (issued s d rs p op) s.core).coh = some h := by
  obtain ⟨-, -, -, hcoh, -⟩ := hA
  simpa [issueCore, ran] using hcoh

theorem pennantFull_issued (hA : Alone s p h) :
    pennantFull (coreAt (issued s d rs p op) s.core) (command s d rs p op).pen = false := by
  obtain ⟨-, -, hpen, -⟩ := hA
  rw [coreAt_issued]
  exact hpen

/-- The command is the only one in the queues, so all that its issue does is what its engine does with it. -/
theorem issue_eq_serveCmd (hA : Alone s p h)
    (hs : ∀ m ∈ (coreAt (serveCmd (issued s d rs p op) s.core (command s d rs p op)).1 s.core).cmds, m.rdWait = false) :
    issue d rs p op s = (serveCmd (issued s d rs p op) s.core (command s d rs p op)).1 := by
  have hqueue := cmds_issued (d := d) (rs := rs) (op := op) hA
  have hcohort := coh_issued (d := d) (rs := rs) (op := op) hA
  obtain ⟨hissue, hcmds, hpen, -, hlive, -⟩ := hA
  have hbusy : (d :: rs).any (regBusy (cur s)) = false := by simp [regBusy, hcmds]
  have hroom : ¬ pennantFull (ran s) p = true := Bool.eq_false_iff.1 hpen
  have haccept : acceptable (coreAt (issued s d rs p op) s.core) (command s d rs p op) = true := by
    have hown : (command s d rs p op).prev = false := rfl
    simp only [acceptable, cmdCohort, hown, hcohort]
    simp [command, newCmd, hlive]
  rw [issue, onIssue_ready _ _ _ hissue hbusy]
  exact (if_neg hroom).trans (pump_single _ _ _ hqueue rfl haccept hs)

theorem setX_with_pc (q : Seq) (pc : Word) : setX { q with pc := pc } d x = { setX q d x with pc := pc } := by
  unfold setX
  split <;> rfl

/-- A refused command leaves its status in rd and the pc behind it, and nothing else (R106). -/
theorem refuseCmd_issued (hA : Alone s p h) :
    refuseCmd (issued s d rs p op) s.core (command s d rs p op) k = replied s d (BitVec.ofNat 64 k) := by
  obtain ⟨-, hcmds, -⟩ := hA
  have hcore : ∀ (u : State) (c : Core) (m : Cmd), c.cmds = [m] →
      refuseCmd (setCore u s.core c) s.core m k =
        setCore u s.core { c with seq := setX c.seq m.rd (BitVec.ofNat 64 k), cmds := [] } := by
    intro u c m hc
    simp [refuseCmd, answerCmd, updCmd, updCore_setCore, mapWhere, hc]
  rw [issued, setCur, hcore _ _ _ (by simp [issueCore, ran, hcmds])]
  simp only [issueCore, setX_with_pc, replied, writes, withSeq, setCur]
  simp [setCore, ran, hcmds, command, newCmd]

theorem coreAt_replied : coreAt (replied s d x) s.core =
    { ran s with seq := { setX (ran s).seq d x with pc := (ran s).seq.pc + 4 } } := cur_setCur s _

/-- A command that its engine refuses where it finds it answers its status (R106). -/
theorem issue_refused (hA : Alone s p h)
    (hj : judge (issued s d rs p op) s.core (command s d rs p op) = (issued s d rs p op, .refuse k)) :
    issue d rs p op s = replied s d (BitVec.ofNat 64 k) := by
  obtain ⟨-, hcmds, -, -, -, -, hdemand⟩ := id hA
  have hserve : (serveCmd (issued s d rs p op) s.core (command s d rs p op)).1 = replied s d (BitVec.ofNat 64 k) := by
    rw [serveCmd_of_refuse (pennantFull_issued hA) hj, refuseCmd_issued hA, demandFails_of_no_demand]
    rw [coreAt_replied]
    exact hdemand
  rw [issue_eq_serveCmd hA (by simp [hserve, coreAt_replied, ran, hcmds]), hserve]

/-- A command that its engine takes begins its work, when that leaves no command without its answer (R106). -/
theorem issue_taken (hA : Alone s p h)
    (hj : judge (issued s d rs p op) s.core (command s d rs p op) = (v, .take x))
    (hs : ∀ m ∈ (coreAt (runCmd (takeCmd v s.core (command s d rs p op) x) s.core (command s d rs p op)) s.core).cmds,
      m.rdWait = false) :
    issue d rs p op s = runCmd (takeCmd v s.core (command s d rs p op) x) s.core (command s d rs p op) := by
  have hserve := serveCmd_of_take (pennantFull_issued hA) hj
  rw [issue_eq_serveCmd hA (by rwa [hserve]), hserve]

end Issue
end Sys2Proof.Commands
end

section
/-! What a translation and a fault leave of a core. Both can write to memory or end a cohort (R11, R35, R186, R391, R399); neither
touches a core's commands, registers, regions, store entries or units. -/

namespace Sys2Proof.Lasting

open Sys2Proof Sys2Proof.Machine Sys2Proof.Laws

/-- A cohort whether or not it has ended. -/
def unended (h : Cohort) : Cohort := { h with fatal := false }

/-- A core but for its walk cache and for what the end of a cohort changes. -/
def lasting (c : Core) : Core :=
  { c with seq := { c.seq with st := .idle, waitu := none }, coh := c.coh.map unended, prev := c.prev.map unended, walk := [] }

/-- From `s` to `t` no core changes but in its walk cache and by the end of a cohort. -/
def Lasts (s t : State) : Prop := t.core = s.core ∧ ∀ n, lasting (coreAt t n) = lasting (coreAt s n)

theorem Lasts.refl (s : State) : Lasts s s := ⟨rfl, fun _ => rfl⟩

theorem Lasts.trans {s t u : State} (h : Lasts s t) (g : Lasts t u) : Lasts s u :=
  ⟨g.1.trans h.1, fun n => (g.2 n).trans (h.2 n)⟩

theorem Lasts.of_cores {s t u : State} (h : Lasts s t) (hcore : u.core = t.core) (hcores : u.cores = t.cores) : Lasts s u :=
  ⟨hcore.trans h.1, fun n => by rw [← h.2 n, coreAt, coreAt, hcores]⟩

theorem Lasts.foldl {α : Type} {f : State → α → State} (hf : ∀ s x, Lasts s (f s x)) (l : List α) (s : State) :
    Lasts s (l.foldl f s) := by
  induction l generalizing s with
  | nil => exact .refl s
  | cons x l ih => exact (hf s x).trans (ih _)

theorem lasts_setCore {s : State} {n : Nat} {c : Core} (h : lasting c = lasting (coreAt s n)) : Lasts s (setCore s n c) := by
  refine ⟨rfl, fun k => ?_⟩
  by_cases hk : k = n
  · rw [hk, coreAt_setCore_same, h]
  · rw [coreAt_setCore_other s c hk]

section Fields
variable {s t : State} (h : Lasts s t) (n : Nat)
include h

theorem Lasts.core : t.core = s.core := h.1
theorem Lasts.cmds : (coreAt t n).cmds = (coreAt s n).cmds := congrArg (fun c => c.cmds) (h.2 n)
theorem Lasts.entries : (coreAt t n).entries = (coreAt s n).entries := congrArg (fun c => c.entries) (h.2 n)
theorem Lasts.regions : (coreAt t n).regions = (coreAt s n).regions := congrArg (fun c => c.regions) (h.2 n)
theorem Lasts.sites : (coreAt t n).sites = (coreAt s n).sites := congrArg (fun c => c.sites) (h.2 n)
theorem Lasts.pc : (coreAt t n).seq.pc = (coreAt s n).seq.pc := congrArg (fun c => c.seq.pc) (h.2 n)
theorem Lasts.getX (r : Reg) : getX (coreAt t n).seq r = getX (coreAt s n).seq r :=
  congrArg (fun c => Machine.getX c.seq r) (h.2 n)

/-- The cohort stays on its core, with what it was launched for. -/
theorem Lasts.launch {k : Cohort} (hk : (coreAt s n).coh = some k) :
    ∃ k', (coreAt t n).coh = some k' ∧ k'.launch = k.launch := by
  have hcoh : (coreAt t n).coh.map unended = (coreAt s n).coh.map unended := congrArg (fun c => c.coh) (h.2 n)
  rw [hk, Option.map_some, Option.map_eq_some_iff] at hcoh
  obtain ⟨k', hk', he⟩ := hcoh
  exact ⟨k', hk', congrArg (fun h => h.launch) he⟩

end Fields

-- faults ----------------------------------------------------------------------------------------------------------

theorem lasts_putRecord (s : State) (x : Nat) (lid : W32) (l : Option Nat) (r : Record) : Lasts s (putRecord s x lid l r) :=
  (Lasts.refl s).of_cores rfl rfl

theorem lasts_setSlice (s : State) (n : Nat) (x : Slice) : Lasts s (setSlice s n x) := (Lasts.refl s).of_cores rfl rfl

theorem lasts_unchargedError (s : State) (die : Nat) : Lasts s (unchargedError s die) := (Lasts.refl s).of_cores rfl rfl

theorem lasts_dropWatches (s : State) (h : Cohort) : Lasts s (dropWatches s h) := (Lasts.refl s).of_cores rfl rfl

theorem lasting_ended {c : Core} {h : Cohort} (hcoh : c.coh = some h) :
    lasting { c with coh := some { h with fatal := true }, seq := { c.seq with st := .dead, waitu := none } } = lasting c := by
  cases c
  cases hcoh
  rfl

theorem lasting_prev_ended {c : Core} {h : Cohort} (hprev : c.prev = some h) :
    lasting { c with prev := some { h with fatal := true } } = lasting c := by
  cases c
  cases hprev
  rfl

theorem lasts_endCohort (s : State) (n : Nat) (own : Bool) : Lasts s (endCohort s n own) := by
  cases hcoh : (if own then (coreAt s n).coh else fabricCohort (coreAt s n)) with
  | none => simp only [endCohort, hcoh, Lasts.refl]
  | some h =>
    simp only [endCohort, hcoh]
    refine ((lasts_setCore ?_).trans (lasts_dropWatches _ h)).of_cores rfl rfl
    split
    · rename_i hmine
      have hown : (coreAt s n).coh = some h := by
        cases own
        · have hprev : (coreAt s n).prev = none := by simpa using hmine
          simpa [fabricCohort, hprev] using hcoh
        · exact hcoh
      exact lasting_ended hown
    · rename_i hmine
      obtain ⟨rfl, k, hprev⟩ : own = false ∧ ∃ k, (coreAt s n).prev = some k := by
        simpa [Option.ne_none_iff_exists'] using hmine
      obtain rfl : k = h := by simpa [fabricCohort, hprev] using hcoh
      exact lasting_prev_ended hprev

theorem lasts_faultAt (s : State) (n : Nat) (own : Bool) (r : Record) : Lasts s (faultAt s n own r) := by
  cases hcoh : (if own then (coreAt s n).coh else fabricCohort (coreAt s n)) with
  | none => simp only [faultAt, hcoh, Lasts.refl]
  | some h =>
    simp only [faultAt, hcoh]
    split_ifs
    · exact .refl s
    · exact (lasts_putRecord _ _ _ _ _).trans (lasts_endCohort _ n own)
    · exact lasts_putRecord _ _ _ _ _

-- writes at home --------------------------------------------------------------------------------------------------

theorem lasts_endWatcher (s : State) (e : Watch) : Lasts s (endWatcher s e) := by
  unfold endWatcher
  split
  · exact lasts_endCohort s _ _
  · refine Lasts.trans (.of_cores (.refl s) rfl rfl) (Lasts.foldl (fun s h => ?_) _ _)
    exact (lasts_dropWatches s h).of_cores rfl rfl

theorem lasts_bucketError (s : State) (n a : Nat) : Lasts s (bucketError s n a) :=
  (((Lasts.foldl (fun s _ => lasts_putRecord s _ _ _ _) _ s).trans (lasts_setSlice _ n _)).trans
    (Lasts.foldl lasts_endWatcher _ _)).trans (lasts_unchargedError _ _)

theorem lasts_walkBuckets (s : State) (pa : Nat) : Lasts s (walkBuckets s pa) := by
  unfold walkBuckets
  dsimp only
  split
  · exact Lasts.foldl (fun s a => lasts_bucketError s _ a) _ s
  · exact .refl s

theorem lasts_satisfyWatches (s : State) (hit : Watch → Bool) : Lasts s (satisfyWatches s hit) := by
  unfold satisfyWatches
  dsimp only
  split
  · exact .refl s
  · exact (Lasts.refl s).of_cores rfl rfl

/-- A write at home can end the cohorts that a spill error hits (R397, R399). -/
theorem lasts_placeWrite (s : State) (pa : Nat) (bs : List Byte) : Lasts s (placeWrite s pa bs) := by
  have hstore : Lasts s { s with mem := memWrite s.mem pa bs } := (Lasts.refl s).of_cores rfl rfl
  unfold placeWrite
  dsimp only
  split
  · exact hstore
  · exact (hstore.trans (lasts_walkBuckets _ _)).trans (lasts_satisfyWatches _ _)

-- translation -----------------------------------------------------------------------------------------------------

theorem Lasts.ite {P : Prop} [Decidable P] {s t u : State} (ht : Lasts s t) (hu : Lasts s u) : Lasts s (if P then t else u) := by
  split
  · exact ht
  · exact hu

theorem Lasts.ite_fst {α : Type} {P : Prop} [Decidable P] {s : State} {x y : State × α} (hx : Lasts s x.1) (hy : Lasts s y.1) :
    Lasts s (if P then x else y).1 := by
  rw [apply_ite Prod.fst]
  exact hx.ite hy

/-- A walk goes on to the next table, writes the A and D bits of its leaf, or stops where it meets a fault. -/
theorem lasts_walkFrom (fuel : Nat) (s : State) (wc : WalkCache) (va : Nat) (need : Need) (lvl t : Nat) :
    Lasts s (walkFrom fuel s wc va need lvl t).1 := by
  have stop := Lasts.refl s
  induction fuel generalizing wc lvl t with
  | zero => exact stop
  | succ fuel ih =>
    rw [walkFrom]
    have hleaf : ∀ (P : Prop) [Decidable P] (a : Nat) (bs : List Byte), Lasts s (if P then s else placeWrite s a bs) :=
      fun P _ a bs => stop.ite (lasts_placeWrite s a bs)
    exact .ite_fst stop (.ite_fst stop (.ite_fst stop (.ite_fst stop
      (.ite_fst (.ite_fst stop (.ite_fst stop (hleaf _ _ _))) (ih _ _ _)))))

theorem lasts_walk (s : State) (wc : WalkCache) (root : Nat) (va : Word) (need : Need) :
    Lasts s (walk s wc root va need).1 := by
  unfold walk
  split
  · exact .refl s
  · exact lasts_walkFrom _ _ _ _ _ _ _

theorem lasts_translateAt (s : State) (n : Nat) (va : Word) (need : Need) : Lasts s (translateAt s n va need).1 :=
  (lasts_walk s _ _ va need).trans (lasts_setCore rfl)

end Sys2Proof.Lasting
end

section
/-! The configuration loader's answers and work (R170 to R176, R181, R194): what it looks at before it accepts a command, the image
that a bound word names, and what loading, closing and splicing leave of a core. -/

namespace Sys2Proof.Loader

open Sys2Proof Sys2Proof.Machine Sys2Proof.Claim Sys2Proof.Laws Sys2Proof.Lasting Sys2Proof.Commands

-- the core in the course of a command -------------------------------------------------------------------------------

/-- `z` follows `s` by the acceptance of a command with rd `d` and the answer 0; no command of the core waits for its answer. -/
structure Accepted (s : State) (d : Reg) (z : State) : Prop where
  core : z.core = s.core
  answered : ∀ m ∈ (coreAt z s.core).cmds, m.rdWait = false
  rd : d ≠ 0 → getX (coreAt z s.core).seq d = 0
  pc : (coreAt z s.core).seq.pc = (cur s).seq.pc + 4

section Accepted
variable {s z u : State} {d : Reg} (hz : Accepted s d z)
include hz

theorem Accepted.lasts (hu : Lasts z u) : Accepted s d u :=
  ⟨hu.core.trans hz.core, by rw [hu.cmds]; exact hz.answered, by rw [hu.getX]; exact hz.rd, (hu.pc _).trans hz.pc⟩

theorem Accepted.setCore {c : Core} (hseq : c.seq = (coreAt z s.core).seq) (hcmds : c.cmds = (coreAt z s.core).cmds) :
    Accepted s d (setCore z s.core c) := by
  obtain ⟨hcore, hanswered, hrd, hpc⟩ := hz
  constructor
  · exact hcore
  · rwa [coreAt_setCore_same, hcmds]
  · rwa [coreAt_setCore_same, hseq]
  · rwa [coreAt_setCore_same, hseq]

theorem Accepted.setEntry (e : Nat) (x : Option Entry) : Accepted s d (setEntry z s.core e x) := hz.setCore rfl rfl

theorem Accepted.finishCmd (id : Nat) : Accepted s d (finishCmd z s.core id) := by
  obtain ⟨hcore, hanswered, hrd, hpc⟩ := hz
  refine ⟨hcore, ?_, by simpa [Machine.finishCmd] using hrd, by simpa [Machine.finishCmd] using hpc⟩
  simp only [Machine.finishCmd, coreAt_updCore_same, List.mem_map, List.mem_filter]
  rintro _ ⟨m, ⟨hm, -⟩, rfl⟩
  split
  · exact hanswered m hm
  · exact hanswered m hm

theorem Accepted.X (h : d ≠ 0) : X z d = 0 := by
  rw [Claim.X, cur_eq_coreAt hz.core]
  exact hz.rd h

theorem Accepted.cur_pc : (cur z).seq.pc = (cur s).seq.pc + 4 := by
  rw [cur_eq_coreAt hz.core]
  exact hz.pc

end Accepted

theorem accepted_takeCmd {s v : State} {d : Reg} {rs : List Reg} {p : Option Nat} {op : Instr} {h : Cohort} (hA : Alone s p h)
    (hv : Lasts (issued s d rs p op) v) : Accepted s d (takeCmd v s.core (command s d rs p op) 0) := by
  refine ⟨hv.core, ?_, fun hd => coreAt_takeCmd_rd hd, ?_⟩
  · rw [coreAt_takeCmd_cmds (by rw [hv.cmds, cmds_issued hA])]
    simp
  · rw [coreAt_takeCmd_pc, hv.pc, coreAt_issued]
    rfl

/-- A loader command that has been taken begins its work, and its issue ends there. -/
theorem issue_loader {s v : State} {d : Reg} {rs : List Reg} {p : Option Nat} {op : Instr} {h : Cohort} (hA : Alone s p h)
    (hop : engineOf op = 0)
    (hj : judgeLoader (issued s d rs p op) s.core (command s d rs p op) = (v, .take 0))
    (hz : Accepted s d (runLoader (takeCmd v s.core (command s d rs p op) 0) s.core (command s d rs p op))) :
    issue d rs p op s = runLoader (takeCmd v s.core (command s d rs p op) 0) s.core (command s d rs p op) := by
  have hop' : engineOf (command s d rs p op).op = 0 := hop
  have hrun : ∀ u, runCmd u s.core (command s d rs p op) = runLoader u s.core (command s d rs p op) := by
    intro u
    simp only [runCmd, hop']
  rw [issue_taken hA (v := v) (x := 0) (by simp only [judge, hop', hj]) (by rw [hrun]; exact hz.answered), hrun]

/-- A loader command that is refused answers its status. -/
theorem issue_loader_refused {s : State} {d : Reg} {rs : List Reg} {p : Option Nat} {op : Instr} {h : Cohort} {k : Nat}
    (hA : Alone s p h) (hop : engineOf op = 0)
    (hj : judgeLoader (issued s d rs p op) s.core (command s d rs p op) = (issued s d rs p op, .refuse k)) :
    issue d rs p op s = replied s d (BitVec.ofNat 64 k) := by
  have hop' : engineOf (command s d rs p op).op = 0 := hop
  exact issue_refused hA (by simp only [judge, hop', hj])

/-- `cfg.splice`, or `cfg.place`. -/
def placing (splice : Bool) (d a b : Reg) (p : Pen) : Instr := if splice then .cfgSplice d a b p else .cfgPlace d a b p

/-- Region `r` is one that `cfg.splice`, or `cfg.place`, may take now (R171, R181). -/
def MayPlace (c : Core) (r : Nat) (splice : Bool) : Prop :=
  if splice then ∃ g, mapGet c.regions r = some g ∧ g.phase ≠ .splicing else mapGet c.regions r = none

theorem placing_ne_start (splice : Bool) {m : Cmd} {d a b : Reg} {p : Pen} (hop : m.op = placing splice d a b p)
    (d' a' b' : Reg) : m.op ≠ .cfgStart d' a' b' := by
  cases splice <;> simp [hop, placing]

-- the loader's checks -----------------------------------------------------------------------------------------------

section Judge
variable {s : State} {n : Nat} {m : Cmd} {d a b : Reg} {p : Pen} (hcmds : (coreAt s n).cmds = [m])
  (hok : loaderOperandBad m = false)
include hcmds

theorem not_loaderWaits (hop : ∀ d a b, m.op ≠ .cfgStart d a b) : loaderWaits (coreAt s n) m = false := by
  have hearlier : earlierLoader (coreAt s n) m = [] := by simp [earlierLoader, hcmds]
  unfold loaderWaits
  rw [hearlier]
  split
  · exact absurd ‹m.op = _› (hop _ _ _)
  · rfl

omit hcmds in
theorem not_chainWaits (c : Core) (hop : ∀ d a b, m.op ≠ .cfgStart d a b) : chainWaits s c m = false := by
  unfold chainWaits
  split
  · exact absurd ‹m.op = _› (hop _ _ _)
  · rfl

include hok

theorem judgeLoader_fetch (hop : m.op = .cfgFetch d a b p) : judgeLoader s n m = fetchVerdict s n m := by
  have hstart : ∀ d a b, m.op ≠ .cfgStart d a b := by simp [hop]
  simp [judgeLoader, not_loaderWaits hcmds hstart, not_chainWaits _ hstart, hok, hop]

/-- A placing command finds its entry EMPTY (R171). -/
theorem judgeLoader_placing_empty (splice : Bool) (hop : m.op = placing splice d a b p)
    (hr : MayPlace (coreAt s n) (m.fld 1 8 3) splice) (he : mapGet (coreAt s n).entries (m.fld 1 0 4) = none) :
    judgeLoader s n m = (s, .refuse 0x12) := by
  have hstart := placing_ne_start splice hop
  cases splice with
  | false =>
    have hfree : mapGet (coreAt s n).regions (m.fld 1 8 3) = none := hr
    simp [judgeLoader, not_loaderWaits hcmds hstart, not_chainWaits _ hstart, hok, hop, placing, hfree, he]
  | true =>
    obtain ⟨g, hg, hphase⟩ := hr
    simp [judgeLoader, not_loaderWaits hcmds hstart, not_chainWaits _ hstart, hok, hop, placing, hg, hphase, he]

/-- A placing command whose image passes reads its entry's binding word next (R171, R194). -/
theorem judgeLoader_placing (splice : Bool) (hop : m.op = placing splice d a b p)
    (hr : MayPlace (coreAt s n) (m.fld 1 8 3) splice) {x : Entry} (he : mapGet (coreAt s n).entries (m.fld 1 0 4) = some x)
    (himg : placeRefused (coreAt s n) (m.fld 1 8 3) x.img (m.fld 2 0 3) (m.fld 2 8 3) = none) :
    judgeLoader s n m = placeVerdict s n x := by
  have hstart := placing_ne_start splice hop
  cases splice with
  | false =>
    have hfree : mapGet (coreAt s n).regions (m.fld 1 8 3) = none := hr
    simp [judgeLoader, not_loaderWaits hcmds hstart, not_chainWaits _ hstart, hok, hop, placing, hfree, he, himg]
  | true =>
    obtain ⟨g, hg, hphase⟩ := hr
    simp [judgeLoader, not_loaderWaits hcmds hstart, not_chainWaits _ hstart, hok, hop, placing, hg, hphase, he, himg]

/-- `cfg.place` names a region that is placed, `cfg.splice` one that is free (R171). -/
theorem judgeLoader_placing_region (splice : Bool) (hop : m.op = placing splice d a b p)
    (hr : (mapGet (coreAt s n).regions (m.fld 1 8 3)).isNone = splice) :
    judgeLoader s n m = (s, .refuse (if splice then 0x11 else 0x10)) := by
  have hstart := placing_ne_start splice hop
  cases splice with
  | false =>
    obtain ⟨g, hg⟩ := Option.isSome_iff_exists.1 (Option.isNone_eq_false_iff.1 hr)
    simp [judgeLoader, not_loaderWaits hcmds hstart, not_chainWaits _ hstart, hok, hop, placing, hg]
  | true =>
    have hfree := Option.isNone_iff_eq_none.1 hr
    simp [judgeLoader, not_loaderWaits hcmds hstart, not_chainWaits _ hstart, hok, hop, placing, hfree]

end Judge

section Translate
variable {s u : State} {n : Nat} {m : Cmd} {t : Tlb} {va : Word} {need : Need}

theorem cmdTranslate_of_ok (h : translateAt s n va need = (u, .ok t)) : cmdTranslate s n va need = (u, .ok (t.phys va)) := by
  simp only [cmdTranslate, h]

theorem lasts_of_translateAt {r : Except Nat Tlb} (h : translateAt s n va need = (u, r)) : Lasts s u := by
  simpa only [h] using lasts_translateAt s n va need

/-- A `cfg.fetch` that reads its binding word is refused for a bit of [5:2], and is taken otherwise (log entry 67). -/
theorem fetchVerdict_of_read (h : translateAt s n (m.opnd 1) .both = (u, .ok t))
    (hgood : placeBad u (t.phys (m.opnd 1)) 8 = false) :
    fetchVerdict s n m = if memNat u.mem (t.phys (m.opnd 1)) 8 / 4 % 16 ≠ 0 then (s, .refuse 1) else (u, .ok) := by
  simp [fetchVerdict, cmdTranslate_of_ok h, hgood]

theorem placeVerdict_of_ok {e : Entry} (h : translateAt s n e.bva .read = (u, .ok t)) : placeVerdict s n e = (u, .ok) := by
  simp only [placeVerdict, cmdTranslate_of_ok h]

end Translate

-- the image that a word names -----------------------------------------------------------------------------------------

section Fetch
variable {s u : State} {n : Nat} {m : Cmd} {w : Word} {img : List Byte}

/-- A bound word brings its image into the entry (R173). -/
theorem fetchBound_of_bound (hw : w.toNat % 4 = 2) (himg : readImage s w = .ok img) :
    fetchBound s n m w =
      finishCmd (setEntry s n (m.fld 2 0 4) (some { img := img, bva := m.opnd 1, gen := w.toNat / 2 ^ 52 })) n m.id := by
  simp [fetchBound, hw, himg]

theorem fetchWord_of_bound {t : Tlb} (h : translateAt s n (m.opnd 1) .both = (u, .ok t))
    (hgood : placeBad u (t.phys (m.opnd 1)) 8 = false) (hmem : w = BitVec.ofNat 64 (memNat u.mem (t.phys (m.opnd 1)) 8))
    (hw : w.toNat % 4 = 2) (himg : readImage u w = .ok img) :
    fetchWord s n m =
      finishCmd (setEntry u n (m.fld 2 0 4) (some { img := img, bva := m.opnd 1, gen := w.toNat / 2 ^ 52 })) n m.id := by
  rw [fetchWord, cmdTranslate_of_ok h, ← fetchBound_of_bound hw himg]
  simp only [hgood, ← hmem]
  simp [hw]

theorem entries_finishCmd_setEntry (e : Nat) (x : Entry) (id : Nat) :
    mapGet (coreAt (finishCmd (setEntry s n e (some x)) n id) n).entries e = some x := by
  simp [finishCmd, setEntry]

end Fetch

end Sys2Proof.Loader
end

section
/-! What the loading of a macro, the closing of sources and the wavefront of a splice leave of a core (R176, R181, R213, R221). -/

namespace Sys2Proof.Loader

open Sys2Proof Sys2Proof.Machine Sys2Proof.Laws Sys2Proof.Lasting

/-- What every step of a fold keeps, the fold keeps. -/
theorem foldl_keeps {α β σ : Type} {π : σ → β} {f : σ → α → σ} (hf : ∀ c x, π (f c x) = π c) (l : List α) (c : σ) :
    π (l.foldl f c) = π c := by
  induction l generalizing c with
  | nil => rfl
  | cons x l ih => exact (ih _).trans (hf c x)

-- loading -----------------------------------------------------------------------------------------------------------

/-- A core without its sites, memory nodes, matrix engine and relay. -/
def offFabric (c : Core) : Core := { c with sites := [], nodes := [], mx := Matrix.reset, relay := Relay.reset }

theorem offFabric_ite {P : Prop} [Decidable P] {c x y : Core} (hx : offFabric x = offFabric y) (hy : offFabric y = offFabric c) :
    offFabric (if P then x else y) = offFabric c := by
  split
  · exact hx.trans hy
  · exact hy

/-- Loading a configuration touches its units alone (R176). -/
theorem offFabric_loadAll (c : Core) (img : List Byte) (g : Config) (mode : Nat) :
    offFabric (loadAll c img g mode) = offFabric c := by
  unfold loadAll
  dsimp only
  refine offFabric_ite rfl (offFabric_ite rfl (offFabric_ite ?nodes ?sites))
  case nodes => exact foldl_keeps (by intro c x; rfl) _ _
  case sites => exact foldl_keeps (by intro c p; rfl) _ _

/-- A successor's words that go in at once touch its units alone (R181). -/
theorem offFabric_loadFresh (c : Core) (img : List Byte) (old g : Config) (mode : Nat) :
    offFabric (loadFresh c img old g mode) = offFabric c := by
  unfold loadFresh
  dsimp only
  refine offFabric_ite rfl (offFabric_ite rfl (offFabric_ite ?nodes ?sites))
  case nodes => exact foldl_keeps (by intro c x; split <;> rfl) _ _
  case sites => exact foldl_keeps (by intro c p; split <;> rfl) _ _

theorem regions_of_offFabric {c c' : Core} (h : offFabric c' = offFabric c) : c'.regions = c.regions :=
  congrArg (fun c => c.regions) h
theorem seq_of_offFabric {c c' : Core} (h : offFabric c' = offFabric c) : c'.seq = c.seq := congrArg (fun c => c.seq) h
theorem cmds_of_offFabric {c c' : Core} (h : offFabric c' = offFabric c) : c'.cmds = c.cmds := congrArg (fun c => c.cmds) h

-- sources -----------------------------------------------------------------------------------------------------------

/-- A core and its regions, but for their sources. -/
def sourceless (c : Core) : Core × (Nat → Option Region) :=
  ({ c with regions := [] }, fun r => (mapGet c.regions r).map fun g => { g with sources := [] })

theorem mapGet_updRegion_same {c : Core} {r : Nat} {g : Region} (h : mapGet c.regions r = some g) (f : Region → Region) :
    mapGet (updRegion c r f).regions r = some (f g) := by
  simp [updRegion, h]

theorem sourceless_updSource (c : Core) (r k : Nat) (f : Source → Source) : sourceless (updSource c r k f) = sourceless c := by
  unfold updSource updRegion
  split
  · rename_i g hg
    refine Prod.ext rfl (funext fun i => ?_)
    by_cases hi : i = r
    · simp [sourceless, hi, hg]
    · simp [sourceless, mapGet_mapSet_other _ _ hi]
  · rfl

theorem sourceless_sourceMark (c : Core) (r k : Nat) (final : Bool) : sourceless (sourceMark c r k final) = sourceless c := by
  unfold sourceMark
  split
  · rfl
  · exact sourceless_updSource c r k _

theorem sourceless_sourceWave (c : Core) (r k : Nat) : sourceless (sourceWave r c k) = sourceless c := by
  unfold sourceWave
  split
  · dsimp only
    split
    · exact sourceless_updSource c r k _
    · rfl
  · rfl

theorem sourceless_closeSource (c : Core) (r k : Nat) : sourceless (closeSource c r k) = sourceless c := by
  unfold closeSource
  split
  · split
    · rfl
    · exact (sourceless_sourceWave _ r k).trans (sourceless_sourceMark c r k true)
  · rfl

theorem sourceless_pushWaves (c : Core) (r : Nat) : sourceless (pushWaves c r) = sourceless c := by
  unfold pushWaves
  split
  · rfl
  · exact foldl_keeps (fun c k => sourceless_sourceWave c r k) _ c

/-- Closing the sources of a region that end touches sources alone (R213, R221). -/
theorem sourceless_settleSources (c : Core) (r : Nat) : sourceless (settleSources c r) = sourceless c := by
  unfold settleSources
  split
  · rfl
  · rename_i g hg
    refine (sourceless_pushWaves _ r).trans (foldl_keeps (fun c k => ?_) _ c)
    split
    · split
      · exact sourceless_closeSource c r k
      · rfl
    · rfl

section Sources
variable {c c' : Core} (h : sourceless c' = sourceless c)
include h

theorem seq_of_sourceless : c'.seq = c.seq := congrArg (fun v => v.1.seq) h
theorem cmds_of_sourceless : c'.cmds = c.cmds := congrArg (fun v => v.1.cmds) h

/-- Every region that stood stays as it was, but for its sources. -/
theorem region_of_sourceless {r : Nat} {g : Region} (hg : mapGet c.regions r = some g) :
    ∃ g', mapGet c'.regions r = some g' ∧ g'.phase = g.phase ∧ g'.succ = g.succ := by
  have hr : (mapGet c'.regions r).map (fun g => { g with sources := [] }) = some { g with sources := [] } :=
    (congrArg (fun v => v.2 r) h).trans (congrArg (Option.map _) hg)
  obtain ⟨g', hg', he⟩ := Option.map_eq_some_iff.1 hr
  exact ⟨g', hg', congrArg (fun g => g.phase) he, congrArg (fun g => g.succ) he⟩

end Sources
end Sys2Proof.Loader
end

section
/-! `cfg.place` and `cfg.splice` (R171, R176, R181, R194). -/

namespace Sys2Proof.Loader

open Sys2Proof Sys2Proof.Machine Sys2Proof.Claim Sys2Proof.Laws Sys2Proof.Lasting Sys2Proof.Commands

theorem leNat_lt (l : List Byte) : leNat l < 256 ^ l.length := by
  induction l with
  | nil => exact Nat.one_pos
  | cons b l ih =>
    have hb := b.isLt
    rw [leNat, List.length_cons, Nat.pow_succ]
    omega

theorem length_memRead (m : Mem) (a n : Nat) : (memRead m a n).length = n := by
  induction n generalizing a with
  | zero => rfl
  | succ n ih => rw [memRead, List.length_cons, ih]

/-- A word read from memory is the number of its bytes. -/
theorem toNat_word (m : Mem) (a : Nat) : (BitVec.ofNat 64 (memNat m a 8)).toNat = memNat m a 8 := by
  have h : memNat m a 8 < 256 ^ 8 := by simpa only [memNat, length_memRead] using leNat_lt (memRead m a 8)
  rw [BitVec.toNat_ofNat, Nat.mod_eq_of_lt (by omega)]

-- the work ----------------------------------------------------------------------------------------------------------

/-- The configuration that a command of cohort `h` places from image `img`, as placement `place`. -/
def placedConfig (m : Cmd) (h : Cohort) (img : List Byte) (place : Nat) : Config :=
  { imgConfig img place (m.fld 2 0 3) (m.fld 2 8 3) with launch := h.launch }

/-- The core after `cfg.place` (R176). -/
def placedCore (c : Core) (m : Cmd) (img : List Byte) (g : Config) : Core :=
  { loadAll c img g m.mode with
    regions := mapSet (loadAll c img g m.mode).regions (m.fld 1 8 3) (placedRegion (loadAll c img g m.mode) g (hasGate img))
    flags := (loadAll c img g m.mode).flags.set (m.fld 1 8 3) 0 }

/-- Region `old` as `cfg.splice` leaves it (R181). -/
def splicedRegion (m : Cmd) (img : List Byte) (old g : Config) (h : Region) : Region :=
  { h with
    phase := .splicing, drained := true
    succ := some { cfg := g, img := img, mode := m.mode, census := 0, cmd := m.id, units := pendingUnits old g } }

/-- The core after `cfg.splice` over configuration `old` (R181). -/
def splicedCore (c : Core) (m : Cmd) (img : List Byte) (old g : Config) : Core :=
  settleSources (updRegion (loadFresh c img old g m.mode) (m.fld 1 8 3) (splicedRegion m img old g)) (m.fld 1 8 3)

theorem refreshEntry_of_same {s u : State} {n e : Nat} {m : Cmd} {x : Entry} {t : Tlb}
    (h : translateAt s n x.bva .read = (u, .ok t)) (hgood : placeBad u (t.phys x.bva) 8 = false)
    (hgen : memNat u.mem (t.phys x.bva) 8 / 2 ^ 52 = x.gen) : refreshEntry s n m e x = (u, some x) := by
  simp only [refreshEntry, cmdTranslate_of_ok h, toNat_word, hgood, hgen]
  simp

section Run
variable {s u : State} {n : Nat} {m : Cmd} {x : Entry} {h : Cohort} {g : Config}
  (hx : mapGet (coreAt s n).entries (m.fld 1 0 4) = some x)
  (hrefresh : refreshEntry s n m (m.fld 1 0 4) x = (u, some x))
  (hcoh : cmdCohort (coreAt u n) m = some h) (hg : g = placedConfig m h x.img u.nextId)
  (himg : imageBad (asCohort (coreAt u n) m) x.img g = none) (hbound : boundMissing x.img g = false)
  (hports : portColumns g = [])
include hx hrefresh hcoh hg himg hbound hports

theorem runPlace_place : runPlace s n m false =
    finishCmd (setCore { u with nextId := u.nextId + 1 } n (placedCore (coreAt u n) m x.img g)) n m.id := by
  unfold runPlace
  simp only [hx, hrefresh, hcoh]
  rw [placedConfig] at hg
  simp only [← hg, himg, hbound, hports]
  rfl

theorem runPlace_splice {old : Region} (hold : mapGet (coreAt u n).regions (m.fld 1 8 3) = some old)
    (hkept : keptScopeBad (coreAt u n) (m.fld 1 8 3) old g = false) : runPlace s n m true =
    setCore { u with nextId := u.nextId + 1 } n (splicedCore (coreAt u n) m x.img old.cfg g) := by
  unfold runPlace
  simp only [hx, hrefresh, hcoh]
  rw [placedConfig] at hg
  simp only [← hg, himg, hbound, hports, hold, Option.any_some, hkept]
  rfl

end Run

theorem placedRegion_cfg (c : Core) (g : Config) (looped : Bool) : (placedRegion c g looped).cfg = g := by
  unfold placedRegion
  dsimp only
  split
  · rfl
  · rfl

theorem regions_finishCmd (s : State) (n id : Nat) :
    (coreAt (finishCmd s n id) n).regions = (coreAt s n).regions := by
  simp [finishCmd]

theorem splicedCore_region {c : Core} {m : Cmd} {img : List Byte} {old : Region} {g : Config}
    (hold : mapGet c.regions (m.fld 1 8 3) = some old) :
    ∃ y, mapGet (splicedCore c m img old.cfg g).regions (m.fld 1 8 3) = some y ∧ y.phase = .splicing ∧
      y.succ.map (·.cfg) = some g := by
  have hfresh := regions_of_offFabric (offFabric_loadFresh c img old.cfg g m.mode)
  obtain ⟨y, hy, hphase, hsucc⟩ := region_of_sourceless (sourceless_settleSources _ (m.fld 1 8 3))
    (mapGet_updRegion_same (hfresh ▸ hold) (splicedRegion m img old.cfg g))
  exact ⟨y, hy, hphase, by rw [hsucc]; rfl⟩

theorem placedCore_seq (c : Core) (m : Cmd) (img : List Byte) (g : Config) : (placedCore c m img g).seq = c.seq :=
  (seq_of_offFabric (offFabric_loadAll c img g m.mode) :)

theorem placedCore_cmds (c : Core) (m : Cmd) (img : List Byte) (g : Config) : (placedCore c m img g).cmds = c.cmds :=
  (cmds_of_offFabric (offFabric_loadAll c img g m.mode) :)

theorem updRegion_seq (c : Core) (r : Nat) (f : Region → Region) : (updRegion c r f).seq = c.seq := by
  unfold updRegion
  split <;> rfl

theorem updRegion_cmds (c : Core) (r : Nat) (f : Region → Region) : (updRegion c r f).cmds = c.cmds := by
  unfold updRegion
  split <;> rfl

theorem splicedCore_seq (c : Core) (m : Cmd) (img : List Byte) (old g : Config) : (splicedCore c m img old g).seq = c.seq :=
  (seq_of_sourceless (sourceless_settleSources _ _)).trans
    ((updRegion_seq _ _ _).trans (seq_of_offFabric (offFabric_loadFresh c img old g m.mode)))

theorem splicedCore_cmds (c : Core) (m : Cmd) (img : List Byte) (old g : Config) : (splicedCore c m img old g).cmds = c.cmds :=
  (cmds_of_sourceless (sourceless_settleSources _ _)).trans
    ((updRegion_cmds _ _ _).trans (cmds_of_offFabric (offFabric_loadFresh c img old g m.mode)))

-- the commands ------------------------------------------------------------------------------------------------------

section Placing
variable {s u v : State} {d a b : Reg} {p : Pen} {h : Cohort} {x : Entry} {t t' : Tlb} {g : Config} {splice : Bool}

theorem exec_placing : exec (placing splice d a b p) s = .next (issue d [a, b] (some p.toNat) (placing splice d a b p) s) := by
  cases splice <;> rfl

theorem engineOf_placing : engineOf (placing splice d a b p) = 0 := by
  cases splice <;> rfl

theorem runLoader_placing {z : State} {n : Nat} {m : Cmd} (hop : m.op = placing splice d a b p) :
    runLoader z n m = runPlace z n m splice := by
  cases splice <;> simp [runLoader, hop, placing]

variable (hA : Alone s (some p.toNat) h)
include hA

theorem exec_placing_refused {k : Nat}
    (hj : judgeLoader (issued s d [a, b] (some p.toNat) (placing splice d a b p)) s.core
        (command s d [a, b] (some p.toNat) (placing splice d a b p)) =
      (issued s d [a, b] (some p.toNat) (placing splice d a b p), .refuse k)) :
    exec (placing splice d a b p) s = .next (replied s d (BitVec.ofNat 64 k)) := by
  rw [exec_placing, issue_loader_refused hA engineOf_placing hj]

variable (hok : loaderOperandBad (command s d [a, b] (some p.toNat) (placing splice d a b p)) = false)
include hok

theorem exec_placing_region
    (hr : (mapGet (cur s).regions ((command s d [a, b] (some p.toNat) (placing splice d a b p)).fld 1 8 3)).isNone = splice) :
    exec (placing splice d a b p) s = .next (replied s d (if splice then 0x11 else 0x10)) := by
  rw [exec_placing_refused hA (judgeLoader_placing_region (cmds_issued hA) hok splice rfl (by rw [coreAt_issued]; exact hr))]
  cases splice <;> rfl

variable (hr : MayPlace (cur s) ((command s d [a, b] (some p.toNat) (placing splice d a b p)).fld 1 8 3) splice)
include hr

theorem exec_placing_empty
    (hx : mapGet (cur s).entries ((command s d [a, b] (some p.toNat) (placing splice d a b p)).fld 1 0 4) = none) :
    exec (placing splice d a b p) s = .next (replied s d 0x12) :=
  exec_placing_refused hA (judgeLoader_placing_empty (cmds_issued hA) hok splice rfl (by rw [coreAt_issued]; exact hr)
    (by rw [coreAt_issued]; exact hx))

/-- An entry whose image passes every check enters the region that `cfg.place` or `cfg.splice` names. -/
theorem exec_placing_taken :
    let m := command s d [a, b] (some p.toNat) (placing splice d a b p)
    mapGet (cur s).entries (m.fld 1 0 4) = some x →
    placeRefused (cur s) (m.fld 1 8 3) x.img (m.fld 2 0 3) (m.fld 2 8 3) = none →
    translateAt (issued s d [a, b] (some p.toNat) (placing splice d a b p)) s.core x.bva .read = (v, .ok t') →
    translateAt (takeCmd v s.core m 0) s.core x.bva .read = (u, .ok t) → placeBad u (t.phys x.bva) 8 = false →
    memNat u.mem (t.phys x.bva) 8 / 2 ^ 52 = x.gen → g = placedConfig m h x.img u.nextId →
    imageBad (coreAt u s.core) x.img g = none → boundMissing x.img g = false → portColumns g = [] →
    (∀ old, mapGet (coreAt u s.core).regions (m.fld 1 8 3) = some old →
      keptScopeBad (coreAt u s.core) (m.fld 1 8 3) old g = false) →
    ∃ z, exec (placing splice d a b p) s = .next z ∧ Accepted s d z ∧
      (splice = false → (mapGet (cur z).regions (m.fld 1 8 3)).map (·.cfg) = some g) ∧
      (splice = true → (mapGet (cur z).regions (m.fld 1 8 3)).map (fun y => (y.phase, y.succ.map (·.cfg))) =
        some (.splicing, some g)) := by
  intro m hx hpass hbefore hafter hgood hgen hg himg hbound hports hkept
  have hv := lasts_of_translateAt hbefore
  have hu := lasts_of_translateAt hafter
  have hcore : coreAt (issued s d [a, b] (some p.toNat) (placing splice d a b p)) s.core = issueCore (ran s) m := coreAt_issued
  have hj : judgeLoader (issued s d [a, b] (some p.toNat) (placing splice d a b p)) s.core m = (v, .take 0) := by
    rw [judgeLoader_placing (cmds_issued hA) hok splice rfl (by rw [hcore]; exact hr) (by rw [hcore]; exact hx)
      (by rw [hcore]; exact hpass)]
    exact placeVerdict_of_ok hbefore
  have hentry : mapGet (coreAt (takeCmd v s.core m 0) s.core).entries (m.fld 1 0 4) = some x := by
    rw [coreAt_takeCmd_entries, hv.entries, hcore]
    exact hx
  have hregions : (coreAt u s.core).regions = (cur s).regions := by
    rw [hu.regions, coreAt_takeCmd_regions, hv.regions, hcore]
    rfl
  obtain ⟨h₁, hh₁, hl₁⟩ := hv.launch s.core (coh_issued hA)
  obtain ⟨h₂, hh₂, hl₂⟩ := hu.launch s.core (coreAt_takeCmd_coh.trans hh₁)
  have hg' : g = placedConfig m h₂ x.img u.nextId := by
    rw [hg, placedConfig, placedConfig, hl₂, hl₁]
  have hrefresh := refreshEntry_of_same (m := m) (e := m.fld 1 0 4) hafter hgood hgen
  have hbegun : Accepted s d { u with nextId := u.nextId + 1 } :=
    ((accepted_takeCmd hA hv).lasts hu).lasts ((Lasts.refl u).of_cores rfl rfl)
  have hissue : ∀ {z}, runPlace (takeCmd v s.core m 0) s.core m splice = z → Accepted s d z →
      exec (placing splice d a b p) s = .next z := by
    intro z hrun hz
    have hrun' := (runLoader_placing (m := m) rfl).trans hrun
    rw [exec_placing, issue_loader hA engineOf_placing hj (hrun'.symm ▸ hz), hrun']
  cases splice with
  | false =>
    have hz := (hbegun.setCore (placedCore_seq (coreAt u s.core) m x.img g) (placedCore_cmds _ _ _ _)).finishCmd m.id
    refine ⟨_, hissue (runPlace_place hentry hrefresh hh₂ hg' himg hbound hports) hz, hz, fun _ => ?_, by simp⟩
    rw [cur_eq_coreAt hz.core, regions_finishCmd, coreAt_setCore_same, placedCore, mapGet_mapSet_same, Option.map_some,
      placedRegion_cfg]
  | true =>
    obtain ⟨old, hold, -⟩ := hr
    have hold' : mapGet (coreAt u s.core).regions (m.fld 1 8 3) = some old := by rw [hregions]; exact hold
    have hz := hbegun.setCore (splicedCore_seq (coreAt u s.core) m x.img old.cfg g) (splicedCore_cmds _ _ _ _ _)
    refine ⟨_, hissue (runPlace_splice hentry hrefresh hh₂ hg' himg hbound hports hold' (hkept old hold')) hz, hz, by simp,
      fun _ => ?_⟩
    obtain ⟨y, hy, hphase, hsucc⟩ := splicedCore_region (img := x.img) (g := g) hold'
    rw [cur_eq_coreAt hz.core, coreAt_setCore_same, hy, Option.map_some, hphase, hsucc]

end Placing
end Sys2Proof.Loader
end

section
/-! `cfg.fetch` and its wake (R172, R173, R175), and the successor's words at a site and at the op list (R181, R221). -/

namespace Sys2Proof.Loader

open Sys2Proof Sys2Proof.Machine Sys2Proof.Claim Sys2Proof.Laws Sys2Proof.Lasting Sys2Proof.Commands

-- fetch -------------------------------------------------------------------------------------------------------------

section Fetching
variable {s u v : State} {d a b : Reg} {p : Pen} {h : Cohort} {t t' : Tlb} {e : Nat} {m : Cmd}
  (hm : m = command s d [a, b] (some p.toNat) (.cfgFetch d a b p))
include hm

theorem fetch_op : m.op = .cfgFetch d a b p := by
  subst hm
  rfl

theorem fetch_operands : m.opnd 1 = X s a ∧ m.opnd 2 = X s b := by
  subst hm
  exact ⟨rfl, rfl⟩

section Operands
variable (hb : X s b = BitVec.ofNat 64 e) (he : e < 16)
include hb he

theorem fetch_entry : m.fld 2 0 4 = e := by
  rw [Cmd.fld, (fetch_operands hm).2, hb, BitVec.toNat_ofNat]
  omega

theorem fetch_operands_ok (hcanonical : canonical (X s a) = true) (halign : (X s a).toNat % 8 = 0) :
    loaderOperandBad m = false := by
  have hmask : ∀ e < 16, (BitVec.ofNat 64 e &&& ~~~(BitVec.ofNat 64 0xF) == 0) = true := by decide
  obtain ⟨hva, hentry⟩ := fetch_operands hm
  simp only [loaderOperandBad, fetch_op hm, hva, Cmd.only, hentry, hb, hmask e he, hcanonical, halign]
  rfl

end Operands

variable (hA : Alone s (some p.toNat) h) (hok : loaderOperandBad m = false)
  (hbefore : translateAt (issued s d [a, b] (some p.toNat) (.cfgFetch d a b p)) s.core (X s a) .both = (v, .ok t'))
  (hgood : placeBad v (t'.phys (X s a)) 8 = false)
include hA hok hbefore hgood

theorem judgeLoader_fetch_of_read :
    judgeLoader (issued s d [a, b] (some p.toNat) (.cfgFetch d a b p)) s.core m =
      if memNat v.mem (t'.phys (X s a)) 8 / 4 % 16 ≠ 0 then
        (issued s d [a, b] (some p.toNat) (.cfgFetch d a b p), .refuse 1)
      else (v, .ok) := by
  rw [judgeLoader_fetch (hm ▸ cmds_issued hA) hok (fetch_op hm)]
  rw [← (fetch_operands hm).1] at hbefore hgood ⊢
  exact fetchVerdict_of_read hbefore hgood

/-- A non-zero bit of [5:2] of the binding word refuses the fetch (log entry 67). -/
theorem exec_cfgFetch_refused (hres : memNat v.mem (t'.phys (X s a)) 8 / 4 % 16 ≠ 0) :
    exec (.cfgFetch d a b p) s = .next (replied s d 1) := by
  have hj := (judgeLoader_fetch_of_read hm hA hok hbefore hgood).trans (if_pos hres)
  exact congrArg Host.Outcome.next (issue_loader_refused hA rfl (hm ▸ hj))

/-- A fetch of a bound word reads the image into its entry (R173). -/
theorem exec_cfgFetch_taken {w : Word} {img : List Byte} (hentry : m.fld 2 0 4 = e)
    (hres : memNat v.mem (t'.phys (X s a)) 8 / 4 % 16 = 0)
    (hafter : translateAt (setEntry (takeCmd v s.core m 0) s.core e none) s.core (X s a) .both = (u, .ok t))
    (hgood' : placeBad u (t.phys (X s a)) 8 = false) (hw : w = BitVec.ofNat 64 (memNat u.mem (t.phys (X s a)) 8))
    (hbound : w.toNat % 4 = 2) (himg : readImage u w = .ok img) :
    ∃ z, exec (.cfgFetch d a b p) s = .next z ∧ Accepted s d z ∧
      mapGet (cur z).entries e = some { img := img, bva := X s a, gen := w.toNat / 2 ^ 52 } := by
  have hj := (judgeLoader_fetch_of_read hm hA hok hbefore hgood).trans (if_neg (not_not.2 hres))
  have htaken : Accepted s d (takeCmd v s.core m 0) := hm ▸ accepted_takeCmd hA (lasts_of_translateAt hbefore)
  have hread : Accepted s d u := (htaken.setEntry e none).lasts (lasts_of_translateAt hafter)
  have hrun : runLoader (takeCmd v s.core m 0) s.core m =
      finishCmd (setEntry u s.core e (some { img := img, bva := X s a, gen := w.toNat / 2 ^ 52 })) s.core m.id := by
    rw [← (fetch_operands hm).1] at hafter hgood' hw ⊢
    simp only [runLoader, fetch_op hm, hentry]
    rw [fetchWord_of_bound hafter hgood' hw hbound himg, hentry]
  have hz : Accepted s d (runLoader (takeCmd v s.core m 0) s.core m) := hrun ▸ (hread.setEntry e _).finishCmd m.id
  subst hm
  refine ⟨_, congrArg Host.Outcome.next (issue_loader hA rfl hj hz), hz, ?_⟩
  rw [cur_eq_coreAt hz.core, hrun, entries_finishCmd_setEntry]

end Fetching

/-- The core once its command `k` has taken the cause of its wake. -/
def wakeTaken (k : Nat) (c : Core) : Core :=
  { c with cmds := mapWhere c.cmds (fun m => m.id == k) fun m => { m with ops := m.ops.take 2 } }

/-- A woken fetch goes on with the bound word of the report (R173, R175). -/
theorem exec_cfgFetchWake {s : State} {k : Nat} {m : Cmd} {d a b : Reg} {p : Pen} {img : List Byte}
    (hm : cmdAt (cur s) k = some m) (hop : m.op = .cfgFetch d a b p) (hphase : m.phase = .running)
    (hcause : m.ops[2]? = some 0x10) (hbound : m.value.toNat % 4 = 2) (himg : readImage s m.value = .ok img) :
    ∃ z, exec (.cfgFetchWake k) s = .next z ∧
      mapGet (cur z).entries (m.fld 2 0 4) = some { img := img, bva := m.opnd 1, gen := m.value.toNat / 2 ^ 52 } := by
  have hopnd1 : ({ m with ops := m.ops.take 2 } : Cmd).opnd 1 = m.opnd 1 := by simp [Cmd.opnd, nthD]
  have hfld : ({ m with ops := m.ops.take 2 } : Cmd).fld 2 0 4 = m.fld 2 0 4 := by simp [Cmd.fld, Cmd.opnd, nthD]
  have himg' : readImage (updCur s (wakeTaken k)) m.value = .ok img := himg
  have hexec : execCfgFetchWake k s =
      .next (fetchBound (updCur s (wakeTaken k)) s.core { m with ops := m.ops.take 2 } m.value) := by
    simp only [execCfgFetchWake, hm, hop, hphase, hcause, hbound]
    rfl
  refine ⟨_, hexec, ?_⟩
  rw [fetchBound_of_bound hbound himg', hfld, hopnd1]
  exact entries_finishCmd_setEntry _ _ _

-- the successor's words -----------------------------------------------------------------------------------------------

theorem mapGet_map {α : Type} {f : Nat × α → Nat × α} (hf : ∀ e, (f e).1 = e.1) (m : SMap α) (k : Nat) :
    mapGet (m.map f) k = (mapGet m k).map fun v => (f (k, v)).2 := by
  induction m with
  | nil => rfl
  | cons e m ih =>
    obtain ⟨i, v⟩ := e
    have he : f (i, v) = (i, (f (i, v)).2) := Prod.ext (hf _) rfl
    rw [List.map_cons, he, mapGet, mapGet, ih]
    split
    · rename_i hi
      rw [hi, Option.map_some]
    · rfl

/-- The edge units that region `r` still waits for in its splice. -/
def pendingOf (c : Core) (r : Nat) : Option (List EdgeUnit) := ((mapGet c.regions r).bind (·.succ)).map (·.units)

theorem pendingOf_eq {c : Core} {r : Nat} {g : Region} {sp : Splice} (hg : mapGet c.regions r = some g)
    (hsp : g.succ = some sp) : pendingOf c r = some sp.units := by
  simp [pendingOf, hg, hsp]

/-- Counting a token changes a census, never what a splice waits for (R219). -/
theorem pendingOf_census (c : Core) (p : Nat) (k : Int) (r : Nat) : pendingOf (census c p k) r = pendingOf c r := by
  unfold pendingOf census
  dsimp only
  rw [mapGet_map]
  · cases mapGet c.regions r with
    | none => rfl
    | some g =>
      simp only [Option.map_some, Option.bind_some]
      split
      · rfl
      · cases hsp : g.succ with
        | none => exact congrArg (Option.map _) hsp
        | some sp =>
          dsimp only
          split
          · rfl
          · exact congrArg (Option.map _) hsp
  · intro e
    split
    · rfl
    · split
      · split <;> rfl
      · rfl

/-- A splice that waits for an edge unit does not end (R181). -/
theorem trySpliceDone_of_pending {s : State} {n r : Nat} {e : EdgeUnit} {es : List EdgeUnit}
    (h : pendingOf (coreAt s n) r = some (e :: es)) : trySpliceDone s n r = s := by
  obtain ⟨sp, hsp, hunits⟩ := Option.map_eq_some_iff.1 h
  obtain ⟨g, hg, hsucc⟩ := Option.bind_eq_some_iff.1 hsp
  simp [trySpliceDone, hg, hsucc, hunits]

theorem splicing_eq_some {c : Core} {p r : Nat} {g : Region} {sp : Splice} (h : splicing c p = some (r, g, sp)) :
    mapGet c.regions r = some g ∧ g.succ = some sp := by
  simp only [splicing, Option.bind_eq_some_iff, Option.map_eq_some_iff, Prod.mk.injEq] at h
  obtain ⟨_, -, _, hg, _, hsp, rfl, rfl, rfl⟩ := h
  exact ⟨hg, hsp⟩

/-- What a site holds and what region `r` waits for: nothing of it changes while stray tokens are found. -/
def taking (x y r : Nat) (s : State) : Nat × Nat × SMap Slot × Option (List EdgeUnit) :=
  (s.core, (siteAt (cur s) x y).place, (siteAt (cur s) x y).slots, pendingOf (cur s) r)


theorem taking_setCur {x y r : Nat} {s : State} {c : Core} (hplace : (siteAt c x y).place = (siteAt (cur s) x y).place)
    (hslots : (siteAt c x y).slots = (siteAt (cur s) x y).slots) (hpending : pendingOf c r = pendingOf (cur s) r) :
    taking x y r (setCur s c) = taking x y r s := by
  simp [taking, hplace, hslots, hpending]

theorem taking_of_lasts {x y r : Nat} {s t : State} (h : Lasts s t) : taking x y r t = taking x y r s := by
  have hcur : cur t = coreAt t s.core := cur_eq_coreAt h.core
  have hsite : siteAt (cur t) x y = siteAt (cur s) x y := by rw [hcur, siteAt, h.sites]; rfl
  have hpending : pendingOf (cur t) r = pendingOf (cur s) r := by rw [hcur, pendingOf, h.regions]; rfl
  rw [taking, taking, h.core, hsite, hpending]

/-- A route fault counts its token off and may end the cohort (R222). -/
theorem taking_routeFault (x y r : Nat) (s : State) (id : UnitId) (t : Tok) :
    taking x y r (routeFault s s.core id t) = taking x y r s :=
  (taking_of_lasts (lasts_faultAt _ _ _ _)).trans
    (taking_setCur (c := census (cur s) t.place (-1)) rfl rfl (pendingOf_census _ _ _ r))

theorem taking_routeFaults (x y r : Nat) (id : UnitId) (l : List Tok) (s : State) :
    taking x y r (l.foldl (fun u t => routeFault u s.core id t) s) = taking x y r s := by
  induction l generalizing s with
  | nil => rfl
  | cons t l ih =>
    have hfirst := taking_routeFault x y r s id t
    have hcore : (routeFault s s.core id t).core = s.core := congrArg Prod.fst hfirst
    exact (by simpa only [hcore] using ih (routeFault s s.core id t) :
      taking x y r (l.foldl (fun u t => routeFault u s.core id t) (routeFault s s.core id t)) = _).trans hfirst

@[simp] theorem siteAt_setSite_same (c : Core) (x y : Nat) (u : FUnit) : siteAt (setSite c x y u) x y = u := by
  simp [siteAt, setSite, mapGetD]

theorem taking_faultStrays (x y r : Nat) (s : State) (p : Nat) (ok : Tok → Bool) :
    taking x y r (faultStrays s s.core (.site x y) p ok) = taking x y r s := by
  have hset : ∀ q, taking x y r (setCur s (setSite (cur s) x y ((siteAt (cur s) x y).setQueue p q))) = taking x y r s :=
    fun q => taking_setCur (by simp [FUnit.setQueue]) (by simp [FUnit.setQueue]) rfl
  exact (taking_routeFaults x y r _ _ (setCur s _)).trans (hset _)

theorem taking_siteStrays (x y r : Nat) (s : State) : taking x y r (siteStrays s x y) = taking x y r s :=
  foldl_keeps (fun s p => taking_faultStrays x y r s p _) _ s

/-- The core once the wavefront has left site (x, y) by the ports of a cycle (log entry 33). -/
def wavesForwarded (looped : Bool) (x y : Nat) (c : Core) : Core :=
  if onCycle c x y then [0, 1, 2, 3].foldl (forwardWave looped x y) c else c

theorem regions_wavesForwarded (looped : Bool) (x y : Nat) (c : Core) : (wavesForwarded looped x y c).regions = c.regions := by
  have hstep : ∀ c p, (forwardWave looped x y c p).regions = c.regions := by
    intro c p
    unfold forwardWave
    dsimp only
    split <;> rfl
  unfold wavesForwarded
  split
  · exact foldl_keeps (π := fun c => c.regions) hstep _ c
  · rfl

theorem switchSite_regions (c : Core) (looped : Bool) (g : Config) (sp : Splice) (x y : Nat) :
    (switchSite c looped g sp x y).regions = c.regions := by
  unfold switchSite
  dsimp only
  split <;> rfl

/-- A site inside the successor takes its placement and its words (R221). -/
theorem switchSite_site {c : Core} {looped : Bool} {g : Config} {sp : Splice} {x y : Nat} (h : inRect sp.cfg x y = true) :
    (siteAt (switchSite c looped g sp x y) x y).place = sp.cfg.place ∧
      (siteAt (switchSite c looped g sp x y) x y).slots = siteWords sp.img sp.cfg sp.mode x y := by
  have hnode : ∀ (c : Core) (k : Nat) (v : Node), siteAt (setNode c k v) x y = siteAt c x y := fun _ _ _ => rfl
  unfold switchSite
  simp only [h, if_true]
  split <;> simp [hnode]

section SiteTakes
variable {s : State} {x y r : Nat} {g : Region} {sp : Splice}

theorem execSiteTakeSuccessor_of_done (hx : x < 8) (hy : y < 5)
    (hsplice : splicing (cur s) (siteAt (cur s) x y).place = some (r, g, sp)) (hplace : (siteAt (cur s) x y).place = g.cfg.place)
    (hsaved : (siteAt (cur s) x y).saved = false) (hgone : (siteAt (cur s) x y).marks.contains goneMark = false)
    (hdone : siteDone g.looped (wavesForwarded g.looped x y (cur s)) x y = true) :
    execSiteTakeSuccessor x y s =
      let z := siteStrays (setCur s (switchSite (wavesForwarded g.looped x y (cur s)) g.looped g.cfg sp x y)) x y
      .next (trySpliceDone z z.core r) := by
  have hsouth : ¬ (decide (y = 5) && inRect sp.cfg x 5) = true := by simp; omega
  unfold execSiteTakeSuccessor
  rw [if_neg (by simp; omega)]
  simp only [hsplice]
  rw [if_neg (by simpa [hplace, hsaved] using hgone), if_neg hsouth]
  exact congrArg Host.Outcome.next (if_pos hdone)

/-- A site north of the south row that is done takes the successor's words, in a splice that has still an edge unit to follow. -/
theorem exec_siteTakeSuccessor (hx : x < 8) (hy : y < 5)
    (hsplice : splicing (cur s) (siteAt (cur s) x y).place = some (r, g, sp)) (hplace : (siteAt (cur s) x y).place = g.cfg.place)
    (hsaved : (siteAt (cur s) x y).saved = false) (hgone : (siteAt (cur s) x y).marks.contains goneMark = false)
    (hinside : inRect sp.cfg x y = true) (hunits : sp.units ≠ [])
    (hdone : siteDone g.looped (wavesForwarded g.looped x y (cur s)) x y = true) :
    ∃ z, exec (.siteTakeSuccessor x y) s = .next z ∧ (siteAt (cur z) x y).place = sp.cfg.place ∧
      (siteAt (cur z) x y).slots = siteWords sp.img sp.cfg sp.mode x y := by
  have hexec := execSiteTakeSuccessor_of_done hx hy hsplice hplace hsaved hgone hdone
  obtain ⟨hg, hsucc⟩ := splicing_eq_some hsplice
  obtain ⟨e, es, hes⟩ := List.exists_cons_of_ne_nil hunits
  have hregions := switchSite_regions (wavesForwarded g.looped x y (cur s)) g.looped g.cfg sp x y
  obtain ⟨hplaced, hwords⟩ :=
    switchSite_site (c := wavesForwarded g.looped x y (cur s)) (looped := g.looped) (g := g.cfg) hinside
  generalize switchSite (wavesForwarded g.looped x y (cur s)) g.looped g.cfg sp x y = c at hexec hregions hplaced hwords
  have hpending : pendingOf c r = some (e :: es) := by
    rw [← hes, ← pendingOf_eq hg hsucc, pendingOf, hregions, regions_wavesForwarded, pendingOf]
  have htaking := taking_siteStrays x y r (setCur s c)
  simp only [taking, Prod.mk.injEq, cur_setCur, hplaced, hwords, hpending] at htaking
  obtain ⟨-, hplace', hslots', hpending'⟩ := htaking
  exact ⟨_, hexec.trans (congrArg Host.Outcome.next (trySpliceDone_of_pending hpending')), hplace', hslots'⟩

end SiteTakes

/-- A region whose splice no longer waits for the op list. -/
def opListFollowed (g : Region) : Region :=
  { g with succ := g.succ.map fun sp => { sp with units := sp.units.filter (· != .opList) } }

/-- The core whose op list has taken the words of splice `sp` of region `r` (R181, R353). -/
def opListTaken (c : Core) (r : Nat) (sp : Splice) : Core :=
  updRegion (loadList { c with mx := closeGroups c.mx } sp.img sp.cfg.place) r opListFollowed

theorem updRegion_mx (c : Core) (r : Nat) (f : Region → Region) : (updRegion c r f).mx = c.mx := by
  unfold updRegion
  split <;> rfl

theorem execEdgeUnitTakeSuccessor_opList {s : State} {r : Nat} {g : Region} {sp : Splice}
    (hsplice : unitSplice (cur s) .opList = some (r, g, sp)) (hmine : sp.units.contains .opList = true)
    (hidle : (cur s).mx.running = none) (hwave : ∀ y < 6, tileWave (cur s) g y = true) :
    execEdgeUnitTakeSuccessor .opList s = .next (trySpliceDone (setCur s (opListTaken (cur s) r sp)) s.core r) := by
  have hports : [0, 1, 2, 3, 4, 5].all (tileWave (cur s) g) = true := by
    rw [List.all_eq_true]
    exact fun y hy => hwave y (by simp at hy; omega)
  simp only [execEdgeUnitTakeSuccessor, hsplice, hmine, hidle, hports]
  rfl

/-- The op list is replaced once every tile port has the wavefront, in a splice whose relay has still to follow (R181). -/
theorem exec_opListTakeSuccessor {s : State} {r : Nat} {g : Region} {sp : Splice}
    (hsplice : unitSplice (cur s) .opList = some (r, g, sp)) (hunits : sp.units = [.opList, .relay])
    (hidle : (cur s).mx.running = none) (hwave : ∀ y < 6, tileWave (cur s) g y = true) :
    ∃ z, exec (.edgeUnitTakeSuccessor .opList) s = .next z ∧
      (cur z).mx.oplist = listWords sp.img ∧ (cur z).mx.place = sp.cfg.place ∧ (cur z).mx.fired = [] := by
  obtain ⟨hg, hsucc⟩ := splicing_eq_some hsplice
  have hexec := execEdgeUnitTakeSuccessor_opList hsplice (by rw [hunits]; rfl) hidle hwave
  have hfollowed : (opListFollowed g).succ = some { sp with units := [.relay] } := by
    rw [opListFollowed, hsucc, Option.map_some, hunits]
    rfl
  have hregion : mapGet (opListTaken (cur s) r sp).regions r = some (opListFollowed g) :=
    mapGet_updRegion_same (c := loadList { cur s with mx := closeGroups (cur s).mx } sp.img sp.cfg.place) hg opListFollowed
  have hpending : pendingOf (coreAt (setCur s (opListTaken (cur s) r sp)) s.core) r = some [.relay] :=
    (congrArg (pendingOf · r) (cur_setCur s _)).trans (pendingOf_eq hregion hfollowed)
  rw [trySpliceDone_of_pending hpending] at hexec
  refine ⟨_, hexec, ?_⟩
  rw [cur_setCur, opListTaken, updRegion_mx]
  exact ⟨rfl, rfl, rfl⟩

theorem mayPlace_of_iff {c : Core} {r : Nat} {splice : Bool} (h : splice = false ↔ mapGet c.regions r = none)
    (hphase : ∀ g, mapGet c.regions r = some g → g.phase ≠ .splicing) : MayPlace c r splice := by
  cases splice with
  | false => exact h.1 rfl
  | true =>
    obtain ⟨g, hg⟩ := Option.ne_none_iff_exists'.1 (fun hfree => Bool.noConfusion (h.2 hfree))
    exact ⟨g, hg, hphase g hg⟩

/-- Settles O48: a command by what the loader looks at before it accepts it and by its work, an event by its one step. -/
theorem imagesAreFetchedPlacedAndSpliced : Obligations.ImagesAreFetchedPlacedAndSpliced := by
  unfold Obligations.ImagesAreFetchedPlacedAndSpliced
  intro s u v d a b p h
  refine ⟨?fetch, ?placing, ?wake, ?site, ?opList⟩
  case fetch =>
    intro e t t' w img hA hcanonical halign hb he i m hbefore hgood
    have hok := fetch_operands_ok (m := m) rfl hb he hcanonical halign
    refine ⟨exec_cfgFetch_refused rfl hA hok hbefore hgood, fun hres hafter hgood' hw hbound himg => ?_⟩
    obtain ⟨z, hexec, hz, hentry⟩ :=
      exec_cfgFetch_taken rfl hA hok hbefore hgood (fetch_entry (m := m) rfl hb he) hres hafter hgood' hw hbound himg
    exact ⟨z, hexec, hz.X, hz.cur_pc, hentry⟩
  case placing =>
    intro i hi
    obtain ⟨splice, rfl⟩ : ∃ splice, i = placing splice d a b p := by
      rcases List.mem_pair.1 hi with rfl | rfl
      · exact ⟨false, rfl⟩
      · exact ⟨true, rfl⟩
    have hplace : placing splice d a b p = .cfgPlace d a b p ↔ splice = false := by cases splice <;> simp [placing]
    simp only [hplace, Bool.not_eq_false]
    intro hA hok
    refine ⟨?placed, ?free, fun hregion hphase => ?_⟩
    case placed =>
      rintro rfl hregion
      exact exec_placing_region hA hok (Option.isNone_eq_false_iff.2 hregion)
    case free =>
      rintro rfl hregion
      exact exec_placing_region hA hok (Option.isNone_iff_eq_none.2 hregion)
    have hr := mayPlace_of_iff hregion hphase
    refine ⟨exec_placing_empty hA hok hr, fun x t v t' g hx hpass hbefore hafter hgood hgen hg himg hbound hports hkept => ?_⟩
    obtain ⟨z, hexec, hz, hcfg, hsucc⟩ :=
      exec_placing_taken hA hok hr hx hpass hbefore hafter hgood hgen hg himg hbound hports hkept
    exact ⟨z, hexec, hz.X, hz.cur_pc, hcfg, hsucc⟩
  case wake =>
    intro k m img hm hop hphase hcause hbound himg
    exact exec_cfgFetchWake hm hop hphase hcause hbound himg
  case site =>
    intro x y r g sp hx hy hsplice hplace hsaved hgone hinside hunits hdone
    exact exec_siteTakeSuccessor hx hy hsplice hplace hsaved hgone hinside hunits hdone
  case opList =>
    intro r g sp hsplice hunits hidle hwave
    exact exec_opListTakeSuccessor hsplice hunits hidle hwave

end Sys2Proof.Loader
end

section
/-! The invalidation of R189 on generators whose pairing is broken: what the fold over the generators does to a generator whose
neighbour is overwritten as the partner of a sparse stream. -/

namespace Sys2Proof.Loader

open Sys2Proof Sys2Proof.Machine Sys2Proof.Claim

/-- The one cohort of the state below. -/
def strayCohort : Cohort :=
  { ctx := 0, launch := 0, lid := 0, dg := 0, cg := 0, coh := 0, nthr := 0, live := 0, root := 0, windows := [], bufs := [],
    segs := [], bankMap := 0, started := true, fatal := false, chain := 1, pos := 0, nuUsed := false }

/-- Generator 0 runs a sparse stream, whose partner generator 1 should be; generators 1 and 2 run streams of their own. -/
def strayGens : SMap Gen :=
  [(0, { Gen.reset with st := .running, fn := 6 }), (1, { Gen.reset with st := .running }),
   (2, { Gen.reset with st := .running })]

/-- Core 0 may issue and holds these generators. -/
def strayState : State :=
  { State.reset with cores := [(0, { Core.reset with
      seq := { Seq.reset with st := .run }, coh := some strayCohort, gens := strayGens })] }

theorem strayState_alone : Alone strayState (some (0 : Pen).toNat) strayCohort := by decide

/-- The invalidation of the whole address space makes generator 1 the partner of generator 0, and with that generator 2, whose
neighbour 1 now reads as a sparse stream, that stream's partner. -/
theorem strayState_inv : ∃ z, exec (.cfgInv 0 0 0 0) strayState = .next z ∧
    (mapGet (cur z).gens 2).map (·.fn) = some 6 := ⟨_, rfl, by decide⟩

/-- Refutes O47: its clause on `cfg.inv` asks that no leading generator of function 6 stands before generator `g` when the command
issues. The loader goes through the generators one after another, and a sparse stream at generator 0 first makes generator 1, of
another function so far, its partner; generator 1 then passes as a sparse stream and overwrites generator 2. A machine whose sparse
streams always hold both generators of their pair (R306) has no such generator 1; the statement does not ask for that. -/
theorem not_loaderCommandsAnswer : ¬ Obligations.LoaderCommandsAnswer := by
  unfold Obligations.LoaderCommandsAnswer
  intro h
  obtain ⟨-, -, -, -, hinv⟩ := h strayState 0 0 0 0 strayCohort 0 strayState_alone
  obtain ⟨z, hz, -, -, -, -, -, -, -, hgens⟩ := hinv (by decide) rfl
  obtain ⟨y, hy, hfn⟩ := strayState_inv
  obtain rfl : y = z := Host.Outcome.next.inj (hy.symm.trans hz)
  have hlead : ∀ k, lead (cur strayState) k = k → (genAt (cur strayState) k).fn = 6 → k + 1 ≠ 2 := by
    rintro k - hsparse hk
    obtain rfl : k = 1 := by omega
    exact absurd hsparse (by decide)
  have hkept := hgens 2 _ rfl (by decide) hlead
  simp [hkept, Gen.reset] at hfn

end Sys2Proof.Loader
end

section
/-! The units of the fabric: sites, memory nodes and their queues after a change (R197, R202), and what counting a token, a fault and
raised flags leave of them. -/

namespace Sys2Proof.Fabric

open Sys2Proof Sys2Proof.Machine Sys2Proof.Laws Sys2Proof.Lasting

-- units -------------------------------------------------------------------------------------------------------------

@[simp] theorem siteAt_setSite_same (c : Core) (x y : Nat) (u : FUnit) : siteAt (setSite c x y u) x y = u := by
  simp [siteAt, setSite, mapGetD]

theorem siteAt_setSite_other (c : Core) {x y a b : Nat} (u : FUnit) (h : siteKey a b ≠ siteKey x y) :
    siteAt (setSite c x y u) a b = siteAt c a b := by
  simp [siteAt, setSite, mapGetD, mapGet_mapSet_other _ _ h]

@[simp] theorem nodeAt_setNode_same (c : Core) (x : Nat) (v : Node) : nodeAt (setNode c x v) x = v := by
  simp [nodeAt, setNode, mapGetD]

@[simp] theorem nodeAt_setSite (c : Core) (x y n : Nat) (u : FUnit) : nodeAt (setSite c x y u) n = nodeAt c n := rfl
@[simp] theorem siteAt_census (c : Core) (p : Nat) (d : Int) (x y : Nat) : siteAt (census c p d) x y = siteAt c x y := rfl
@[simp] theorem unitAt_census (c : Core) (p : Nat) (d : Int) (unit : UnitId) : unitAt (census c p d) unit = unitAt c unit := by
  cases unit <;> rfl

@[simp] theorem unitAt_site (c : Core) (x y : Nat) : unitAt c (.site x y) = siteAt c x y := rfl
@[simp] theorem unitAt_mn (c : Core) (x : Nat) : unitAt c (.mn x) = (nodeAt c x).u := rfl
@[simp] theorem setUnit_site (c : Core) (x y : Nat) (u : FUnit) : setUnit c (.site x y) u = setSite c x y u := rfl
@[simp] theorem setUnit_mn (c : Core) (x : Nat) (u : FUnit) : setUnit c (.mn x) u = setNode c x { nodeAt c x with u := u } := rfl

@[simp] theorem siteAt_raisePlace (c : Core) (p : Nat) (f : Flags) (x y : Nat) : siteAt (raisePlace c p f) x y = siteAt c x y := by
  unfold raisePlace
  split <;> rfl

-- queues ------------------------------------------------------------------------------------------------------------

@[simp] theorem queue_setQueue_same (u : FUnit) (p : Nat) (q : List Tok) : (u.setQueue p q).queue p = q := by
  cases q <;> simp [FUnit.setQueue, FUnit.queue, mapGetD]

theorem queue_setQueue_other (u : FUnit) {p j : Nat} (q : List Tok) (h : j ≠ p) : (u.setQueue p q).queue j = u.queue j := by
  cases q <;> simp [FUnit.setQueue, FUnit.queue, mapGetD, mapGet_mapSet_other _ _ h, mapGet_mapDel_other _ h]

@[simp] theorem queue_push_same (u : FUnit) (p : Nat) (t : Tok) : (u.push p t).queue p = u.queue p ++ [t] :=
  queue_setQueue_same u p _

theorem queue_push_other (u : FUnit) {p j : Nat} (t : Tok) (h : j ≠ p) : (u.push p t).queue j = u.queue j :=
  queue_setQueue_other u _ h

/-- The model's search by index is the library's. -/
theorem findIdx_eq_findIdx? {α : Type} (p : α → Bool) (l : List α) : findIdx l p = l.findIdx? p := by
  induction l with
  | nil => rfl
  | cons a l ih => rw [findIdx, ih, List.findIdx?_cons]

theorem dropNth_eq_eraseIdx {α : Type} (l : List α) (i : Nat) : dropNth l i = l.eraseIdx i :=
  (List.eraseIdx_eq_take_drop_succ l i).symm

/-- The first token that a slot may meet leaves its queue. -/
theorem queue_dropSlot_ne {u : FUnit} {p n : Nat} {t : Tok} (h : u.headFor p n = some t) : (u.dropSlot p n).queue p ≠ u.queue p := by
  refine fun he => absurd (congrArg List.length he) ?_
  unfold FUnit.headFor at h
  unfold FUnit.dropSlot
  split_ifs at h ⊢ with hp
  · subst hp
    have hsome : ((u.queue 4).findIdx? fun t => t.slot == n).isSome = true := by
      rw [List.findIdx?_isSome]
      exact List.any_eq_true.2 ⟨t, List.mem_of_find?_eq_some h, List.find?_some (p := fun t : Tok => t.slot == n) h⟩
    obtain ⟨i, hi⟩ := Option.isSome_iff_exists.1 hsome
    obtain ⟨hlt, -⟩ := List.findIdx?_eq_some_iff_getElem.1 hi
    simp only [findIdx_eq_findIdx?, hi, queue_setQueue_same, dropNth_eq_eraseIdx, List.length_eraseIdx_of_lt hlt]
    omega
  · have hpos : 0 < (u.queue p).length := List.length_pos_iff.2 fun hq => by simp [hq] at h
    simp only [queue_setQueue_same, List.length_drop]
    omega

/-- What the ports of a unit note does not bear on its queues. -/
theorem queue_dropSlot_noted (u : FUnit) (arb : SMap (List Nat)) (sent : List (Nat × Nat)) (p n j : Nat) :
    (({ u with arb := arb, sent := sent } : FUnit).dropSlot p n).queue j = (u.dropSlot p n).queue j := by
  unfold FUnit.dropSlot
  split
  · change (match findIdx (u.queue 4) fun t => t.slot == n with
      | some i => FUnit.setQueue { u with arb := arb, sent := sent } 4 (dropNth (u.queue 4) i)
      | none => { u with arb := arb, sent := sent }).queue j = _
    cases findIdx (u.queue 4) fun t => t.slot == n <;> rfl
  · rfl

end Sys2Proof.Fabric
end

section
/-! One token through a switch word (R202, R205, R209): the token that stands at the word's input, the ports that choose it, and where
its copies go. -/

namespace Sys2Proof.Fabric

open Sys2Proof Sys2Proof.Machine Sys2Proof.Laws Sys2Proof.Lasting Sys2Proof.Claim

/-- The site at the locus. -/
abbrev here (s : State) : FUnit := siteAt (cur s) s.locus.x s.locus.y

/-- A unit with what its ports note once every copy in `outs` of the first token of slot `n` on channel `ch` has left (R205). -/
def noted (c : Core) (u : FUnit) (ch n : Nat) (outs : List (Nat × Tok)) : FUnit :=
  { u with arb := outs.foldl (fun m o => mapSet m o.1 (noteSent c u (contender ch) o.1)) u.arb
           sent := u.sent.filter fun e => e.1 != sentKey ch n }

/-- A core without that token, which stood at the input of site (x, y) or in a source; `u` is the site as its ports note it. -/
def departed (c : Core) (x y : Nat) (u : FUnit) (ch n : Nat) : Core :=
  if ch < 16 then setSite c x y (u.dropSlot ch n)
  else match srcOf c u (ch - 16) with
    | some (r, _) => setSite (updSource c r (ch - 16) fun q => { q with q := q.q.drop 1 }) x y u
    | none => setSite c x y u

/-- The state in which the token of channel `ch` has left the site at the locus, and its copies `outs` are counted but not placed. -/
def leaving (s : State) (ch : Nat) (t : Tok) (outs : List (Nat × Tok)) : State :=
  setCur s (census (departed (cur s) s.locus.x s.locus.y (noted (cur s) (here s) ch s.locus.slot outs) ch s.locus.slot) t.place
    ((outs.length : Int) - 1))

theorem leaving_core (s : State) (ch : Nat) (t : Tok) (outs : List (Nat × Tok)) : (leaving s ch t outs).core = s.core := rfl

/-- The side on which the tokens of channel `ch` arrive (R202). -/
def sideOf (c : Core) (u : FUnit) (ch : Nat) : Nat := if ch < 16 then ch else sourceSide c u (ch - 16)

/-- A word takes its token from the input it is asked for, or from its source. -/
theorem headOf_input {c : Core} {u : FUnit} {n i ch : Nat} {w : Instr} {t : Tok} (h : headOf c u n w i = some (ch, t)) (hch : ch < 16) :
    ch = i ∧ u.headFor i n = some t := by
  unfold headOf at h
  split at h
  · split at h
    · simp only [Option.ite_none_right_eq_some, Option.bind_eq_some_iff, Option.ite_none_left_eq_some, Option.some.injEq,
        Prod.mk.injEq] at h
      obtain ⟨-, _, -, -, rfl, -⟩ := h
      omega
    · cases h
  · simp only [Option.ite_none_left_eq_some, Option.bind_eq_some_iff, Option.some.injEq, Prod.mk.injEq] at h
    obtain ⟨-, t', hhead, -, rfl, rfl⟩ := h
    exact ⟨rfl, hhead⟩

section Move
variable {s : State} {w : Instr} {i ch : Nat} {d : W32} {t : Tok} {hold : Core → Tok → Bool} {pre : State → Tok → State}

/-- A token none of whose copies has left, and whose outputs are all free and choose it, leaves with all its copies in one event. -/
theorem moveToken_all (hhead : headOf (cur s) (here s) s.locus.slot w i = some (ch, t)) (hkind : kindOk t w = true)
    (hfresh : ∀ e ∈ (here s).sent, e.1 ≠ sentKey ch s.locus.slot)
    (hfree : ∀ o ∈ (wordActs s.locus.slot w d i t).1, portFree (here s) (sideOf (cur s) (here s) ch) o = true ∧
      mayMove (cur s) (here s) (contender ch) o.1 = true)
    (hhold : hold (cur s) t = false) (hpre : pre s t = s) :
    moveToken s w i d hold pre =
      let outs := (wordActs s.locus.slot w d i t).1
      let z := outs.foldl (fun z o => placeCopy z s.core s.locus.x s.locus.y (sideOf (cur s) (here s) ch) o) (leaving s ch t outs)
      if (wordActs s.locus.slot w d i t).2 then
        fabricFault z s.core (.site s.locus.x s.locus.y) s.locus.slot 0x03 false t.base t.tags.length
      else z := by
  obtain ⟨outs, bad, hacts⟩ : ∃ outs bad, wordActs s.locus.slot w d i t = (outs, bad) := ⟨_, _, rfl⟩
  simp only [hacts] at hfree ⊢
  have htodo : (outs.filter fun o => !(here s).sent.contains (sentKey ch s.locus.slot, o.1)) = outs := by
    refine List.filter_eq_self.2 fun o _ => ?_
    simpa using fun hmem => hfresh _ hmem rfl
  have hnow : (outs.filter fun o => portFree (here s) (sideOf (cur s) (here s) ch) o &&
      mayMove (cur s) (here s) (contender ch) o.1) = outs := List.filter_eq_self.2 fun o ho => by simp [hfree o ho]
  have hfirst : ((here s).sent.any fun e => e.1 == sentKey ch s.locus.slot) = false := by simpa using hfresh
  have hempty : (outs.isEmpty && !outs.isEmpty) = false := by simp
  unfold sideOf at hnow
  unfold moveToken
  simp only [hhead, hkind, hacts, htodo, hhold, hpre, hfirst, hnow, hempty, beq_self_eq_true, Bool.not_false, Bool.not_true,
    Bool.and_true, Bool.or_self, Bool.false_eq_true, if_true, if_false]
  by_cases hch : ch < 16
  · obtain ⟨rfl, -⟩ := headOf_input hhead hch
    simp only [leaving, departed, sideOf, hch, if_true]
    rfl
  · simp only [leaving, departed, sideOf, hch, if_false]
    rfl

/-- With no token at its input a word does nothing. -/
theorem moveToken_none (hhead : headOf (cur s) (here s) s.locus.slot w i = none) : moveToken s w i d hold pre = s := by
  unfold moveToken
  simp only [hhead]

end Move

-- copies ------------------------------------------------------------------------------------------------------------

section Copy
variable {s : State} {k x y i p : Nat} {r : Tok}

theorem core_routeFault (s : State) (n : Nat) (id : UnitId) (t : Tok) : (routeFault s n id t).core = s.core :=
  (lasts_faultAt _ _ _ _).core

theorem core_placeCopy (s : State) (k x y i : Nat) (o : Nat × Tok) : (placeCopy s k x y i o).core = s.core := by
  unfold placeCopy
  dsimp only
  split
  · split
    · rfl
    · exact core_routeFault _ _ _ _
  · split
    · rfl
    · exact core_routeFault _ _ _ _
  · rfl

theorem placeCopy_link (hp : p < 4) : placeCopy s k x y i (p, r) =
    setCore s k (setSite (coreAt s k) x y
      { siteAt (coreAt s k) x y with out := mapSet (siteAt (coreAt s k) x y).out p r }) := by
  have h4 : p ≠ 4 := by omega
  have h5 : p ≠ 5 := by omega
  simp only [placeCopy]

theorem site_placeCopy_link (hp : p < 4) : siteAt (coreAt (placeCopy s k x y i (p, r)) k) x y =
    { siteAt (coreAt s k) x y with out := mapSet (siteAt (coreAt s k) x y).out p r } := by
  rw [placeCopy_link hp, coreAt_setCore_same, siteAt_setSite_same]

theorem site_placeCopy_local {j : Nat} (hj : localInput (siteAt (coreAt s k) x y) r.slot i = some j) :
    siteAt (coreAt (placeCopy s k x y i (4, r)) k) x y = { siteAt (coreAt s k) x y with
      unitq := (siteAt (coreAt s k) x y).unitq ++ [{ slot := r.slot, inp := j, tok := r }] } := by
  simp only [placeCopy, hj, coreAt_setCore_same, siteAt_setSite_same]

theorem site_placeCopy_side (hr : r.kind = .control) : siteAt (coreAt (placeCopy s k x y i (5, r)) k) x y =
    { siteAt (coreAt s k) x y with side := (siteAt (coreAt s k) x y).side ++ [(i, r)] } := by
  simp only [placeCopy, hr, beq_self_eq_true, if_true, coreAt_setCore_same, siteAt_setSite_same]

/-- Copies that leave by link ports stand in the output registers. -/
theorem site_foldl_placeCopy {outs : List (Nat × Tok)} (hlink : ∀ o ∈ outs, o.1 < 4) :
    siteAt (coreAt (outs.foldl (fun z o => placeCopy z k x y i o) s) k) x y =
      { siteAt (coreAt s k) x y with out := outs.foldl (fun m o => mapSet m o.1 o.2) (siteAt (coreAt s k) x y).out } := by
  induction outs generalizing s with
  | nil => rfl
  | cons o outs ih =>
    rw [List.foldl_cons, ih fun o' ho' => hlink o' (by simp [ho']), site_placeCopy_link (hlink o (by simp))]
    rfl

end Copy

-- the site that a token has left --------------------------------------------------------------------------------------

/-- A token that leaves an input touches the unit's queues alone. -/
theorem dropSlot_eq (u : FUnit) (p n : Nat) : ∃ q, u.dropSlot p n = { u with inq := q } := by
  unfold FUnit.dropSlot
  split
  · split
    · exact ⟨_, rfl⟩
    · exact ⟨_, rfl⟩
  · exact ⟨_, rfl⟩

theorem localInput_congr {u v : FUnit} (h : v.slots = u.slots) (n p : Nat) : localInput v n p = localInput u n p := by
  unfold localInput FUnit.slot
  rw [h]

section Leaving
variable {s z : State} {w : Instr} {i : Nat} {d : W32} {t : Tok} {hold : Core → Tok → Bool} {pre : State → Tok → State}

/-- The site that the token of one of its inputs has left: the queue without it, and the rest but for what the ports note. -/
theorem here_leaving (hi : i < 16) (t : Tok) (outs : List (Nat × Tok)) :
    ∃ inq arb sent, siteAt (coreAt (leaving s i t outs) s.core) s.locus.x s.locus.y =
        { here s with inq := inq, arb := arb, sent := sent } ∧
      (FUnit.queue { here s with inq := inq, arb := arb, sent := sent } i) = ((here s).dropSlot i s.locus.slot).queue i := by
  have hsite : siteAt (coreAt (leaving s i t outs) s.core) s.locus.x s.locus.y =
      (noted (cur s) (here s) i s.locus.slot outs).dropSlot i s.locus.slot := by
    change siteAt (cur (leaving s i t outs)) s.locus.x s.locus.y = _
    simp only [leaving, cur_setCur, siteAt_census, departed, hi, if_true, siteAt_setSite_same]
  obtain ⟨q, hq⟩ := dropSlot_eq (noted (cur s) (here s) i s.locus.slot outs) i s.locus.slot
  refine ⟨q, _, _, hsite.trans hq, ?_⟩
  rw [← queue_dropSlot_noted (here s) (noted (cur s) (here s) i s.locus.slot outs).arb
    (noted (cur s) (here s) i s.locus.slot outs).sent]
  exact congrArg (fun u : FUnit => u.queue i) hq.symm

/-- `moveToken_all` for a word that takes from an input. -/
theorem moveToken_of_moves (hM : Moves s w i d t) (hhold : hold (cur s) t = false) (hpre : pre s t = s) :
    moveToken s w i d hold pre =
      let outs := (wordActs s.locus.slot w d i t).1
      let z := outs.foldl (fun z o => placeCopy z s.core s.locus.x s.locus.y i o) (leaving s i t outs)
      if (wordActs s.locus.slot w d i t).2 then
        fabricFault z s.core (.site s.locus.x s.locus.y) s.locus.slot 0x03 false t.base t.tags.length
      else z := by
  obtain ⟨hhead, hkind, hi, hfresh, hfree⟩ := hM
  have hi16 : i < 16 := by omega
  have hside : sideOf (cur s) (here s) i = i := if_pos hi16
  have hcont : contender i = i := if_pos hi16
  rw [moveToken_all hhead hkind hfresh (fun o ho => ?_) hhold hpre, hside]
  obtain ⟨hport, -, hmay⟩ := hfree o ho
  rw [hside, hcont]
  exact ⟨hport, hmay⟩

/-- In `z` the head of input `i` of the site at the locus has left it and stands as `r` at output `p`. -/
def Stands (s : State) (i p : Nat) (r : Tok) (z : State) : Prop :=
  (siteAt (cur z) s.locus.x s.locus.y).queue i = ((here s).dropSlot i s.locus.slot).queue i ∧
  (p < 4 → mapGet (siteAt (cur z) s.locus.x s.locus.y).out p = some r) ∧
  (p = 4 → ∀ k, localInput (here s) r.slot i = some k →
    (siteAt (cur z) s.locus.x s.locus.y).unitq = (here s).unitq ++ [{ slot := r.slot, inp := k, tok := r }])

/-- A word that sends its token by one output moves it there. -/
theorem stands_moveToken {p : Nat} {r : Tok} (hM : Moves s w i d t) (hacts : wordActs s.locus.slot w d i t = ([(p, r)], false))
    (hp : p ≤ 4) (hhold : hold (cur s) t = false) (hpre : pre s t = s) : Stands s i p r (moveToken s w i d hold pre) := by
  have hmove := moveToken_of_moves hM hhold hpre
  obtain ⟨-, -, hi, -, hfree⟩ := hM
  obtain ⟨inq, arb, sent, hsite, hqueue⟩ := here_leaving (s := s) (show i < 16 by omega) t [(p, r)]
  simp only [hacts, List.foldl_cons, List.foldl_nil, Bool.false_eq_true, if_false] at hmove
  rw [hmove, Stands, cur, core_placeCopy, leaving_core]
  rcases Nat.lt_or_eq_of_le hp with hlink | rfl
  · rw [site_placeCopy_link hlink, hsite]
    exact ⟨hqueue, fun _ => mapGet_mapSet_same _ _ _, fun h => absurd h (by omega)⟩
  · obtain ⟨-, hlocal, -⟩ := hfree (4, r) (by simp [hacts])
    obtain ⟨j, hj⟩ := Option.isSome_iff_exists.1 (hlocal rfl)
    have hj' : localInput (siteAt (coreAt (leaving s i t [(4, r)]) s.core) s.locus.x s.locus.y) r.slot i = some j := by
      rw [hsite, ← hj]
      exact localInput_congr rfl _ _
    rw [site_placeCopy_local hj', hsite]
    refine ⟨hqueue, fun h => absurd h (by omega), fun _ k hk => ?_⟩
    obtain rfl : j = k := Option.some.inj (hj.symm.trans hk)
    rfl

end Leaving

-- words of two inputs --------------------------------------------------------------------------------------------------

section TwoInputs
variable {s : State} {w : Instr} {i j p : Nat} {t r : Tok}

/-- The token of the second input moves. -/
theorem stands_twoInputs_second (hM : Moves s w j 0 t) (hacts : wordActs s.locus.slot w 0 j t = ([(p, r)], false)) (hp : p ≤ 4) :
    Stands s j p r (twoInputs s w i j) := by
  have hstands : Stands s j p r (plain s w j) := stands_moveToken hM hacts hp rfl rfl
  obtain ⟨hhead, -, hj, -⟩ := hM
  obtain ⟨-, hfor⟩ := headOf_input hhead (by omega)
  have hne : plain s w j ≠ s := fun he => by
    obtain ⟨hqueue, -⟩ := hstands
    rw [he] at hqueue
    exact queue_dropSlot_ne hfor hqueue.symm
  rwa [twoInputs, if_neg hne]

/-- With no token at the second input that of the first moves. -/
theorem stands_twoInputs_first (hM : Moves s w i 0 t) (hacts : wordActs s.locus.slot w 0 i t = ([(p, r)], false)) (hp : p ≤ 4)
    (hsilent : Silent s w j) : Stands s i p r (twoInputs s w i j) := by
  have hnone : plain s w j = s := moveToken_none hsilent
  rw [twoInputs, if_pos hnone]
  exact stands_moveToken hM hacts hp rfl rfl

end TwoInputs

/-- Settles O26: a word that sends its token by one output takes it from its input and puts it there (`stands_moveToken`); of two
inputs the second is asked first, and its token's leaving shows in the state. -/
theorem switchWordsMoveTheirToken : Obligations.SwitchWordsMoveTheirToken := by
  unfold Obligations.SwitchWordsMoveTheirToken
  intro s t i o j n p sc ho
  refine ⟨fun hM => ?route, fun hM => ?ord, fun hM => ?mergeSecond, fun hM hsilent => ?mergeFirst, fun hM => ?gateBack,
    fun hij hM hsilent => ?gateFront, fun hM hsc hperformed => ?bound, fun hM => ?null⟩
  case route => exact ⟨_, rfl, stands_moveToken hM rfl ho rfl rfl⟩
  case ord => exact ⟨_, rfl, stands_moveToken hM rfl ho rfl rfl⟩
  case mergeSecond => exact ⟨_, rfl, stands_twoInputs_second hM rfl ho⟩
  case mergeFirst => exact ⟨_, rfl, stands_twoInputs_first hM rfl ho hsilent⟩
  case gateBack => exact ⟨_, rfl, stands_twoInputs_second hM (by simp [wordActs]) ho⟩
  case gateFront =>
    have hne : i.toNat ≠ j.toNat := fun h => hij (BitVec.eq_of_toNat_eq h)
    exact ⟨_, rfl, stands_twoInputs_first hM (by simp [wordActs, hne]) ho hsilent⟩
  case bound =>
    refine ⟨_, rfl, stands_moveToken hM rfl ho ?_ ?_⟩
    · simp only [hperformed, Bool.and_false]
    · simp [hsc]
  case null =>
    refine ⟨_, rfl, stands_moveToken hM ?_ ho rfl rfl⟩
    have h0 : p.toNat = 0 ↔ p = 0 := BitVec.toNat_inj (y := 0)
    have h1 : p.toNat = 1 ↔ p = 1 := BitVec.toNat_inj (y := 1)
    cases hrun : t.isRun
    · simp [wordActs, hrun]
    · simp only [wordActs, hrun, nullLanes, if_true, h0, h1]

end Sys2Proof.Fabric
end

section
/-! Switch words that copy, divide, consume or set aside a token, and the one that passes a source's (R209, R210, R213, R219). -/

namespace Sys2Proof.Fabric

open Sys2Proof Sys2Proof.Machine Sys2Proof.Laws Sys2Proof.Lasting Sys2Proof.Claim

/-- A register that several writes agree on holds what they write. -/
theorem mapGet_foldl_mapSet {α : Type} {ws : List (Nat × α)} {p : Nat} {r : α} {m : SMap α}
    (hset : mapGet m p = some r ∨ ∃ o ∈ ws, o.1 = p) (hall : ∀ o ∈ ws, o.1 = p → o.2 = r) :
    mapGet (ws.foldl (fun m o => mapSet m o.1 o.2) m) p = some r := by
  induction ws generalizing m with
  | nil => simpa using hset
  | cons o ws ih =>
    refine ih ?_ fun o' ho' => hall o' (by simp [ho'])
    by_cases hp : o.1 = p
    · subst hp
      exact .inl ((mapGet_mapSet_same _ _ _).trans (congrArg some (hall o (by simp) rfl)))
    · rw [mapGet_mapSet_other _ _ (Ne.symm hp)]
      simpa [hp] using hset

-- sources -------------------------------------------------------------------------------------------------------------

theorem getElem?_mapNth {α : Type} (f : α → α) (k : Nat) (l : List α) : (mapNth f k l)[k]? = l[k]?.map f := by
  induction l generalizing k with
  | nil => cases k <;> rfl
  | cons a l ih =>
    cases k with
    | zero => rfl
    | succ k => simpa [mapNth] using ih k

/-- Counting a token leaves every source as it is (R219). -/
theorem sourceAt_census (c : Core) (p : Nat) (d : Int) (r k : Nat) : sourceAt (census c p d) r k = sourceAt c r k := by
  unfold sourceAt census
  dsimp only
  rw [Loader.mapGet_map]
  · cases mapGet c.regions r with
    | none => rfl
    | some g =>
      simp only [Option.map_some, Option.bind_some]
      split
      · rfl
      · split
        · split <;> rfl
        · rfl
  · intro e
    split
    · rfl
    · split
      · split <;> rfl
      · rfl

theorem sourceAt_updSource {c : Core} {r k : Nat} {q : Source} (h : sourceAt c r k = some q) (f : Source → Source) :
    sourceAt (updSource c r k f) r k = some (f q) := by
  obtain ⟨g, hg, hq⟩ := Option.bind_eq_some_iff.1 h
  simp only [sourceAt, updSource, Loader.mapGet_updRegion_same hg, Option.bind_some, getElem?_mapNth, hq, Option.map_some]

theorem sourceAt_of_srcOf {c : Core} {u : FUnit} {k r : Nat} {q : Source} (h : srcOf c u k = some (r, q)) :
    sourceAt c r k = some q := by
  simp only [srcOf, Option.bind_eq_some_iff] at h
  obtain ⟨r', -, q', hq', h⟩ := h
  split at h
  · obtain ⟨-, h⟩ := Option.ite_none_right_eq_some.1 h
    cases h
    exact hq'
  · cases h

theorem regions_placeCopy_link {s : State} {k x y i p : Nat} {r : Tok} (hp : p < 4) :
    (coreAt (placeCopy s k x y i (p, r)) k).regions = (coreAt s k).regions := by
  rw [placeCopy_link hp, coreAt_setCore_same]
  rfl

-- words whose outputs are link ports ------------------------------------------------------------------------------------

section Links
variable {s : State} {w : Instr} {i : Nat} {d : W32} {t : Tok}

theorem core_foldl_placeCopy (outs : List (Nat × Tok)) (s : State) (k x y i : Nat) :
    (outs.foldl (fun z o => placeCopy z k x y i o) s).core = s.core :=
  Loader.foldl_keeps (fun z o => core_placeCopy z k x y i o) outs s

/-- A word that sends by link ports alone takes its token away and puts each copy in its output register; the record that it may
write (R210) changes no site. -/
theorem plain_links (hM : Moves s w i 0 t) (hlink : ∀ o ∈ (wordActs s.locus.slot w 0 i t).1, o.1 < 4) :
    (siteAt (cur (plain s w i)) s.locus.x s.locus.y).queue i = ((here s).dropSlot i s.locus.slot).queue i ∧
    (siteAt (cur (plain s w i)) s.locus.x s.locus.y).out =
      (wordActs s.locus.slot w 0 i t).1.foldl (fun m o => mapSet m o.1 o.2) (here s).out := by
  have hmove : plain s w i = _ := moveToken_of_moves (hold := fun _ _ => false) (pre := fun s _ => s) hM rfl rfl
  obtain ⟨-, -, hi, -⟩ := hM
  obtain ⟨outs, bad, hacts⟩ : ∃ outs bad, wordActs s.locus.slot w 0 i t = (outs, bad) := ⟨_, _, rfl⟩
  simp only [hacts] at hmove hlink ⊢
  obtain ⟨inq, arb, sent, hsite, hqueue⟩ := here_leaving (s := s) (show i < 16 by omega) t outs
  have hlasts : Lasts (outs.foldl (fun z o => placeCopy z s.core s.locus.x s.locus.y i o) (leaving s i t outs)) (plain s w i) := by
    rw [hmove]
    exact .ite (lasts_faultAt _ _ _ _) (.refl _)
  have hz : siteAt (cur (plain s w i)) s.locus.x s.locus.y = siteAt (coreAt (outs.foldl
      (fun z o => placeCopy z s.core s.locus.x s.locus.y i o) (leaving s i t outs)) s.core) s.locus.x s.locus.y := by
    rw [cur, hlasts.core, core_foldl_placeCopy, leaving_core, siteAt, hlasts.sites, siteAt]
  rw [hz, site_foldl_placeCopy hlink, hsite]
  exact ⟨hqueue, rfl⟩

end Links

-- fork and steer ---------------------------------------------------------------------------------------------------------

/-- The copies of a fork whose mask names link ports alone. -/
theorem mem_fork {n k : Nat} {i x : BitVec 3} {m : BitVec 6} {d : W32} {t : Tok} (hm : m.toNat < 16) {o : Nat × Tok} :
    o ∈ (wordActs n (.swFork i x m) d k t).1 ↔ o.1 < 4 ∧ m.getLsbD o.1 = true ∧ o.2 = { t with slot := x.toNat } := by
  have h4 : m.getLsbD 4 = false := Nat.testBit_lt_two_pow hm
  have h5 : m.getLsbD 5 = false := Nat.testBit_lt_two_pow (by omega)
  simp only [wordActs, wordOuts, List.map_map, List.mem_map, List.mem_filter, Function.comp_apply]
  constructor
  · rintro ⟨p, ⟨hp, hbit⟩, rfl⟩
    have h4' : p ≠ 4 := by rintro rfl; exact Bool.false_ne_true (h4.symm.trans hbit)
    have h5' : p ≠ 5 := by rintro rfl; exact Bool.false_ne_true (h5.symm.trans hbit)
    refine ⟨?_, hbit, rfl⟩
    simp only [List.mem_cons, List.not_mem_nil, or_false] at hp
    dsimp only
    omega
  · rintro ⟨hp, hbit, hv⟩
    refine ⟨o.1, ⟨?_, hbit⟩, Prod.ext rfl hv.symm⟩
    simp only [List.mem_cons, List.not_mem_nil, or_false]
    omega

theorem plain_fork {s : State} {t : Tok} {i n : BitVec 3} {m : BitVec 6} (hm : m.toNat < 16)
    (hM : Moves s (.swFork i n m) i.toNat 0 t) :
    let z := siteAt (cur (plain s (.swFork i n m) i.toNat)) s.locus.x s.locus.y
    z.queue i.toNat = ((here s).dropSlot i.toNat s.locus.slot).queue i.toNat ∧
    ∀ p : Nat, p < 4 → m.getLsbD p = true → mapGet z.out p = some { t with slot := n.toNat } := by
  obtain ⟨hqueue, hout⟩ := plain_links hM fun o ho => ((mem_fork hm).1 ho).1
  refine ⟨hqueue, fun p hp hbit => ?_⟩
  rw [hout]
  refine mapGet_foldl_mapSet (.inr ⟨(p, { t with slot := n.toNat }), (mem_fork hm).2 ⟨hp, hbit, rfl⟩, rfl⟩) fun o ho _ => ?_
  exact ((mem_fork hm).1 ho).2.2

theorem wordActs_steer {n k : Nat} {i tp fp : BitVec 3} {b : BitVec 1} {l : BitVec 2} {d : W32} {t : Tok} (hrun : t.isRun = true) :
    (wordActs n (.swSteer i tp b fp l) d k t).1 =
      let yes := steerTrue l.toNat t
      let no := t.tags.filter fun a => !yes.contains a
      if no = [] then [(tp.toNat, t)] else if yes = [] then [(fp.toNat, t)]
      else [(tp.toNat, steerPart t yes), (fp.toNat, steerPart t no)] := by
  simp only [wordActs, hrun, Bool.not_true, Bool.false_eq_true, if_false, List.isEmpty_iff]
  split_ifs <;> rfl

theorem plain_steer {s : State} {t : Tok} {i tp fp : BitVec 3} {b : BitVec 1} {l : BitVec 2} (hrun : t.isRun = true)
    (htp : tp.toNat < 4) (hfp : fp.toNat < 4) (hne : tp ≠ fp) (hM : Moves s (.swSteer i tp b fp l) i.toNat 0 t) :
    let yes := steerTrue l.toNat t
    let no := t.tags.filter fun a => !yes.contains a
    let z := siteAt (cur (plain s (.swSteer i tp b fp l) i.toNat)) s.locus.x s.locus.y
    z.queue i.toNat = ((here s).dropSlot i.toNat s.locus.slot).queue i.toNat ∧
    (no = [] → mapGet z.out tp.toNat = some t) ∧ (no ≠ [] → yes = [] → mapGet z.out fp.toNat = some t) ∧
    (no ≠ [] → yes ≠ [] → mapGet z.out tp.toNat = some (steerPart t yes) ∧ mapGet z.out fp.toNat = some (steerPart t no)) := by
  intro yes no z
  have hports : tp.toNat ≠ fp.toNat := fun h => hne (BitVec.eq_of_toNat_eq h)
  have hacts : (wordActs s.locus.slot (.swSteer i tp b fp l) 0 i.toNat t).1 = _ := wordActs_steer hrun
  obtain ⟨hqueue, hout⟩ := plain_links hM (by
    rw [hacts]
    dsimp only
    split_ifs <;> simp [htp, hfp])
  refine ⟨hqueue, fun hno => ?_, fun hno hyes => ?_, fun hno hyes => ?_⟩
  · rw [hout, hacts, if_pos hno]
    exact mapGet_mapSet_same _ _ _
  · rw [hout, hacts, if_neg hno, if_pos hyes]
    exact mapGet_mapSet_same _ _ _
  · rw [hout, hacts, if_neg hno, if_neg hyes]
    exact ⟨(mapGet_mapSet_other _ _ hports).trans (mapGet_mapSet_same _ _ _), mapGet_mapSet_same _ _ _⟩

-- sink, source and control ------------------------------------------------------------------------------------------------

/-- A consumed token leaves its input and the census (R219). -/
theorem plain_sink {s : State} {t : Tok} {i : BitVec 3} (hM : Moves s (.swSink i) i.toNat 0 t) :
    (siteAt (cur (plain s (.swSink i) i.toNat)) s.locus.x s.locus.y).queue i.toNat =
      ((here s).dropSlot i.toNat s.locus.slot).queue i.toNat ∧
    (cur (plain s (.swSink i) i.toNat)).regions = (census (cur s) t.place (-1)).regions := by
  have hmove : plain s (.swSink i) i.toNat = leaving s i.toNat t [] :=
    moveToken_of_moves (hold := fun _ _ => false) (pre := fun s _ => s) hM rfl rfl
  obtain ⟨hqueue, -⟩ := plain_links hM nofun
  refine ⟨hqueue, ?_⟩
  obtain ⟨-, -, hi, -⟩ := hM
  rw [hmove, leaving, cur_setCur, departed, if_pos (by omega)]
  rfl

/-- A control token leaves for the side input with its port (R251). -/
theorem plain_ctl {s : State} {t : Tok} {i : BitVec 3} (hctl : t.kind = .control) (hM : Moves s (.swCtl i) i.toNat 0 t) :
    (siteAt (cur (plain s (.swCtl i) i.toNat)) s.locus.x s.locus.y).side = (here s).side ++ [(i.toNat, t)] ∧
    (siteAt (cur (plain s (.swCtl i) i.toNat)) s.locus.x s.locus.y).queue i.toNat =
      ((here s).dropSlot i.toNat s.locus.slot).queue i.toNat := by
  have hmove : plain s (.swCtl i) i.toNat = placeCopy (leaving s i.toNat t [(5, t)]) s.core s.locus.x s.locus.y i.toNat (5, t) :=
    moveToken_of_moves (hold := fun _ _ => false) (pre := fun s _ => s) hM rfl rfl
  obtain ⟨-, -, hi, -⟩ := hM
  obtain ⟨inq, arb, sent, hsite, hqueue⟩ := here_leaving (s := s) (show i.toNat < 16 by omega) t [(5, t)]
  rw [hmove, cur, core_placeCopy, leaving_core, site_placeCopy_side hctl, hsite]
  exact ⟨rfl, hqueue⟩

theorem portFree_link {u : FUnit} {i p : Nat} (t : Tok) (hp : p < 4) (hout : mapGet u.out p = none) : portFree u i (p, t) = true := by
  have h4 : p ≠ 4 := by omega
  have h5 : p ≠ 5 := by omega
  simp only [portFree, hout, Option.isNone_none]

/-- A source whose head has left holds the rest of its queue. -/
theorem leaving_source {s : State} {k r : Nat} {q : Source} (hsrc : srcOf (cur s) (here s) k = some (r, q)) (t : Tok)
    (outs : List (Nat × Tok)) :
    sourceAt (coreAt (leaving s (16 + k) t outs) s.core) r k = some { q with q := q.q.drop 1 } := by
  have hsrc' : srcOf (cur s) (noted (cur s) (here s) (16 + k) s.locus.slot outs) k = some (r, q) := hsrc
  have hcore : coreAt (leaving s (16 + k) t outs) s.core = census (setSite (updSource (cur s) r k fun q => { q with q := q.q.drop 1 })
      s.locus.x s.locus.y (noted (cur s) (here s) (16 + k) s.locus.slot outs)) t.place ((outs.length : Int) - 1) := by
    change cur (leaving s (16 + k) t outs) = _
    simp only [leaving, cur_setCur, departed, if_neg (show ¬ 16 + k < 16 by omega), Nat.add_sub_cancel_left, hsrc']
  rw [hcore, sourceAt_census]
  exact sourceAt_updSource (sourceAt_of_srcOf hsrc) _

/-- The head of a source's queue leaves by a free output that chooses it. -/
theorem plain_src {s : State} {t : Tok} {o tp n : BitVec 3} {r : Nat} {q : Source} (ho : o.toNat < 4)
    (hhead : headOf (cur s) (here s) s.locus.slot (.swSrc o tp n) 0 = some (16 + tp.toNat, t))
    (hsrc : srcOf (cur s) (here s) tp.toNat = some (r, q)) (hout : mapGet (here s).out o.toNat = none)
    (hfresh : ∀ e ∈ (here s).sent, e.1 ≠ 5 + tp.toNat) (hmay : mayMove (cur s) (here s) (5 + tp.toNat) o.toNat = true) :
    mapGet (siteAt (cur (plain s (.swSrc o tp n) 0)) s.locus.x s.locus.y).out o.toNat = some { t with slot := n.toNat } ∧
    (sourceAt (cur (plain s (.swSrc o tp n) 0)) r tp.toNat).map (·.q) = some (q.q.drop 1) := by
  have hcont : contender (16 + tp.toNat) = 5 + tp.toNat := by simp only [contender]; split <;> omega
  have hkey : sentKey (16 + tp.toNat) s.locus.slot = 5 + tp.toNat := by rw [sentKey, if_neg (by omega), hcont]
  have hmove := moveToken_all (d := 0) (hold := fun _ _ => false) (pre := fun s _ => s) hhead rfl (hkey ▸ hfresh)
    (fun e he => by
      obtain rfl : e = (o.toNat, { t with slot := n.toNat }) := List.mem_singleton.1 he
      exact ⟨portFree_link _ ho hout, hcont ▸ hmay⟩) rfl rfl
  change plain s (.swSrc o tp n) 0 = placeCopy (leaving s (16 + tp.toNat) t [(o.toNat, { t with slot := n.toNat })]) s.core s.locus.x
    s.locus.y (sideOf (cur s) (here s) (16 + tp.toNat)) (o.toNat, { t with slot := n.toNat }) at hmove
  have hsource := leaving_source hsrc t [(o.toNat, { t with slot := n.toNat })]
  rw [hmove, cur, core_placeCopy, leaving_core, site_placeCopy_link ho, sourceAt, regions_placeCopy_link ho, ← sourceAt, hsource]
  exact ⟨mapGet_mapSet_same _ _ _, rfl⟩

/-- Settles O27: copies and parts leave by link ports (`plain_links`), a consumed token leaves the census, a source's head leaves its
queue, and a control token stands aside. -/
theorem forkSteerSinkSourceAndControlWords : Obligations.ForkSteerSinkSourceAndControlWords := by
  unfold Obligations.ForkSteerSinkSourceAndControlWords
  intro s t i o n tp fp m b l r q
  exact ⟨fun hm hM => ⟨_, rfl, plain_fork hm hM⟩, fun hrun htp hfp hne hM => ⟨_, rfl, plain_steer hrun htp hfp hne hM⟩,
    fun hM => ⟨_, rfl, plain_sink hM⟩,
    fun ho hhead hsrc hout hfresh hmay => ⟨_, rfl, plain_src ho hhead hsrc hout hfresh hmay⟩,
    fun hctl hM => ⟨_, rfl, plain_ctl hctl hM⟩⟩

end Sys2Proof.Fabric
end

section
/-! Tokens across links (R196, R197, R202, R283, R348). -/

namespace Sys2Proof.Fabric

open Sys2Proof Sys2Proof.Machine Sys2Proof.Laws Sys2Proof.Lasting Sys2Proof.Claim

section Arrive
variable {s : State} {k x y p : Nat} {t : Tok}

/-- A token that a word at the site handles joins the queue of the port it comes by. -/
theorem arriveSite_of_word (h : ((siteAt (coreAt s k) x y).wordFor t.slot p).isSome = true) :
    arriveSite s k x y p t = setCore s k (setSite (coreAt s k) x y ((siteAt (coreAt s k) x y).push p t)) := by
  obtain ⟨w, hw⟩ := Option.isSome_iff_exists.1 h
  simp only [arriveSite, hw]

theorem arriveNode_of_route (h : (nodeRoute (unitAt (coreAt s k) (.mn x)) t.slot).isSome = true) (hkind : t.kind ≠ .control) :
    arriveNode s k x t = setCore s k (setUnit (coreAt s k) (.mn x) ((unitAt (coreAt s k) (.mn x)).push 0 t)) := by
  have hctl : (t.kind != .control) = true := bne_iff_ne.2 hkind
  simp only [arriveNode, h, hctl, Bool.and_self, Bool.or_true, if_true]

end Arrive

/-- The core with the output register emptied. -/
def sentCore (c : Core) (x y p : Nat) : Core := setSite c x y { siteAt c x y with out := mapDel (siteAt c x y).out p }

theorem cur_eq (s : State) : coreAt s s.core = cur s := rfl

section Send
variable {s : State} {x y p a b q : Nat} {t : Tok} {g : Config}
  (hout : mapGet (siteAt (cur s) x y).out p = some t) (hcfg : cfgOfPlace (cur s) t.place = some g)
include hout hcfg

/-- To a neighbouring site. -/
theorem sendSite_site (hdest : linkDest g x y p = .site a b q) (hne : siteKey a b ≠ siteKey x y)
    (hspace : hasSpace ((siteAt (cur s) a b).queue q) t = true) (hword : ((siteAt (cur s) a b).wordFor t.slot q).isSome = true) :
    mapGet (siteAt (cur (sendSite s s.core x y p)) x y).out p = none ∧
    (siteAt (cur (sendSite s s.core x y p)) a b).queue q = (siteAt (cur s) a b).queue q ++ [t] := by
  have hsend : sendSite s s.core x y p = arriveSite (setCur s (sentCore (cur s) x y p)) s.core a b q t := by
    simp only [sendSite, cur_eq, hout, hcfg, hdest, hspace, Option.bind_some, Bool.true_or, if_true]
    rfl
  have hcore : coreAt (setCur s (sentCore (cur s) x y p)) s.core = sentCore (cur s) x y p := cur_setCur _ _
  have hsame : siteAt (sentCore (cur s) x y p) a b = siteAt (cur s) a b := siteAt_setSite_other _ _ hne
  rw [hsend, arriveSite_of_word (by rwa [hcore, hsame]), hcore, hsame, cur, setCore_core, setCur_core, coreAt_setCore_same,
    siteAt_setSite_same, siteAt_setSite_other _ _ hne.symm, sentCore, siteAt_setSite_same]
  exact ⟨mapGet_mapDel_same _ _, queue_push_same _ _ _⟩

/-- To a memory node. -/
theorem sendSite_mn (hdest : linkDest g x y p = .mn a) (hspace : hasSpace ((unitAt (cur s) (.mn a)).queue 0) t = true)
    (hroute : (nodeRoute (unitAt (cur s) (.mn a)) t.slot).isSome = true) (hkind : t.kind ≠ .control) :
    (unitAt (cur (sendSite s s.core x y p)) (.mn a)).queue 0 = (unitAt (cur s) (.mn a)).queue 0 ++ [t] := by
  have hsend : sendSite s s.core x y p = arriveNode (setCur s (sentCore (cur s) x y p)) s.core a t := by
    simp only [sendSite, cur_eq, hout, hcfg, hdest, hspace, Option.bind_some, Bool.true_or, if_true]
    rfl
  have hcore : coreAt (setCur s (sentCore (cur s) x y p)) s.core = sentCore (cur s) x y p := cur_setCur _ _
  have hsame : unitAt (sentCore (cur s) x y p) (.mn a) = unitAt (cur s) (.mn a) := rfl
  rw [hsend, arriveNode_of_route (by rwa [hcore, hsame]) hkind, hcore, hsame, cur, setCore_core, setCur_core, coreAt_setCore_same,
    setUnit_mn, unitAt_mn, nodeAt_setNode_same]
  exact queue_push_same _ _ _

/-- To a stream port. -/
theorem sendSite_sp (hdest : linkDest g x y p = .sp a) (hspace : hasSpace (portAt (cur s) a).q t = true) :
    (portAt (cur (sendSite s s.core x y p)) a).q = (portAt (cur s) a).q ++ [t] := by
  have hsend : sendSite s s.core x y p =
      setCur s (setPort (sentCore (cur s) x y p) a { portAt (cur s) a with q := (portAt (cur s) a).q ++ [t] }) := by
    simp only [sendSite, cur_eq, hout, hcfg, hdest, hspace, Option.bind_some, Bool.true_or, if_true]
    rfl
  rw [hsend, cur_setCur, portAt, setPort, mapGetD, mapGet_mapSet_same]
  rfl

/-- To a tile port. -/
theorem sendSite_me (hdest : linkDest g x y p = .me a) (hspace : hasSpace (mapGetD (cur s).mx.ports a []) t = true) :
    mapGet (cur (sendSite s s.core x y p)).mx.ports a = some (mapGetD (cur s).mx.ports a [] ++ [t]) := by
  have hsend : sendSite s s.core x y p = setCur s { sentCore (cur s) x y p with
      mx := { (cur s).mx with ports := mapSet (cur s).mx.ports a (mapGetD (cur s).mx.ports a [] ++ [t]) } } := by
    simp only [sendSite, cur_eq, hout, hcfg, hdest, hspace, Option.bind_some, Bool.true_or, if_true]
    rfl
  rw [hsend, cur_setCur]
  exact mapGet_mapSet_same _ _ _

end Send

/-- LINK_TOKEN_SEND at a site that the part has. -/
theorem exec_linkTokenSend_site {s : State} {x y p : Nat} (hx : x < 8) (hy : y < 6) (hp : p < 4) :
    exec (.linkTokenSend (.site x y) p) s = .next (sendSite s s.core x y p) := by
  change execLinkTokenSend (.site x y) p s = _
  simp only [execLinkTokenSend, unitOk, hx, hy, hp, decide_true, Bool.and_self, Bool.not_true, Bool.false_eq_true, if_false, if_true]

/-- A memory node sends the head of its port S to the site below it (R282). -/
theorem exec_linkTokenSend_mn {s : State} {x p : Nat} {v : Tok} {r : List Tok} (hx : x < 8)
    (hqueue : (unitAt (cur s) (.mn x)).queue 4 = v :: r) (hspace : hasSpace ((siteAt (cur s) x 0).queue 0) v = true)
    (hword : ((siteAt (cur s) x 0).wordFor v.slot 0).isSome = true) :
    ∃ z, exec (.linkTokenSend (.mn x) p) s = .next z ∧ (unitAt (cur z) (.mn x)).queue 4 = r ∧
      (siteAt (cur z) x 0).queue 0 = (siteAt (cur s) x 0).queue 0 ++ [v] := by
  have hexec : execLinkTokenSend (.mn x) p s =
      .next (arriveSite (setCur s (setUnit (cur s) (.mn x) ((unitAt (cur s) (.mn x)).setQueue 4 r))) s.core x 0 0 v) := by
    simp only [execLinkTokenSend, unitOk, hx, hqueue, hspace, decide_true, Bool.not_true, Bool.false_eq_true, if_false, if_true,
      Bool.true_or, List.head?_cons, List.drop_succ_cons, List.drop_zero]
  have hcore : coreAt (setCur s (setUnit (cur s) (.mn x) ((unitAt (cur s) (.mn x)).setQueue 4 r))) s.core =
      setUnit (cur s) (.mn x) ((unitAt (cur s) (.mn x)).setQueue 4 r) := cur_setCur _ _
  have hsame : ∀ u, siteAt (setUnit (cur s) (.mn x) u) x 0 = siteAt (cur s) x 0 := fun _ => rfl
  refine ⟨_, hexec, ?_⟩
  rw [arriveSite_of_word (by rwa [hcore, hsame]), hcore, hsame, cur, setCore_core, setCur_core, coreAt_setCore_same, unitAt_mn,
    nodeAt_setSite, setUnit_mn, nodeAt_setNode_same, siteAt_setSite_same]
  exact ⟨queue_setQueue_same _ _ _, queue_push_same _ _ _⟩

/-- Settles O28: what the link leads to decides which buffer the token joins. -/
theorem linksCarryTokensInOrder : Obligations.LinksCarryTokensInOrder := by
  unfold Obligations.LinksCarryTokensInOrder
  refine ⟨?site, ?node⟩
  case site =>
    intro s x y p a b q t g hx hy hp c u hout hcfg
    have hexec := exec_linkTokenSend_site (s := s) hx hy hp
    exact ⟨fun hdest hne hspace hword => ⟨_, hexec, sendSite_site hout hcfg hdest hne hspace hword⟩,
      fun hdest hspace hroute hkind => ⟨_, hexec, sendSite_mn hout hcfg hdest hspace hroute hkind⟩,
      fun hdest hspace => ⟨_, hexec, sendSite_sp hout hcfg hdest hspace⟩,
      fun hdest hspace => ⟨_, hexec, sendSite_me hout hcfg hdest hspace⟩⟩
  case node =>
    intro s x p v r hx c hqueue hspace hword
    exact exec_linkTokenSend_mn hx hqueue hspace hword

end Sys2Proof.Fabric
end

section
/-! The matching store (R206, R207): what a token does that meets nothing there, and what two runs do that meet. -/

namespace Sys2Proof.Fabric

open Sys2Proof Sys2Proof.Machine Sys2Proof.Laws

-- ascending tags --------------------------------------------------------------------------------------------------------

theorem insertTag_eq (a : Nat) (l : List Nat) : insertTag a l = l.orderedInsert (· ≤ ·) a := by
  induction l with
  | nil => rfl
  | cons b l ih => rw [insertTag, List.orderedInsert_cons, ih]

theorem sortTags_eq (l : List Nat) : sortTags l = l.insertionSort (· ≤ ·) := by
  induction l with
  | nil => rfl
  | cons a l ih => rw [List.insertionSort_cons, ← ih, ← insertTag_eq]; rfl

theorem mem_sortTags {x : Nat} {l : List Nat} : x ∈ sortTags l ↔ x ∈ l := by rw [sortTags_eq, List.mem_insertionSort]

/-- The `n` tags from `a` up. -/
def tagsFrom (a n : Nat) : List Nat := (List.range n).map (· + a)

theorem mem_tagsFrom {x a n : Nat} : x ∈ tagsFrom a n ↔ a ≤ x ∧ x < a + n := by
  simp only [tagsFrom, List.mem_map, List.mem_range]
  constructor
  · rintro ⟨k, hk, rfl⟩
    omega
  · rintro ⟨hax, hxn⟩
    exact ⟨x - a, by omega, by omega⟩

theorem sortTags_tagsFrom (a n : Nat) : sortTags (tagsFrom a n) = tagsFrom a n := by
  rw [sortTags_eq]
  refine List.Pairwise.insertionSort_eq (List.pairwise_map.2 (List.pairwise_le_range.imp fun h => ?_))
  omega

-- arrivals that meet nothing ----------------------------------------------------------------------------------------------

/-- A token waiting at an input of slot `n`. -/
def waitingOf (n : Nat) (e : Nat × Tok) : Waiting := { slot := n, inp := e.1, tok := e.2 }

section Arrival
variable {u : FUnit} {n i : Nat} {t : Tok} {ins : List Nat}

theorem servePacked_of_none {l : List Waiting} (h : ∀ w ∈ l, w.tok.kind ≠ .packed) : servePacked u n ins l = (u, 0) := by
  induction l with
  | nil => rfl
  | cons w l ih =>
    have hw : (w.tok.kind == .packed) = false := beq_eq_false_iff_ne.2 (h w (by simp))
    rw [servePacked, hw, Bool.and_false, Bool.false_and, if_neg Bool.false_ne_true]
    exact ih fun w' hw' => h w' (by simp [hw'])

/-- A run or ordering token none of whose threads stands at its input makes no match fault. -/
theorem matchClash_eq_none (hkind : t.kind ≠ .packed) (h : ∀ w ∈ u.store, w.inp = i → ∀ a ∈ t.tags, a ∉ w.tok.tags) :
    matchClash u n i t = none := by
  have htwice : ((waitingAt u n i t).findSome? fun w => t.tags.find? fun a => w.tags.contains a) = none := by
    refine List.findSome?_eq_none_iff.2 fun w hw => List.find?_eq_none.2 fun a ha => ?_
    simp only [waitingAt, List.mem_map, List.mem_filter, Bool.and_eq_true, beq_iff_eq] at hw
    obtain ⟨q, ⟨hq, ⟨-, hi⟩, -⟩, rfl⟩ := hw
    simpa using h q hq hi a ha
  simp only [matchClash, htwice, bne_iff_ne, ne_eq, hkind, not_false_eq_true, if_true]
  rfl

/-- A token that was put into the store behind others is the one that is taken out. -/
theorem dropWait_append {l : List Waiting} (h : ∀ w ∈ l, w.inp = i → w.tok ≠ t) : dropWait (l ++ [waitingOf n (i, t)]) n i t = l := by
  induction l with
  | nil => simp [dropWait, waitingOf]
  | cons w l ih =>
    have hw : ¬ (w.slot == n && w.inp == i && w.tok == t) = true := by
      simp only [Bool.and_eq_true, beq_iff_eq, not_and]
      exact fun ⟨_, hi⟩ => h w (by simp) hi
    rw [List.cons_append, dropWait, if_neg hw, ih fun w' hw' => h w' (by simp [hw'])]

theorem mem_waitingAt {j : Nat} {w : Tok} (h : w ∈ waitingAt u n j t) : ∃ q ∈ u.store, q.tok = w := by
  simp only [waitingAt, List.mem_map, List.mem_filter] at h
  obtain ⟨q, ⟨hq, -⟩, rfl⟩ := h
  exact ⟨q, hq, rfl⟩

/-- A token that has no thread in common with the store does not fire where another input is in use. -/
theorem matchRun_eq_none {j : Nat} (hj : j ∈ ins) (hji : j ≠ i) (h : ∀ w ∈ u.store, ∀ a ∈ t.tags, a ∉ w.tok.tags) :
    matchRun u n i ins t = none := by
  have hnone : ((sortTags t.tags).find? fun x => (ins.filter (· ≠ i)).all fun j => (coverAt u n j t x).isSome) = none := by
    refine List.find?_eq_none.2 fun x hx hall => ?_
    obtain ⟨w, hw⟩ := Option.isSome_iff_exists.1 (List.all_eq_true.1 hall j (by simp [hj, hji]))
    obtain ⟨q, hq, rfl⟩ := mem_waitingAt (List.mem_of_find?_eq_some hw)
    have hcontains := List.find?_some hw
    simp only [Bool.and_eq_true, List.contains_iff_mem] at hcontains
    exact h q hq x (mem_sortTags.1 hx) hcontains.2
  simp only [matchRun, hnone]

/-- The unit with a token put into its store. -/
def withToken (u : FUnit) (n i : Nat) (t : Tok) : FUnit := { u with store := u.store ++ [waitingOf n (i, t)] }

section Meets
variable {f : Nat} {rest : List (Nat × Tok)} {d : Int} (hins : 1 < ins.length) (hkind : t.kind ≠ .packed)
  (hpacked : ∀ w ∈ u.store, w.tok.kind ≠ .packed) (hclash : matchClash u n i t = none)
include hins hkind hpacked hclash

/-- A run or ordering token that makes no match fault, at a slot where no packed run waits, goes into the store and fires or
waits. -/
theorem matchAll_arrival : matchAll (f + 1) u n ins ((i, t) :: rest) d =
    (match matchRun { u with store := dropWait (withToken u n i t).store n i t } n i ins t with
      | some (v, e, left) => matchAll f v n ins (left ++ rest) (d + 0 + e)
      | none => matchAll f (withToken u n i t) n ins rest (d + 0)) := by
  have hserve : servePacked { u with store := u.store ++ [{ slot := n, inp := i, tok := t }] } n ins
      (u.store ++ [{ slot := n, inp := i, tok := t }]) = (withToken u n i t, 0) := by
    refine servePacked_of_none fun w hw => ?_
    rcases List.mem_append.1 hw with hw | hw
    · exact hpacked w hw
    · obtain rfl := List.mem_singleton.1 hw
      exact hkind
  have hstore : (withToken u n i t).store = u.store ++ [{ slot := n, inp := i, tok := t }] := rfl
  have hpk : (t.kind == .packed) = false := beq_eq_false_iff_ne.2 hkind
  rw [matchAll, hclash]
  simp only [show ¬ ins.length ≤ 1 by omega, hpk, if_false, Bool.false_eq_true, hserve, hstore, bne_self_eq_false, Bool.false_and]
  rfl

theorem matchAll_fires {v : FUnit} {e : Int} {left : List (Nat × Tok)}
    (hrun : matchRun { u with store := dropWait (withToken u n i t).store n i t } n i ins t = some (v, e, left)) :
    matchAll (f + 1) u n ins ((i, t) :: rest) d = matchAll f v n ins (left ++ rest) (d + 0 + e) := by
  rw [matchAll_arrival hins hkind hpacked hclash, hrun]

theorem matchAll_waits (hrun : matchRun { u with store := dropWait (withToken u n i t).store n i t } n i ins t = none) :
    matchAll (f + 1) u n ins ((i, t) :: rest) d = matchAll f (withToken u n i t) n ins rest (d + 0) := by
  rw [matchAll_arrival hins hkind hpacked hclash, hrun]

end Meets
end Arrival

-- tokens with no thread in common ---------------------------------------------------------------------------------------------

/-- Tokens that have no thread in common with the store or with each other all wait, at a slot with inputs 0 and 1 in use. -/
theorem matchAll_disjoint {u : FUnit} {n : Nat} {work : List (Nat × Tok)} (f : Nat) (d : Int)
    (hpacked : ∀ w ∈ u.store, w.tok.kind ≠ .packed) (hkinds : ∀ e ∈ work, e.2.kind ≠ .packed)
    (hdisjoint : (u.store.map (·.tok.tags) ++ work.map (·.2.tags)).Pairwise List.Disjoint) :
    matchAll f u n [0, 1] work d = { u := { u with store := u.store ++ work.map (waitingOf n) }, delta := d, bad := none } := by
  induction work generalizing f u with
  | nil =>
    cases f with
    | zero => rfl
    | succ f => simp [matchAll]
  | cons e rest ih =>
    obtain ⟨i, t⟩ := e
    cases f with
    | zero => rfl
    | succ f =>
      obtain ⟨hstore, hwork, hacross⟩ := List.pairwise_append.1 hdisjoint
      have hapart : ∀ w ∈ u.store, ∀ a ∈ t.tags, a ∉ w.tok.tags := fun w hw a ha hb =>
        hacross _ (List.mem_map_of_mem hw) _ (by simp) hb ha
      have hrun : matchRun { u with store := dropWait (withToken u n i t).store n i t } n i [0, 1] t = none := by
        obtain ⟨j, hj, hji⟩ : ∃ j ∈ [0, 1], j ≠ i := by
          by_cases hi : i = 0
          · exact ⟨1, by simp, by omega⟩
          · exact ⟨0, by simp, Ne.symm hi⟩
        refine matchRun_eq_none hj hji fun w hw a ha => ?_
        have hback : dropWait (withToken u n i t).store n i t = u.store :=
          dropWait_append fun w' hw' _ he => hapart w' hw' a ha (he ▸ ha)
        exact hapart w (hback ▸ hw) a ha
      rw [matchAll_waits (by decide) (hkinds (i, t) (by simp)) hpacked
        (matchClash_eq_none (hkinds (i, t) (by simp)) fun w hw _ => hapart w hw) hrun, add_zero, ih]
      case hpacked =>
        intro w hw
        rcases List.mem_append.1 hw with hw | hw
        · exact hpacked w hw
        · obtain rfl := List.mem_singleton.1 hw
          exact hkinds (i, t) (by simp)
      case hkinds => exact fun e he => hkinds e (by simp [he])
      case hdisjoint => simpa [withToken, waitingOf] using hdisjoint
      simp [withToken]

-- two runs that meet --------------------------------------------------------------------------------------------------------

/-- The greatest tag up to which all the tokens go on from `x`, where they hold exactly the tags below `hi` from there. -/
theorem reach_eq {ts : List Tok} {hi : Nat} (m : Nat) {x : Nat} (hx : x < hi)
    (h : ∀ z, x < z → ((ts.all fun t => t.tags.contains z) = true ↔ z < hi)) : reach ts x m = min (x + m) (hi - 1) := by
  induction m generalizing x with
  | zero => rw [reach]; omega
  | succ m ih =>
    rw [reach]
    split
    · rename_i hall
      rw [ih ((h (x + 1) (by omega)).1 hall) fun z hz => h z (by omega)]
      omega
    · rename_i hall
      have := mt (h (x + 1) (by omega)).2 hall
      omega

/-- The piece of a token that some of its tags make: none without tags. -/
def pieceOf (t : Tok) (tags : List Nat) : List Tok := if tags = [] then [] else [t.cut tags]

theorem outside_eq (t : Tok) (x y : Nat) :
    outside t x y = pieceOf t (t.tags.filter (· < x)) ++ pieceOf t (t.tags.filter (· > y)) := by
  simp only [outside, pieceOf, List.isEmpty_iff]

theorem mem_pieceOf {t w : Tok} {tags : List Nat} (h : w ∈ pieceOf t tags) : w = t.cut tags := by
  unfold pieceOf at h
  split at h
  · cases h
  · exact List.mem_singleton.1 h

/-- The pieces that a token leaves beside the tags from `x` to `y` are of its own kind and hold its other tags. -/
theorem mem_outside {t w : Tok} {x y : Nat} (h : w ∈ outside t x y) : w.kind = t.kind ∧ ∀ a ∈ w.tags, a ∈ t.tags ∧ (a < x ∨ y < a) := by
  rw [outside_eq, List.mem_append] at h
  rcases h with h | h
  · refine mem_pieceOf h ▸ ⟨rfl, fun a ha => ?_⟩
    obtain ⟨hmem, hlow⟩ := List.mem_filter.1 ha
    exact ⟨hmem, .inl (of_decide_eq_true hlow)⟩
  · refine mem_pieceOf h ▸ ⟨rfl, fun a ha => ?_⟩
    obtain ⟨hmem, hhigh⟩ := List.mem_filter.1 ha
    exact ⟨hmem, .inr (of_decide_eq_true hhigh)⟩

theorem outside_disjoint (t : Tok) {x y : Nat} (hxy : x ≤ y + 1) : ((outside t x y).map (·.tags)).Pairwise List.Disjoint := by
  have hone : ∀ tags, ((pieceOf t tags).map (·.tags)).Pairwise List.Disjoint := fun tags => by
    unfold pieceOf
    split <;> simp
  rw [outside_eq, List.map_append, List.pairwise_append]
  refine ⟨hone _, hone _, fun k hk l hl a hak hal => ?_⟩
  obtain ⟨v, hv, rfl⟩ := List.mem_map.1 hk
  obtain ⟨w, hw, rfl⟩ := List.mem_map.1 hl
  rw [mem_pieceOf hv] at hak
  rw [mem_pieceOf hw] at hal
  have hlow : a < x := by simpa using (List.mem_filter.1 hak).2
  have hhigh : y < a := by simpa using (List.mem_filter.1 hal).2
  omega

/-- The unit with `t` alone waiting at input `p` of slot `n`. -/
def holding (u : FUnit) (n p : Nat) (t : Tok) : FUnit := { u with store := [waitingOf n (p, t)] }

theorem coverAt_holding {u : FUnit} {n p x : Nat} {t v : Tok} (ht : t.kind ≠ .packed) (hpairs : pairs t v = true) :
    coverAt (holding u n p t) n p v x = if x ∈ t.tags then some t else none := by
  have hwait : waitingAt (holding u n p t) n p v = [t] := by simp [waitingAt, holding, waitingOf, hpairs]
  have hkind : (t.kind != .packed) = true := bne_iff_ne.2 ht
  rw [coverAt, hwait, List.find?_singleton, hkind, Bool.true_and]
  simp only [List.contains_iff_mem]

/-- The first of two runs' common tags. -/
theorem find?_tagsFrom {a b c d : Nat} (hmeet : max a c < min (a + b) (c + d)) :
    (tagsFrom c d).find? (fun x => decide (x ∈ tagsFrom a b)) = some (max a c) := by
  refine List.find?_eq_some_iff_getElem.2 ⟨decide_eq_true (mem_tagsFrom.2 (by omega)), max a c - c, ?_, ?_, fun j hj => ?_⟩
  · simp only [tagsFrom, List.length_map, List.length_range]
    omega
  · simp only [tagsFrom, List.getElem_map, List.getElem_range]
    omega
  · have : ¬ j + c ∈ tagsFrom a b := fun h => by
      have := (mem_tagsFrom.1 h).1
      omega
    simpa [tagsFrom] using this

section Meeting
variable {u : FUnit} {n a b c d p : Nat} {t v : Tok}

/-- The tags that two runs have in common. -/
def commonTags (a b c d : Nat) : List Nat := tagsFrom (max a c) (min (a + b) (c + d) - max a c)

/-- What two runs leave beside their common tags, with their inputs: the pieces of the second, at input `1 - p`, come first. -/
def leftOf (a b c d p : Nat) (t v : Tok) : List (Nat × Tok) :=
  ((outside v (max a c) (min (a + b) (c + d) - 1)).map fun w => (1 - p, w)) ++
    (outside t (max a c) (min (a + b) (c + d) - 1)).map fun w => (p, w)

/-- The set that they fire: the run of input 0 first. -/
def firedOf (n a b c d p : Nat) (t v : Tok) : Fire :=
  { slot := n, toks := if p = 0 then [t.cut (commonTags a b c d), v.cut (commonTags a b c d)]
      else [v.cut (commonTags a b c d), t.cut (commonTags a b c d)] }

/-- A run that meets one waiting at the other input fires the common tags with it. -/
theorem matchRun_meets (ht : t.kind = .run) (hpairs : pairs t v = true) (htags : t.tags = tagsFrom a b)
    (hvtags : v.tags = tagsFrom c d) (hb : b ≤ 32) (hp : p < 2) (hmeet : max a c < min (a + b) (c + d)) :
    matchRun (holding u n p t) n (1 - p) [0, 1] v =
      some ({ u with store := [], ready := u.ready ++ [firedOf n a b c d p t v] }, ((leftOf a b c d p t v).length : Int), leftOf a b c d p t v) := by
  have hothers : [0, 1].filter (· ≠ 1 - p) = [p] := by interval_cases p <;> rfl
  have hcover : ∀ x, coverAt (holding u n p t) n p v x = if x ∈ tagsFrom a b then some t else none := fun x =>
    htags ▸ coverAt_holding (by simp [ht]) hpairs
  have hfirst : (sortTags v.tags).find? (fun x => [p].all fun j => (coverAt (holding u n p t) n j v x).isSome) = some (max a c) := by
    rw [hvtags, sortTags_tagsFrom, ← find?_tagsFrom hmeet]
    congr 1
    funext x
    simp only [List.all_cons, List.all_nil, Bool.and_true, hcover]
    split <;> simp_all
  have hreach : reach [v, t] (max a c) 31 = min (a + b) (c + d) - 1 := by
    rw [reach_eq 31 hmeet fun z hz => ?_]
    · omega
    · simp only [List.all_cons, List.all_nil, Bool.and_true, Bool.and_eq_true, List.contains_iff_mem, hvtags, htags, mem_tagsFrom]
      omega
  have hus : ([p].filterMap fun j => (coverAt (holding u n p t) n j v (max a c)).map fun w => (j, w)) = [(p, t)] := by
    have hin : max a c ∈ tagsFrom a b := mem_tagsFrom.2 (by omega)
    simp only [List.filterMap_cons, List.filterMap_nil, hcover, if_pos hin, Option.map_some]
  have htag : (List.range (min (a + b) (c + d) - 1 - max a c + 1)).map (· + max a c) = commonTags a b c d := by
    rw [commonTags, tagsFrom, show min (a + b) (c + d) - 1 - max a c + 1 = min (a + b) (c + d) - max a c by omega]
  simp only [matchRun, hothers, hfirst, hus, List.map_cons, List.map_nil, hreach, htag]
  interval_cases p
  · simp [holding, dropWait, waitingOf, firedOf, leftOf]
  · simp [holding, dropWait, waitingOf, firedOf, leftOf]

theorem leftOf_kind (ht : t.kind = .run) (hv : v.kind = .run) {e : Nat × Tok} (he : e ∈ leftOf a b c d p t v) : e.2.kind ≠ .packed := by
  rcases List.mem_append.1 he with he | he
  · obtain ⟨w, hw, rfl⟩ := List.mem_map.1 he
    simp [(mem_outside hw).1, hv]
  · obtain ⟨w, hw, rfl⟩ := List.mem_map.1 he
    simp [(mem_outside hw).1, ht]

/-- What two runs leave beside their common tags has no thread in common. -/
theorem leftOf_disjoint (htags : t.tags = tagsFrom a b) (hvtags : v.tags = tagsFrom c d) (hmeet : max a c < min (a + b) (c + d)) :
    ((leftOf a b c d p t v).map (·.2.tags)).Pairwise List.Disjoint := by
  have hxy : max a c ≤ min (a + b) (c + d) - 1 + 1 := by omega
  simp only [leftOf, List.map_append, List.map_map]
  refine List.pairwise_append.2 ⟨outside_disjoint v hxy, outside_disjoint t hxy, fun k hk l hl x hxk hxl => ?_⟩
  obtain ⟨w, hw, rfl⟩ := List.mem_map.1 hk
  obtain ⟨w', hw', rfl⟩ := List.mem_map.1 hl
  obtain ⟨hxv, hout⟩ := (mem_outside hw).2 x hxk
  obtain ⟨hxt, -⟩ := (mem_outside hw').2 x hxl
  rw [hvtags, mem_tagsFrom] at hxv
  rw [htags, mem_tagsFrom] at hxt
  omega

section Match
variable (ht : t.kind = .run) (hv : v.kind = .run) (htags : t.tags = tagsFrom a b) (hvtags : v.tags = tagsFrom c d)
include ht hv htags hvtags

/-- A run that meets one waiting at the other input fires with it, and the pieces wait. -/
theorem matchAll_meets (hpairs : pairs t v = true) (hp : p < 2) (hb : b ≤ 32) (hmeet : max a c < min (a + b) (c + d)) :
    matchAll 200 (holding u n p t) n [0, 1] [(1 - p, v)] 0 =
      { u := { u with ready := u.ready ++ [firedOf n a b c d p t v], store := (leftOf a b c d p t v).map (waitingOf n) }
        delta := ((leftOf a b c d p t v).length : Int), bad := none } := by
  have hinp : ∀ w ∈ (holding u n p t).store, w.inp ≠ 1 - p := fun w hw => by
    obtain rfl := List.mem_singleton.1 hw
    simp only [waitingOf]
    omega
  have hback : { holding u n p t with store := dropWait (withToken (holding u n p t) n (1 - p) v).store n (1 - p) v } =
      holding u n p t :=
    congrArg (fun l => { u with store := l }) (dropWait_append fun w hw hi => absurd hi (hinp w hw))
  rw [matchAll_fires (by decide) (by simp [hv]) (fun w hw => ?packed)
    (matchClash_eq_none (by simp [hv]) fun w hw hi => absurd hi (hinp w hw))
    (by rw [hback]; exact matchRun_meets ht hpairs htags hvtags hb hp hmeet), List.append_nil,
    matchAll_disjoint _ _ (fun w hw => absurd hw List.not_mem_nil) (fun e he => leftOf_kind ht hv he) ?apart, Int.add_zero,
    Int.zero_add]
  · rfl
  case apart => exact leftOf_disjoint htags hvtags hmeet
  case packed =>
    obtain rfl := List.mem_singleton.1 hw
    simp [waitingOf, ht]

/-- A run that has no thread in common with the one that waits at the other input waits too. -/
theorem matchAll_misses (hmiss : min (a + b) (c + d) ≤ max a c) :
    matchAll 200 (holding u n p t) n [0, 1] [(1 - p, v)] 0 =
      { u := { u with store := [waitingOf n (p, t), waitingOf n (1 - p, v)] }, delta := 0, bad := none } := by
  refine matchAll_disjoint _ _ (fun w hw => ?_) (fun e he => ?_) ?_
  · obtain rfl := List.mem_singleton.1 hw
    simp [waitingOf, ht]
  · obtain rfl := List.mem_singleton.1 he
    simp [hv]
  · simp only [holding, waitingOf, List.map_cons, List.map_nil, List.cons_append, List.nil_append, List.pairwise_pair, htags, hvtags]
    intro x hx hx'
    rw [mem_tagsFrom] at hx hx'
    omega

end Match
end Meeting

/-- The pieces that a run leaves wait at its input. -/
theorem map_waitingOf_outside (n q : Nat) (k : Tok) (x hi : Nat) (hhi : 0 < hi) :
    ((outside k x (hi - 1)).map fun w => (q, w)).map (waitingOf n) =
      [k.tags.filter (· < x), k.tags.filter (hi ≤ ·)].filterMap fun l =>
        if l = [] then none else some ({ slot := n, inp := q, tok := k.cut l } : Waiting) := by
  have hhigh : (k.tags.filter (· > hi - 1)) = k.tags.filter (hi ≤ ·) := by
    refine List.filter_congr fun a _ => ?_
    simp only [decide_eq_decide]
    omega
  rw [outside_eq, hhigh]
  by_cases hl : k.tags.filter (· < x) = [] <;> by_cases hh : k.tags.filter (hi ≤ ·) = [] <;> simp [pieceOf, hl, hh, waitingOf]

-- a token with no partner to wait for --------------------------------------------------------------------------------------------

/-- At a slot with one input in use a token that meets no other fires alone. -/
theorem matchIn_single {isMn : Bool} {u : FUnit} {n i : Nat} {t : Tok} (hins : inputsOf isMn (u.slot n) = [i]) (hstore : u.store = []) :
    matchIn isMn u n i t = { u := { u with ready := u.ready ++ [{ slot := n, toks := [t] }] }, delta := 0, bad := none } := by
  have hclash : matchClash u n i t = none := by
    simp [matchClash, waitingAt, hstore]
  rw [matchIn, hins, matchAll, hclash]
  simp only [List.length_singleton, Nat.le_refl, if_true]
  rfl

/-- Such a token can always be taken off its link. -/
theorem storeTakes_single {isMn : Bool} {u : FUnit} {n i : Nat} {t : Tok} (hins : inputsOf isMn (u.slot n) = [i])
    (hstore : u.store = []) : storeTakes isMn u n i t = true := by
  simp [storeTakes, firesAtOnce, matchIn_single hins hstore]

theorem dropHead_eq (u : FUnit) (unit : UnitId) (idx : Nat) : ∃ inq unitq, dropHead u unit idx = { u with inq := inq, unitq := unitq } := by
  unfold dropHead
  split
  · exact ⟨_, u.unitq, rfl⟩
  · exact ⟨u.inq, _, rfl⟩

/-- A unit at whose slots a token stands keeps what is stored in it. -/
theorem unitAt_setUnit_of_slotHead {c : Core} {unit : UnitId} {idx : Nat} {q : Waiting} (h : slotHead c unit idx = some q) (c' : Core)
    (u : FUnit) : unitAt (setUnit c' unit u) unit = u := by
  cases unit with
  | site x y => simp
  | mn x => simp
  | _ => cases h

theorem exec_tokenMatch_single {s : State} {unit : UnitId} {i : Nat} {q : Waiting} (hok : unitOk unit = true)
    (hhead : slotHead (cur s) unit i = some q) (hdata : q.tok.isData = true) (hacc : ((unitAt (cur s) unit).slot q.slot).acc = false)
    (hsaved : (unitAt (cur s) unit).saved = false) (hheld : heldByControl (unitAt (cur s) unit) q = false)
    (hins : inputsOf (isNode unit) ((unitAt (cur s) unit).slot q.slot) = [q.inp]) (hstore : (unitAt (cur s) unit).store = []) :
    ∃ z, exec (.tokenMatch unit i) s = .next z ∧
      (unitAt (cur z) unit).ready = (unitAt (cur s) unit).ready ++ [{ slot := q.slot, toks := [q.tok] }] ∧
      (unitAt (cur z) unit).store = [] := by
  obtain ⟨inq, unitq, hdrop⟩ := dropHead_eq (unitAt (cur s) unit) unit i
  have hins' : inputsOf (isNode unit) ((dropHead (unitAt (cur s) unit) unit i).slot q.slot) = [q.inp] := by rw [hdrop]; exact hins
  have hstore' : (dropHead (unitAt (cur s) unit) unit i).store = [] := by rw [hdrop]; exact hstore
  have hready : (dropHead (unitAt (cur s) unit) unit i).ready = (unitAt (cur s) unit).ready := by rw [hdrop]
  have htakes : (isNode unit && !storeTakes true (dropHead (unitAt (cur s) unit) unit i) q.slot q.inp q.tok) = false := by
    cases hnode : isNode unit with
    | false => rfl
    | true => rw [storeTakes_single (hnode ▸ hins') hstore']; rfl
  have hexec : exec (.tokenMatch unit i) s = .next (setCur s (census (setUnit (cur s) unit
      { dropHead (unitAt (cur s) unit) unit i with
        ready := (unitAt (cur s) unit).ready ++ [{ slot := q.slot, toks := [q.tok] }] }) q.tok.place 0)) := by
    change execTokenMatch unit i s = _
    simp only [execTokenMatch, hok, hhead, hdata, hacc, hsaved, hheld, htakes, matchIn_single hins' hstore',
      hready, Bool.not_true, Bool.false_and, Bool.or_self, Bool.false_eq_true, if_false]
  refine ⟨_, hexec, ?_⟩
  rw [cur_setCur, unitAt_census, unitAt_setUnit_of_slotHead hhead]
  exact ⟨rfl, hstore'⟩

/-- Settles O29: a token with no partner to wait for fires alone; of two runs the second fires with the first what they have in
common, and pieces that have no thread in common all wait (`matchAll_disjoint`). -/
theorem tokensMatch : Obligations.TokensMatch := by
  unfold Obligations.TokensMatch
  refine ⟨?alone, ?pair⟩
  case alone =>
    intro s unit i q hok c u hhead hdata hacc hsaved hheld hins hstore
    exact exec_tokenMatch_single hok hhead hdata hacc hsaved hheld hins hstore
  case pair =>
    intro u n a b c d p t v ht hv hpairs htags hvtags hb hd hb32 hd32 _ _ hp held m lo hi common pieces
    have hm : m = matchAll 200 (holding u n p t) n [0, 1] [(1 - p, v)] 0 := rfl
    rcases Nat.lt_or_ge lo hi with hmeet | hmiss
    · rw [hm, matchAll_meets ht hv htags hvtags hpairs hp hb32 hmeet]
      refine ⟨rfl, fun _ => ⟨rfl, ?_⟩, fun h => absurd h (by omega)⟩
      have hhi : 0 < hi := by omega
      change (leftOf a b c d p t v).map (waitingOf n) = pieces (1 - p) v ++ pieces p t
      rw [leftOf, List.map_append]
      exact congrArg₂ _ (map_waitingOf_outside n (1 - p) v lo hi hhi) (map_waitingOf_outside n p t lo hi hhi)
    · rw [hm, matchAll_misses ht hv htags hvtags hmiss]
      exact ⟨rfl, fun h => absurd h (by omega), fun _ => ⟨rfl, rfl⟩⟩

end Sys2Proof.Fabric
end

section
/-! Round markers at a site (R215, R216): what a marker at the head of a link records, and which consumer forwards it. -/

namespace Sys2Proof.Fabric

open Sys2Proof Sys2Proof.Machine Sys2Proof.Laws Sys2Proof.Lasting

-- what forwarding leaves of the links ---------------------------------------------------------------------------------------

/-- From `s` to `z` the turn stays at its core, and the link queues of site (x, y) of core `k` hold what they held. -/
def KeepsLinks (k x y : Nat) (s z : State) : Prop :=
  z.core = s.core ∧ ∀ p ≠ 4, (siteAt (coreAt z k) x y).queue p = (siteAt (coreAt s k) x y).queue p

section Keeps
variable {k x y n : Nat} {s z z' : State}

theorem KeepsLinks.refl : KeepsLinks k x y s s := ⟨rfl, fun _ _ => rfl⟩

theorem KeepsLinks.trans (h : KeepsLinks k x y s z) (h' : KeepsLinks k x y z z') : KeepsLinks k x y s z' :=
  ⟨h'.1.trans h.1, fun p hp => (h'.2 p hp).trans (h.2 p hp)⟩

theorem KeepsLinks.of_lasts (h : Lasts s z) : KeepsLinks k x y s z :=
  ⟨h.core, fun p _ => by rw [siteAt, h.sites, siteAt]⟩

theorem keepsLinks_setCore {c : Core} (h : ∀ p ≠ 4, (siteAt c x y).queue p = (siteAt (coreAt s k) x y).queue p) :
    KeepsLinks k x y s (setCore s k c) := ⟨rfl, fun p hp => by rw [coreAt_setCore_same, h p hp]⟩

theorem keepsLinks_setSite {u : FUnit} (h : ∀ p ≠ 4, u.queue p = (siteAt (coreAt s k) x y).queue p) :
    KeepsLinks k x y s (setCore s k (setSite (coreAt s k) x y u)) :=
  keepsLinks_setCore fun p hp => by rw [siteAt_setSite_same, h p hp]

theorem keepsLinks_routeFault (t : Tok) : KeepsLinks k x y s (routeFault s k (.site x y) t) :=
  (keepsLinks_setCore (c := census (coreAt s k) t.place (-1)) fun _ _ => rfl).trans (.of_lasts (lasts_faultAt _ _ _ _))

/-- What a slot sends goes to port local. -/
theorem keepsLinks_emitTok (t : Tok) : KeepsLinks k x y s (emitTok s k (.site x y) n t) := by
  have hpush : ∀ t, KeepsLinks k x y s (setCore s k (setUnit (coreAt s k) (.site x y) ((unitAt (coreAt s k) (.site x y)).push 4 t))) :=
    fun t => keepsLinks_setSite fun p hp => queue_push_other _ _ hp
  simp only [emitTok, isNode, Bool.false_eq_true, if_false]
  split
  · split
    · exact hpush _
    · exact keepsLinks_routeFault _
  · exact keepsLinks_routeFault _

theorem keepsLinks_releaseState (r : BitVec 8) : KeepsLinks k x y s (releaseState s k (.site x y) n r) := by
  unfold releaseState
  dsimp only
  split
  · exact (keepsLinks_setCore fun p _ => by simp only [setUnit_site, siteAt_census, siteAt_setSite_same]; rfl).trans (keepsLinks_emitTok _)
  · split
    · unfold releaseAcc
      dsimp only
      exact (keepsLinks_setCore fun p _ => by
        simp only [siteAt_census, siteAt_raisePlace, siteAt_setSite_same]; rfl).trans (keepsLinks_emitTok _)
    · exact .refl

theorem keepsLinks_forwardOne (cons : Nat) : KeepsLinks k x y s (forwardOne s k (.site x y) cons) := by
  unfold forwardOne
  dsimp only [isNode]
  split
  · exact .refl
  · rename_i r hdue
    split
    · simp only [Bool.false_eq_true, if_false]
      split
      · exact keepsLinks_setSite fun _ _ => rfl
      · exact .refl
    · split
      · exact .refl
      · have hreleased : KeepsLinks k x y s (releaseState (setCore s k (setSite (coreAt s k) x y
            (takeMarks false (siteAt (coreAt s k) x y) cons))) k (.site x y) (cons - 8) r) :=
          (keepsLinks_setSite (u := takeMarks false _ cons) fun _ _ => rfl).trans (keepsLinks_releaseState r)
        simp only [Bool.false_eq_true, if_false]
        split
        · exact hreleased.trans (keepsLinks_setSite fun p hp => queue_push_other _ _ hp)
        · exact hreleased

/-- Every consumer in turn may forward. -/
def forwardAll (x y : Nat) (l : List Nat) (s : State) : State := l.foldl (fun z cons => forwardOne z z.core (.site x y) cons) s

theorem keepsLinks_forwardAll {l : List Nat} (hs : s.core = k) : KeepsLinks k x y s (forwardAll x y l s) := by
  induction l generalizing s with
  | nil => exact .refl
  | cons cons l ih =>
    have hone : KeepsLinks k x y s (forwardOne s s.core (.site x y) cons) := hs ▸ keepsLinks_forwardOne cons
    exact hone.trans (ih (hone.1.trans hs))

end Keeps
-- a site with one word --------------------------------------------------------------------------------------------------------

/-- The site holds one slot in use, slot 0, with the one word `w`, which takes from the ports `ins` and sends by port `o`. -/
structure OneWord (u : FUnit) (w : Instr) (ins : List Nat) (o : Nat) : Prop where
  slots : ∃ sl, u.slots = [(0, sl)] ∧ sl.en = true ∧ sl.words = [w]
  source : wordSource w = none
  inputs : wordIns w = ins
  outputs : ∃ n, wordOuts 0 w = [(o, n)]
  links : ∀ i ∈ ins, i < 4
  out : o < 4

theorem consumersOf_oneSlot {u : FUnit} {sl : Slot} (hslots : u.slots = [(0, sl)]) (hen : sl.en = true) :
    consumersOf false u = [0, 1, 2, 3, 8] := by
  simp [consumersOf, hslots, hen]

section OneWord
variable {u : FUnit} {w : Instr} {ins : List Nat} {o : Nat} (h : OneWord u w ins o)
include h

theorem OneWord.congr {v : FUnit} (hv : v.slots = u.slots) : OneWord v w ins o :=
  ⟨hv ▸ h.slots, h.source, h.inputs, h.outputs, h.links, h.out⟩

theorem OneWord.words : u.words = [(0, w)] := by
  obtain ⟨sl, hslots, hen, hwords⟩ := h.slots
  simp [FUnit.words, hslots, hen, hwords]

theorem OneWord.siteChans_eq (cons : Nat) : siteChans u cons =
    (if cons = o then ins else []) ++ if 8 ≤ cons && (u.slot (cons - 8)).unfed then [dryChan] else [] := by
  obtain ⟨n, hn⟩ := h.outputs
  have hout := h.out
  have hins : (ins.map fun i => if i = 4 then 8 + 0 else i) = ins :=
    (List.map_congr_left fun i hi => if_neg (by have := h.links i hi; omega)).trans (List.map_id ins)
  have hhit : ([(o, n)].any fun e => if cons < 8 then e.1 == cons else e.1 == 4 && e.2 + 8 == cons) = decide (cons = o) := by
    simp only [List.any_cons, List.any_nil, Bool.or_false]
    split
    · rw [beq_eq_decide, decide_eq_decide]
      exact eq_comm
    · rw [decide_eq_false (by omega), beq_eq_false_iff_ne.2 (by omega), Bool.false_and]
  simp only [siteChans, h.words, List.flatMap_cons, List.flatMap_nil, List.append_nil, hn, hhit, h.source, h.inputs, hins]
  by_cases hc : cons = o <;> simp [hc]

/-- The word's inputs feed its output port. -/
theorem OneWord.chansOf_out : chansOf false u o = ins.eraseDups := by
  have hout := h.out
  have h8 : decide (8 ≤ o) = false := decide_eq_false (by omega)
  simp only [chansOf, Bool.false_eq_true, if_false, h.siteChans_eq, if_true, h8, Bool.false_and, List.append_nil]

/-- Links feed nothing else: at most a slot with an input that no word feeds waits for a channel on which nothing comes (R216). -/
theorem OneWord.chansOf_other {cons : Nat} (hne : cons ≠ o) : chansOf false u cons = [] ∨ chansOf false u cons = [dryChan] := by
  simp only [chansOf, Bool.false_eq_true, if_false, h.siteChans_eq, hne, List.nil_append]
  split
  · exact .inr rfl
  · exact .inl rfl

theorem OneWord.roundDue_other {cons : Nat} (hne : cons ≠ o) (hdry : ∀ m ∈ u.marks, m.chan ≠ dryChan) : roundDue false u cons = none := by
  rcases h.chansOf_other hne with hc | hc
  · simp only [roundDue, hc]
  · have hnone : firstMark u dryChan cons = none := by
      rw [firstMark, Option.map_eq_none_iff, List.find?_eq_none]
      intro m hm
      simp [hdry m hm]
    simp only [roundDue, hc, hnone, Option.bind_none]

/-- A marker at a link is recorded for the output port alone. -/
theorem OneWord.recordMark_marks {i : Nat} {t : Tok} (hi : i ∈ ins) (hmarks : u.marks = []) (hkind : t.kind = .marker) :
    recordMark false u i t = { u with marks := [{ kind := .marker, chan := i, cons := o, round := t.round }] } := by
  obtain ⟨sl, hslots, hen, -⟩ := h.slots
  have hout := h.out
  have hlink := h.links i hi
  have hfed : ∀ cons, (chansOf false u cons).contains i = decide (cons = o) := fun cons => by
    by_cases hc : cons = o
    · rw [hc, h.chansOf_out]
      simpa using hi
    · rw [decide_eq_false hc]
      rcases h.chansOf_other hc with hch | hch
      · rw [hch]; rfl
      · rw [hch]
        simp only [dryChan, List.contains_cons, List.contains_nil, Bool.or_false, beq_eq_false_iff_ne]
        omega
  have hfilter : ([0, 1, 2, 3, 8].filter fun cons => decide (cons = o)) = [o] := by interval_cases o <;> rfl
  simp only [recordMark, hkind, beq_self_eq_true, if_true, consumersOf_oneSlot hslots hen, hfed, hfilter, hmarks, List.nil_append,
    List.map_cons, List.map_nil]

end OneWord

-- forwarding -------------------------------------------------------------------------------------------------------------------

/-- The context of the fabric's cohort; 0 without one. -/
def fabricCtx (c : Core) : Nat := match fabricCohort c with | some h => h.ctx | none => 0

section Forward
variable {s : State} {k x y cons : Nat}

theorem forwardOne_of_not_due (hdue : roundDue false (siteAt (coreAt s k) x y) cons = none) : forwardOne s k (.site x y) cons = s := by
  simp only [forwardOne, unitAt_site, isNode, hdue, ite_self]

/-- A round that is due at a free output port leaves by it. -/
theorem forwardOne_port {r : BitVec 8} (hcons : cons < 8) (hsaved : (siteAt (coreAt s k) x y).saved = false)
    (hdue : roundDue false (siteAt (coreAt s k) x y) cons = some r) (hout : mapGet (siteAt (coreAt s k) x y).out cons = none) :
    forwardOne s k (.site x y) cons = setCore s k (setSite (coreAt s k) x y
      { takeMarks false (siteAt (coreAt s k) x y) cons with
        out := mapSet (siteAt (coreAt s k) x y).out cons
          (bareTok .marker 0 r (fabricCtx (coreAt s k)) (siteAt (coreAt s k) x y).place) }) := by
  simp only [forwardOne, unitAt_site, isNode, hsaved, hdue, hcons, hout, Bool.false_eq_true, if_false, if_true, Option.isNone_none,
    setUnit_site]
  rfl

end Forward

/-- A marker at the head of a link of a site that holds no mark is taken and recorded. -/
theorem popMark_link {s : State} {k x y i : Nat} {t : Tok} (hi : i < 4) (hsaved : (siteAt (coreAt s k) x y).saved = false)
    (hmarks : (siteAt (coreAt s k) x y).marks = []) (hhead : ((siteAt (coreAt s k) x y).queue i).head? = some t)
    (hkind : t.kind = .marker) :
    popMark s k (.site x y) i = setCore s k (setSite (coreAt s k) x y (recordMark false
      ((siteAt (coreAt s k) x y).setQueue i (((siteAt (coreAt s k) x y).queue i).drop 1)) i t)) := by
  have hopen : chanOpen (siteAt (coreAt s k) x y) i = true := by simp [chanOpen, hsaved, hmarks]
  have hmark : t.isMark = true := by simp [Tok.isMark, hkind]
  have hget : ((siteAt (coreAt s k) x y).queue i)[0]? = some t := by rw [← List.head?_eq_getElem?, hhead]
  have hnode : i ≠ 4 := by omega
  simp only [popMark, unitAt_site, isNode, hopen, show ¬ i ≥ 16 by omega, hnode, hget, hmark, hkind, dropNth, if_false, Option.bind_some,
    decide_false, Bool.and_false, Bool.false_eq_true, Bool.not_true, Bool.false_and, Bool.or_self, Option.getD_some, List.take_zero,
    List.nil_append, Nat.zero_add, show (TokKind.marker == .wavefront) = false from rfl, setUnit_site]

section Arrival
variable {s : State} {x y : Nat} {w : Instr} {ins : List Nat} {i o : Nat} {t : Tok}

theorem foldl_eq_self {α β : Type} {f : β → α → β} {l : List α} {b : β} (h : ∀ c ∈ l, f b c = b) : l.foldl f b = b := by
  induction l with
  | nil => rfl
  | cons c l ih => rw [List.foldl_cons, h c (by simp), ih fun c' hc' => h c' (by simp [hc'])]

/-- A fold in which one element alone acts, and acts once. -/
theorem foldl_once {α β : Type} {f : β → α → β} {l : List α} {b : β} {a : α} (hl : l.Nodup) (ha : a ∈ l)
    (hbefore : ∀ c ∈ l, c ≠ a → f b c = b) (hafter : ∀ c ∈ l, c ≠ a → f (f b a) c = f b a) : l.foldl f b = f b a := by
  induction l with
  | nil => cases ha
  | cons c l ih =>
    obtain ⟨hc, hl⟩ := List.nodup_cons.1 hl
    rw [List.foldl_cons]
    by_cases hca : c = a
    · rw [hca]
      exact foldl_eq_self fun c' hc' => hafter c' (by simp [hc']) fun he => hc (hca ▸ he ▸ hc')
    · rw [hbefore c (by simp) hca]
      exact ih hl ((List.mem_cons.1 ha).resolve_left (Ne.symm hca)) (fun c' hc' => hbefore c' (by simp [hc']))
        fun c' hc' => hafter c' (by simp [hc'])

/-- ROUND_MARKER_ARRIVAL at a site of one slot: the marker is recorded, and then every consumer in turn may forward. -/
theorem exec_roundMarkerArrival {sl : Slot} (hx : x < 8) (hy : y < 6) (hslots : (siteAt (cur s) x y).slots = [(0, sl)]) (hen : sl.en = true) :
    exec (.roundMarkerArrival (.site x y) i) s = .next (forwardAll x y [0, 1, 2, 3, 8] (popMark s s.core (.site x y) i)) := by
  change execRoundMarkerArrival (.site x y) i s = _
  simp only [execRoundMarkerArrival, unitOk, hx, hy, decide_true, Bool.and_self, Bool.not_true, Bool.false_eq_true, if_false,
    unitAt_site, consumersOf_oneSlot hslots hen]
  rfl

/-- With `r` recorded at link `i`, its one input, the output port alone forwards: its mark is taken and a marker of the round stands in
its register. -/
theorem forwardAll_route {u : FUnit} {r : BitVec 8} (h : OneWord u w [i] o) (hsaved : u.saved = false) (hout : mapGet u.out o = none)
    (hmarks : u.marks = [{ kind := .marker, chan := i, cons := o, round := r }]) (hs : siteAt (cur s) x y = u) :
    (siteAt (cur (forwardAll x y [0, 1, 2, 3, 8] s)) x y).marks = [] ∧
    (mapGet (siteAt (cur (forwardAll x y [0, 1, 2, 3, 8] s)) x y).out o).map (fun m => (m.kind, m.round)) = some (.marker, r) := by
  subst hs
  have ho := h.out
  have hch : chansOf false (siteAt (cur s) x y) o = [i] := h.chansOf_out
  have hfirst : firstMark (siteAt (cur s) x y) i o = some r := by simp [firstMark, hmarks]
  have hdue : roundDue false (siteAt (cur s) x y) o = some r := by simp [roundDue, hch, hfirst]
  have htake : (takeMarks false (siteAt (cur s) x y) o).marks = [] := by simp [takeMarks, hch, hmarks, findIdx, dropNth]
  have hport := forwardOne_port (s := s) (k := s.core) (show o < 8 by omega) hsaved hdue hout
  have hsite : siteAt (cur (forwardOne s s.core (.site x y) o)) x y = { takeMarks false (siteAt (cur s) x y) o with
      out := mapSet (siteAt (cur s) x y).out o (bareTok .marker 0 r (fabricCtx (cur s)) (siteAt (cur s) x y).place) } := by
    rw [hport, cur, setCore_core, coreAt_setCore_same, siteAt_setSite_same]
    rfl
  have hfold : forwardAll x y [0, 1, 2, 3, 8] s = forwardOne s s.core (.site x y) o := by
    refine foldl_once (f := fun z cons => forwardOne z z.core (.site x y) cons) (by decide) ?_ (fun c _ hc => ?_) (fun c _ hc => ?_)
    · interval_cases o <;> decide
    · exact forwardOne_of_not_due (h.roundDue_other hc fun m hm => by
        obtain rfl := List.mem_singleton.1 (hmarks ▸ hm)
        have := h.links i (by simp)
        simp only [dryChan]
        omega)
    · refine forwardOne_of_not_due ?_
      have hword : OneWord (siteAt (cur (forwardOne s s.core (.site x y) o)) x y) w [i] o := h.congr (by rw [hsite]; rfl)
      exact hword.roundDue_other hc fun m hm => by
        rw [hsite] at hm
        exact absurd (htake ▸ hm) List.not_mem_nil
  rw [hfold, hsite]
  exact ⟨htake, by rw [mapGet_mapSet_same]; rfl⟩

/-- A marker at one of two inputs waits for that of the other. -/
theorem forwardAll_merge {u : FUnit} {r : BitVec 8} {j : Nat} (h : OneWord u w [i, j] o) (hij : i ≠ j)
    (hmarks : u.marks = [{ kind := .marker, chan := i, cons := o, round := r }]) (hs : siteAt (cur s) x y = u) :
    forwardAll x y [0, 1, 2, 3, 8] s = s := by
  subst hs
  have hch : chansOf false (siteAt (cur s) x y) o = [i, j] := by rw [h.chansOf_out]; simp [List.eraseDups_cons, hij.symm]
  have hfirst : firstMark (siteAt (cur s) x y) j o = none := by simp [firstMark, hmarks, hij]
  refine foldl_eq_self (f := fun z cons => forwardOne z z.core (.site x y) cons) fun c _ => forwardOne_of_not_due ?_
  change roundDue false (siteAt (cur s) x y) c = none
  by_cases hc : c = o
  · simp [hc, roundDue, hch, hfirst]
  · refine h.roundDue_other hc fun m hm => ?_
    obtain rfl := List.mem_singleton.1 (hmarks ▸ hm)
    have := h.links i (by simp)
    simp only [dryChan]
    omega

end Arrival

theorem queue_recordMark (isMn : Bool) (u : FUnit) (ch p : Nat) (t : Tok) : (recordMark isMn u ch t).queue p = u.queue p := by
  unfold recordMark
  split <;> rfl

/-- The site once the marker of round `r` at the head of its link `i` has left and is recorded for port `o`. -/
def recorded (u : FUnit) (i o : Nat) (r : BitVec 8) : FUnit :=
  { u.setQueue i ((u.queue i).drop 1) with marks := [{ kind := .marker, chan := i, cons := o, round := r }] }

/-- A marker at the head of a link of a site of one slot: it leaves its queue; a route forwards it at once, a merge records it. -/
theorem exec_marker_oneSlot {s : State} {x y : Nat} {i o j n : BitVec 3} {t : Tok} {sl : Slot} (hx : x < 8) (hy : y < 6)
    (hi : i.toNat < 4) (ho : o.toNat < 4) (hen : sl.en = true) (hslots : (siteAt (cur s) x y).slots = [(0, sl)])
    (hmarks : (siteAt (cur s) x y).marks = []) (hsaved : (siteAt (cur s) x y).saved = false)
    (hhead : ((siteAt (cur s) x y).queue i.toNat).head? = some t) (hkind : t.kind = .marker)
    (hout : mapGet (siteAt (cur s) x y).out o.toNat = none) :
    ∃ z, exec (.roundMarkerArrival (.site x y) i.toNat) s = .next z ∧
      (siteAt (cur z) x y).queue i.toNat = ((siteAt (cur s) x y).queue i.toNat).drop 1 ∧
      (sl.words = [.swRoute i o n] → (siteAt (cur z) x y).marks = [] ∧
        (mapGet (siteAt (cur z) x y).out o.toNat).map (fun m => (m.kind, m.round)) = some (.marker, t.round)) ∧
      (sl.words = [.swMerge i o j n] → i ≠ j → j.toNat < 4 → mapGet (siteAt (cur z) x y).out o.toNat = none ∧
        (siteAt (cur z) x y).marks = [{ kind := .marker, chan := i.toNat, cons := o.toNat, round := t.round }]) := by
  refine ⟨_, exec_roundMarkerArrival hx hy hslots hen, ?_⟩
  have hpop := popMark_link (k := s.core) hi hsaved hmarks hhead hkind
  have hsite : siteAt (cur (popMark s s.core (.site x y) i.toNat)) x y = recordMark false
      ((siteAt (cur s) x y).setQueue i.toNat (((siteAt (cur s) x y).queue i.toNat).drop 1)) i.toNat t := by
    rw [hpop, cur, setCore_core, coreAt_setCore_same, siteAt_setSite_same]
    rfl
  have hrecorded : ∀ w ins, OneWord (siteAt (cur s) x y) w ins o.toNat → i.toNat ∈ ins →
      siteAt (cur (popMark s s.core (.site x y) i.toNat)) x y = recorded (siteAt (cur s) x y) i.toNat o.toNat t.round := fun w ins h hin =>
    hsite.trans ((h.congr (v := (siteAt (cur s) x y).setQueue i.toNat (((siteAt (cur s) x y).queue i.toNat).drop 1)) rfl).recordMark_marks
      hin hmarks hkind)
  refine ⟨?queue, fun hwords => ?route, fun hwords hij hj => ?merge⟩
  case queue =>
    obtain ⟨hkeep, hqueue⟩ := keepsLinks_forwardAll (s := popMark s s.core (.site x y) i.toNat) (l := [0, 1, 2, 3, 8]) (x := x) (y := y) rfl
    rw [cur, hkeep, hqueue i.toNat (by omega), cur_eq, hsite, queue_recordMark, queue_setQueue_same]
  case route =>
    have hword : OneWord (siteAt (cur s) x y) (.swRoute i o n) [i.toNat] o.toNat :=
      ⟨⟨sl, hslots, hen, hwords⟩, rfl, rfl, ⟨_, rfl⟩, by simpa using hi, ho⟩
    exact forwardAll_route (u := recorded (siteAt (cur s) x y) i.toNat o.toNat t.round) (hword.congr rfl) hsaved hout rfl
      (hrecorded _ _ hword (List.mem_singleton.2 rfl))
  case merge =>
    have hword : OneWord (siteAt (cur s) x y) (.swMerge i o j n) [i.toNat, j.toNat] o.toNat :=
      ⟨⟨sl, hslots, hen, hwords⟩, rfl, rfl, ⟨_, rfl⟩, by simpa using ⟨hi, hj⟩, ho⟩
    have hne : i.toNat ≠ j.toNat := fun h => hij (BitVec.eq_of_toNat_eq h)
    have hsite' := hrecorded _ _ hword List.mem_cons_self
    rw [forwardAll_merge (u := recorded (siteAt (cur s) x y) i.toNat o.toNat t.round) (hword.congr rfl) hne rfl hsite', hsite']
    exact ⟨hout, rfl⟩

-- the round of a looped region ----------------------------------------------------------------------------------------------------

theorem depths_eq_nil {c : Core} {g : Config} (h : statefulNodes c g.place = []) : depths c g = [] := by
  simp [depths, h]

/-- Without a successor no wavefront enters. -/
theorem pushWaves_of_no_succ {c : Core} {r : Nat} {g : Region} (hg : mapGet c.regions r = some g) (hsucc : g.succ = none) :
    pushWaves c r = c := by
  simp only [pushWaves, hg]
  refine foldl_eq_self fun k _ => ?_
  unfold sourceWave
  rw [hg]
  split
  · rename_i g' q hg' hq
    obtain rfl := Option.some.inj hg'
    simp [hsucc]
  · rfl

/-- Puts a token into the output register of a site and side. -/
def putOut (t : Tok) (c : Core) (p : Nat × Nat × Nat) : Core :=
  setSite c p.1 p.2.1 { siteAt c p.1 p.2.1 with out := mapSet (siteAt c p.1 p.2.1).out p.2.2 t }

theorem mapGet_putOut_same (t : Tok) (c : Core) (p : Nat × Nat × Nat) :
    mapGet (siteAt (putOut t c p) p.1 p.2.1).out p.2.2 = some t := by
  rw [putOut, siteAt_setSite_same, mapGet_mapSet_same]

/-- Another register keeps its token, and the one just written has the same token again. -/
theorem mapGet_putOut_of_some {t : Tok} {c : Core} (q : Nat × Nat × Nat) {p : Nat × Nat × Nat}
    (h : mapGet (siteAt c p.1 p.2.1).out p.2.2 = some t) : mapGet (siteAt (putOut t c q) p.1 p.2.1).out p.2.2 = some t := by
  by_cases hkey : siteKey p.1 p.2.1 = siteKey q.1 q.2.1
  · have hsite : ∀ c, siteAt c p.1 p.2.1 = siteAt c q.1 q.2.1 := fun c => by rw [siteAt, hkey, siteAt]
    rw [hsite] at h
    rw [hsite, putOut, siteAt_setSite_same]
    by_cases hside : p.2.2 = q.2.2
    · rw [hside, mapGet_mapSet_same]
    · rw [mapGet_mapSet_other _ _ hside, h]
  · rw [putOut, siteAt_setSite_other _ _ hkey, h]

theorem mapGet_foldl_putOut {t : Tok} {l : List (Nat × Nat × Nat)} {c : Core} {p : Nat × Nat × Nat}
    (h : mapGet (siteAt c p.1 p.2.1).out p.2.2 = some t ∨ p ∈ l) :
    mapGet (siteAt (l.foldl (putOut t) c) p.1 p.2.1).out p.2.2 = some t := by
  induction l generalizing c with
  | nil => simpa using h
  | cons q l ih =>
    refine ih ?_
    rcases h with h | h
    · exact .inl (mapGet_putOut_of_some q h)
    · rcases List.mem_cons.1 h with rfl | h
      · exact .inl (mapGet_putOut_same t c p)
      · exact .inr h

theorem regions_foldl_putOut (t : Tok) (l : List (Nat × Nat × Nat)) (c : Core) : (l.foldl (putOut t) c).regions = c.regions :=
  Loader.foldl_keeps (π := fun c : Core => c.regions) (f := putOut t) (fun _ _ => rfl) l c

/-- A source of a looped region once its round has closed (R218). -/
def reopened (q : Source) : Source :=
  if q.marked then { q with marked := false, round := q.round + 1, turns := q.turns + 1 } else q

/-- A looped region whose round has closed. -/
def roundClosed (g : Region) : Region := { g with depth := 0, signalling := false, sources := g.sources.map reopened }

theorem reopened_eq (q : Source) : reopened q =
    { q with marked := false, round := if q.marked then q.round + 1 else q.round, turns := if q.marked then q.turns + 1 else q.turns } := by
  unfold reopened
  cases q with
  | mk ep round done q marked turns waved => cases marked <;> rfl

/-- Where the output edge ports of a configuration lie. -/
def outSites (g : Config) : List (Nat × Nat × Nat) := (g.edges.filter epOut).map fun e => edgeSite g (epPort e)

/-- The marker of its round (R218). -/
def loopMarker (g : Region) : Tok :=
  bareTok .marker 0 (match g.sources.find? (·.marked) with | some q => q.round | none => 0) 0 g.cfg.place

/-- The state in which the round of region `r` has closed: its marker stands at every output edge port, and its sources reopen. -/
def loopClosed (s : State) (r : Nat) (g : Region) : State :=
  setCur s (updRegion ((outSites g.cfg).foldl (putOut (loopMarker g)) (cur s)) r roundClosed)

section Loop
variable {s : State} {r : Nat} {g : Region} (hg : mapGet (cur s).regions r = some g)
include hg

theorem region_loopClosed : mapGet (cur (loopClosed s r g)).regions r = some (roundClosed g) := by
  have hg' : mapGet ((outSites g.cfg).foldl (putOut (loopMarker g)) (cur s)).regions r = some g := by rw [regions_foldl_putOut, hg]
  rw [loopClosed, cur_setCur, Loader.mapGet_updRegion_same hg']

theorem out_loopClosed {p : Nat × Nat × Nat} (hp : p ∈ outSites g.cfg) :
    mapGet (siteAt (cur (loopClosed s r g)) p.1 p.2.1).out p.2.2 = some (loopMarker g) := by
  have hg' : mapGet ((outSites g.cfg).foldl (putOut (loopMarker g)) (cur s)).regions r = some g := by rw [regions_foldl_putOut, hg]
  rw [loopClosed, cur_setCur, updRegion, hg']
  exact mapGet_foldl_putOut (.inr hp)

/-- LOOP_ROUND_SIGNAL of a looped region that has come to the end of its round, holds no stateful node and no successor, and whose
output edge ports are free. -/
theorem exec_loopRoundSignal (hloop : g.looped = true)
    (hcensus : g.census = 0) (hsucc : g.succ = none) (hmarks : ∀ q ∈ g.sources, q.marked = true ∨ q.done = true)
    (hone : ∃ q ∈ g.sources, q.marked = true) (hstateful : statefulNodes (cur s) g.cfg.place = [])
    (hfree : ∀ p ∈ outSites g.cfg, (siteAt (cur s) p.1 p.2.1).saved = false ∧ mapGet (siteAt (cur s) p.1 p.2.1).out p.2.2 = none) :
    exec (.loopRoundSignal r) s = .next (loopClosed s r g) := by
  have hready : (g.sources.all fun q => q.marked || q.done) = true := by simpa using hmarks
  have hany : (g.sources.any fun q => q.marked) = true := by simpa using hone
  have hblocked : ((outSites g.cfg).any fun p => (siteAt (cur s) p.1 p.2.1).saved || (mapGet (siteAt (cur s) p.1 p.2.1).out p.2.2).isSome) =
      false := by
    rw [List.any_eq_false]
    intro p hp
    obtain ⟨hsaved, hout⟩ := hfree p hp
    simp [hsaved, hout]
  have hregion : mapGet (updRegion ((outSites g.cfg).foldl (putOut (loopMarker g)) (cur s)) r roundClosed).regions r =
      some (roundClosed g) := by
    have h := region_loopClosed hg
    rwa [loopClosed, cur_setCur] at h
  have hwaves := pushWaves_of_no_succ hregion hsucc
  change execLoopRoundSignal r s = _
  simp only [execLoopRoundSignal, hg, hloop, hcensus, hsucc, hready, hany, depths_eq_nil hstateful, Bool.not_true, ne_eq, not_true_eq_false,
    decide_false, Option.isSome_none, Bool.false_and, Bool.or_self, Bool.false_eq_true, if_false, List.isEmpty_nil]
  change Host.Outcome.next (if ((outSites g.cfg).any fun p =>
    (siteAt (cur s) p.1 p.2.1).saved || (mapGet (siteAt (cur s) p.1 p.2.1).out p.2.2).isSome) = true then s else
      setCur s (pushWaves (updRegion ((outSites g.cfg).foldl (putOut (loopMarker g)) (cur s)) r roundClosed) r)) = _
  rw [hblocked, hwaves]
  rfl

end Loop

/-- Settles O30: a marker is recorded for the output port that its link feeds, which forwards it once it has come on every input; a
looped region's round closes with its marker at every output edge port. -/
theorem roundsClose : Obligations.RoundsClose := by
  unfold Obligations.RoundsClose
  refine ⟨?marker, ?loop⟩
  case marker =>
    intro s x y i o j n t sl hx hy hi ho u hen _ hslots hmarks hsaved hhead hkind _ hout
    exact exec_marker_oneSlot hx hy hi ho hen hslots hmarks hsaved hhead hkind hout
  case loop =>
    intro s r g hg hloop hcensus hsucc hmarks hone hstateful hfree
    have hsites : ∀ p ∈ outSites g.cfg, (siteAt (cur s) p.1 p.2.1).saved = false ∧
        mapGet (siteAt (cur s) p.1 p.2.1).out p.2.2 = none := fun p hp => by
      obtain ⟨e, he, rfl⟩ := List.mem_map.1 hp
      obtain ⟨hmem, hdir⟩ := List.mem_filter.1 he
      exact hfree e hmem hdir
    refine ⟨_, exec_loopRoundSignal hg hloop hcensus hsucc hmarks hone hstateful hsites, ?_, fun e he hdir => ?_⟩
    · rw [region_loopClosed hg, Option.map_some, roundClosed]
      exact congrArg some (List.map_congr_left fun q _ => reopened_eq q)
    · rw [out_loopClosed hg (List.mem_map_of_mem (List.mem_filter.2 ⟨he, hdir⟩))]
      rfl

end Sys2Proof.Fabric
end

section
/-! Stop tokens (R217) and the release of an accumulator that one brings about (R216, R231). -/

namespace Sys2Proof.Fabric

open Sys2Proof Sys2Proof.Machine Sys2Proof.Laws Sys2Proof.Lasting Sys2Proof.Numbers

-- the sum of an accumulator ----------------------------------------------------------------------------------------------------

/-- A sum modulo 2^32 does not depend on how its terms are read (R231). -/
theorem ofInt_sum {f : W32 → Int} (hf : ∀ v, BitVec.ofInt 32 (f v) = v) (vs : List W32) : BitVec.ofInt 32 (vs.map f).sum = vs.sum := by
  induction vs with
  | nil => rfl
  | cons v vs ih => rw [List.map_cons, List.sum_cons, List.sum_cons, BitVec.ofInt_add, hf, ih]

theorem ofInt_ival (t : Nat) (v : W32) : BitVec.ofInt 32 (ival t v) = v := by
  unfold ival
  split
  · exact BitVec.ofInt_toInt
  · rw [BitVec.ofInt_natCast, BitVec.ofNat_toNat, BitVec.setWidth_eq]

section Sum
variable {sl : Slot} (vs : List W32)

/-- An integer addition fits the exact sum into its type. -/
theorem accValue_sum (hop : Stg.op sl.word0 = 0) (hty : Stg.ty sl.word0 ≤ 1) :
    (accValue sl vs).1 = fitT (Stg.ty sl.word0) (Stg.sat sl.word0) (vs.map (ival (Stg.ty sl.word0))).sum := by
  simp only [accValue, hop, isInt, hty, decide_true, if_true]

theorem accValue_wraps (hop : Stg.op sl.word0 = 0) (hty : Stg.ty sl.word0 ≤ 1) (hsat : Stg.sat sl.word0 = false) :
    (accValue sl vs).1 = BitVec.ofInt 32 ((vs.map fun v => v.toInt).sum) := by
  rw [accValue_sum vs hop hty, fitT, hsat, if_neg Bool.false_ne_true, ofInt_sum (ofInt_ival _), ofInt_sum fun _ => BitVec.ofInt_toInt]

theorem accValue_clampsSigned (hop : Stg.op sl.word0 = 0) (hsat : Stg.sat sl.word0 = true) (hty : Stg.ty sl.word0 = 0) :
    (accValue sl vs).1 = BitVec.ofInt 32 (max (-2 ^ 31) (min (2 ^ 31 - 1) ((vs.map fun v => v.toInt).sum))) := by
  rw [accValue_sum vs hop (by omega), fitT, hsat, if_pos rfl, hty, clamp_eq (intLo_le_intHi _ _)]
  rfl

theorem accValue_clampsUnsigned (hop : Stg.op sl.word0 = 0) (hsat : Stg.sat sl.word0 = true) (hty : Stg.ty sl.word0 = 1) :
    (accValue sl vs).1 = BitVec.ofNat 32 (min (2 ^ 32 - 1) ((vs.map fun v => v.toNat).sum)) := by
  have hsum : (vs.map (ival 1)).sum = (((vs.map fun v => v.toNat).sum : Nat) : Int) := by
    rw [Nat.cast_list_sum, List.map_map]
    rfl
  rw [accValue_sum vs hop (by omega), fitT, hsat, if_pos rfl, hty, clamp_eq (intLo_le_intHi _ _), hsum, ← BitVec.ofInt_natCast]
  congr 1
  rw [show intLo 32 (1 == 0) = 0 from rfl, show intHi 32 (1 == 0) = 2 ^ 32 - 1 from rfl]
  omega

end Sum

-- what a slot sends -----------------------------------------------------------------------------------------------------------

theorem kindOk_congr {t t' : Tok} (h : t.kind = t'.kind) (w : Instr) : kindOk t w = kindOk t' w := by
  unfold kindOk
  rw [h]

/-- What a slot of a site sends stands at port local where a word takes it from there. -/
theorem emitTok_of_word {s : State} {k x y n : Nat} {t : Tok} {w : Instr} (hword : (siteAt (coreAt s k) x y).wordFor n 4 = some w)
    (hkind : kindOk t w = true) :
    (emitTok s k (.site x y) n t).core = s.core ∧
    siteAt (coreAt (emitTok s k (.site x y) n t) k) x y = (siteAt (coreAt s k) x y).push 4 { t with slot := n } := by
  have hkind' : kindOk { t with slot := n } w = true := (kindOk_congr rfl w).trans hkind
  simp only [emitTok, isNode, unitAt_site, setUnit_site, hword, hkind', Bool.false_eq_true, if_false, if_true, setCore_core,
    coreAt_setCore_same, siteAt_setSite_same, and_self]

-- release -------------------------------------------------------------------------------------------------------------------

/-- The lane that an accumulator of slot `sl` leaves as: null where no value came (R216). -/
def releasedLane (sl : Slot) (a : Option Acc) : Lane :=
  match a with
  | some a => if a.vals = [] then ⟨0, true⟩ else ⟨a.res.getD (accValue sl a.vals).1, false⟩
  | none => ⟨0, true⟩

/-- The accumulator of slot `n` for round `r`. -/
def isAcc (n : Nat) (r : BitVec 8) (a : Acc) : Bool := a.slot == n && a.round == r

/-- The run that an accumulator leaves as (R216; its frame is log entry 25). -/
def releasedRun (c : Core) (u : FUnit) (n : Nat) (r : BitVec 8) : Tok :=
  { bareTok .run n r (fabricCtx c) u.place with tags := [0], lanes := [releasedLane (u.slot n) (u.accs.find? (isAcc n r))] }

/-- A site from which the accumulator of slot `n` for round `r` has left: the run stands at port local, other accumulators and the
words stay. -/
structure Released (c : Core) (u v : FUnit) (n : Nat) (r : BitVec 8) : Prop where
  queue : v.queue 4 = u.queue 4 ++ [releasedRun c u n r]
  accs : v.accs = u.accs.filter fun a => !isAcc n r a
  word : v.wordFor n 4 = u.wordFor n 4

/-- The words of a slot do not depend on its LFSR. -/
theorem wordFor_lfsr (u : FUnit) (n p : Nat) (l : Half) :
    FUnit.wordFor { u with slots := mapSet u.slots n { u.slot n with lfsr := l } } n p = u.wordFor n p := by
  have hslot : FUnit.slot { u with slots := mapSet u.slots n { u.slot n with lfsr := l } } n = { u.slot n with lfsr := l } := by
    rw [FUnit.slot, mapGetD, mapGet_mapSet_same, Option.getD_some]
  simp only [FUnit.wordFor, hslot]
  rfl

/-- The core after an accumulator has left: `l` is the slot's LFSR then, `f` the flags that rounding the sum raised. -/
def releasedCore (c : Core) (x y n : Nat) (r : BitVec 8) (l : Half) (f : Flags) : Core :=
  census (raisePlace (setSite c x y (dropAcc { siteAt c x y with
    slots := mapSet (siteAt c x y).slots n { (siteAt c x y).slot n with lfsr := l } } n r)) (siteAt c x y).place f) (siteAt c x y).place 1

theorem releaseAcc_eq (s : State) (k x y n : Nat) (r : BitVec 8) :
    ∃ l f, releaseAcc s k x y n r (fabricCtx (coreAt s k)) (siteAt (coreAt s k) x y).place =
      emitTok (setCore s k (releasedCore (coreAt s k) x y n r l f)) k (.site x y) n
        (releasedRun (coreAt s k) (siteAt (coreAt s k) x y) n r) := by
  unfold releaseAcc releasedRun
  dsimp only
  cases hfind : (siteAt (coreAt s k) x y).accs.find? (isAcc n r) with
  | none =>
    have hfind' : ((siteAt (coreAt s k) x y).accs.find? fun a => a.slot == n && a.round == r) = none := hfind
    simp only [hfind', releasedLane]
    exact ⟨_, _, rfl⟩
  | some a =>
    have hfind' : ((siteAt (coreAt s k) x y).accs.find? fun a => a.slot == n && a.round == r) = some a := hfind
    cases hvals : a.vals <;> cases hres : a.res <;> simp only [hfind', hvals, hres, releasedLane, Option.bind_some] <;>
      exact ⟨_, _, rfl⟩

theorem release_acc {s : State} {k x y n : Nat} {r : BitVec 8} {w : Instr}
    (howner : isOwner (.site x y) ((siteAt (coreAt s k) x y).slot n) = false)
    (hstateful : stateful (.site x y) ((siteAt (coreAt s k) x y).slot n) = true)
    (hword : (siteAt (coreAt s k) x y).wordFor n 4 = some w) (hkind : ∀ t, t.kind = .run → kindOk t w = true) :
    (releaseState s k (.site x y) n r).core = s.core ∧
    Released (coreAt s k) (siteAt (coreAt s k) x y) (siteAt (coreAt (releaseState s k (.site x y) n r) k) x y) n r := by
  obtain ⟨l, f, hrel⟩ := releaseAcc_eq s k x y n r
  have hstate : releaseState s k (.site x y) n r = releaseAcc s k x y n r (fabricCtx (coreAt s k)) (siteAt (coreAt s k) x y).place := by
    simp only [releaseState, unitAt_site, howner, hstateful, Bool.false_eq_true, if_false, if_true]
    rfl
  have hsite : siteAt (coreAt (setCore s k (releasedCore (coreAt s k) x y n r l f)) k) x y = dropAcc { siteAt (coreAt s k) x y with
      slots := mapSet (siteAt (coreAt s k) x y).slots n { (siteAt (coreAt s k) x y).slot n with lfsr := l } } n r := by
    rw [coreAt_setCore_same, releasedCore, siteAt_census, siteAt_raisePlace, siteAt_setSite_same]
  have hword' : (siteAt (coreAt (setCore s k (releasedCore (coreAt s k) x y n r l f)) k) x y).wordFor n 4 = some w := by
    rw [hsite, ← hword]
    exact wordFor_lfsr _ _ _ _
  obtain ⟨hcore, hemit⟩ := emitTok_of_word hword' (hkind (releasedRun (coreAt s k) (siteAt (coreAt s k) x y) n r) rfl)
  rw [hstate, hrel, hcore, hemit, hsite]
  exact ⟨rfl, queue_push_same _ _ _, rfl, wordFor_lfsr _ _ _ _⟩

-- the stop token -----------------------------------------------------------------------------------------------------------

/-- The state in which the token at the head of the unit's slot inputs has left it. -/
def goneHead (s : State) (unit : UnitId) (idx : Nat) : State :=
  setCur s (setUnit (cur s) unit (dropHead (unitAt (cur s) unit) unit idx))

/-- A consumed token leaves the census of core `k` (R219). -/
def consumed (s : State) (k : Nat) (t : Tok) : State := updCore s k fun c => census c t.place (-1)

/-- What SACT makes of a stop token at input 0 (R217). -/
def sacted (s : State) (k : Nat) (unit : UnitId) (n sact : Nat) (t : Tok) : State :=
  match sact with
  | 0 => emitTok s k unit n t
  | 1 => consumed s k t
  | _ => if t.level ≤ 1 then consumed s k t else emitTok s k unit n { t with level := t.level - 1 }

/-- A slot releases at a stop token of level `l` (R216). -/
def releases (unit : UnitId) (sl : Slot) (l : Nat) : Bool := stateful unit sl && sl.acc && sl.slev ≠ 0 && sl.slev ≤ l

theorem releases_iff {unit : UnitId} {sl : Slot} {l : Nat} :
    releases unit sl l = true ↔ isNode unit = false ∧ sl.en = true ∧ sl.acc = true ∧ sl.slev ≠ 0 ∧ sl.slev ≤ l := by
  simp only [releases, stateful, isOwner, Bool.and_eq_true, Bool.or_eq_true, Bool.not_eq_true', decide_eq_true_eq]
  tauto

section Stop
variable {s : State} {unit : UnitId} {idx : Nat} {q : Waiting} (hok : unitOk unit = true)
  (hhead : slotHead (cur s) unit idx = some q) (hkind : q.tok.kind = .stop) (hstore : (unitAt (cur s) unit).store = [])
  (hready : (unitAt (cur s) unit).ready = []) (hmarks : (unitAt (cur s) unit).marks = []) (hsaved : (unitAt (cur s) unit).saved = false)
  (hflights : (cur s).flights = []) (hparked : (cur s).parked = []) (hspace : resultSpace (cur s) unit q.slot = true)
include hok hhead hkind hstore hready hmarks hsaved hflights hparked hspace

/-- A stop token at an idle slot: at another input than 0 it is consumed; at input 0 the slot releases where it is due, and then SACT
applies. -/
theorem exec_stopToken : exec (.stopToken unit idx) s = .next (
    if q.inp ≠ 0 then consumed (goneHead s unit idx) s.core q.tok
    else sacted (if releases unit ((unitAt (cur s) unit).slot q.slot) q.tok.level then
        releaseState (goneHead s unit idx) s.core unit q.slot q.tok.round else goneHead s unit idx)
      s.core unit q.slot ((unitAt (cur s) unit).slot q.slot).sact q.tok) := by
  have hheld : roundHeld (isNode unit) (unitAt (cur s) unit) q.slot q.tok.round = false := by simp [roundHeld, hmarks]
  have hstop : (q.tok.kind != .stop) = false := by rw [hkind]; rfl
  have hpk : parkedOf (cur s) unit q.slot (fun _ => true) = false := by simp [parkedOf, hparked]
  change execStopToken unit idx s = _
  simp only [execStopToken, hok, hhead, hstop, hstore, hready, hsaved, hflights, hheld, hpk, hspace, List.any_nil,
    Bool.or_self, Bool.not_true, Bool.false_eq_true, if_false]
  rfl

theorem exec_stopToken_other (hinp : q.inp ≠ 0) :
    exec (.stopToken unit idx) s = .next (consumed (goneHead s unit idx) s.core q.tok) := by
  rw [exec_stopToken hok hhead hkind hstore hready hmarks hsaved hflights hparked hspace, if_pos hinp]

theorem exec_stopToken_undue (hinp : q.inp = 0) (hdue : releases unit ((unitAt (cur s) unit).slot q.slot) q.tok.level = false) :
    exec (.stopToken unit idx) s = .next (sacted (goneHead s unit idx) s.core unit q.slot ((unitAt (cur s) unit).slot q.slot).sact q.tok) := by
  rw [exec_stopToken hok hhead hkind hstore hready hmarks hsaved hflights hparked hspace, if_neg (not_not.2 hinp), hdue,
    if_neg Bool.false_ne_true]

theorem exec_stopToken_due (hinp : q.inp = 0) (hdue : releases unit ((unitAt (cur s) unit).slot q.slot) q.tok.level = true) :
    exec (.stopToken unit idx) s = .next (sacted (releaseState (goneHead s unit idx) s.core unit q.slot q.tok.round) s.core unit q.slot
      ((unitAt (cur s) unit).slot q.slot).sact q.tok) := by
  rw [exec_stopToken hok hhead hkind hstore hready hmarks hsaved hflights hparked hspace, if_neg (not_not.2 hinp), if_pos hdue]

end Stop

-- SACT, case by case
section Sact
variable {s : State} {k n sact : Nat} {unit : UnitId} {t : Tok}

theorem sacted_consumes (h : sact = 1) : sacted s k unit n sact t = consumed s k t := by rw [h]; rfl

theorem sacted_last (h : 2 ≤ sact) (hl : t.level ≤ 1) : sacted s k unit n sact t = consumed s k t := by
  obtain ⟨m, rfl⟩ : ∃ m, sact = m + 2 := ⟨sact - 2, by omega⟩
  exact if_pos hl

theorem sacted_lowers (h : 2 ≤ sact) (hl : 1 < t.level) :
    sacted s k unit n sact t = emitTok s k unit n { t with level := t.level - 1 } := by
  obtain ⟨m, rfl⟩ : ∃ m, sact = m + 2 := ⟨sact - 2, by omega⟩
  exact if_neg (by omega)

/-- The tokens that SACT leaves at port local. -/
def leftBySact (n sact : Nat) (t : Tok) : List Tok :=
  if sact = 0 then [{ t with slot := n }] else if 2 ≤ sact ∧ 1 < t.level then [{ t with slot := n, level := t.level - 1 }] else []

theorem site_consumed (s : State) (k x y : Nat) (t : Tok) :
    siteAt (coreAt (consumed s k t) k) x y = siteAt (coreAt s k) x y := by
  rw [consumed, updCore, coreAt_setCore_same, siteAt_census]

/-- At a site whose word for local handles the token SACT changes nothing but the census and the queue of port local. -/
theorem site_sacted {x y : Nat} {w : Instr} (hword : (siteAt (coreAt s k) x y).wordFor n 4 = some w) (hkind : kindOk t w = true) :
    (sacted s k (.site x y) n sact t).core = s.core ∧
    (siteAt (coreAt (sacted s k (.site x y) n sact t) k) x y).queue 4 = (siteAt (coreAt s k) x y).queue 4 ++ leftBySact n sact t ∧
    (siteAt (coreAt (sacted s k (.site x y) n sact t) k) x y).accs = (siteAt (coreAt s k) x y).accs := by
  have hconsumed : (consumed s k t).core = s.core ∧
      (siteAt (coreAt (consumed s k t) k) x y).queue 4 = (siteAt (coreAt s k) x y).queue 4 ++ [] ∧
      (siteAt (coreAt (consumed s k t) k) x y).accs = (siteAt (coreAt s k) x y).accs := by
    rw [site_consumed, List.append_nil]
    exact ⟨rfl, rfl, rfl⟩
  have hemitted : ∀ t', t'.kind = t.kind → (emitTok s k (.site x y) n t').core = s.core ∧
      (siteAt (coreAt (emitTok s k (.site x y) n t') k) x y).queue 4 =
        (siteAt (coreAt s k) x y).queue 4 ++ [{ t' with slot := n }] ∧
      (siteAt (coreAt (emitTok s k (.site x y) n t') k) x y).accs = (siteAt (coreAt s k) x y).accs := fun t' ht' => by
    obtain ⟨hcore, hsite⟩ := emitTok_of_word hword ((kindOk_congr ht' w).trans hkind)
    rw [hsite]
    exact ⟨hcore, queue_push_same _ _ _, rfl⟩
  match sact with
  | 0 => exact hemitted t rfl
  | 1 => exact hconsumed
  | m + 2 =>
    rcases Nat.lt_or_ge 1 t.level with hl | hl
    · rw [sacted_lowers (by omega) hl, leftBySact, if_neg (by omega), if_pos ⟨by omega, hl⟩]
      exact hemitted _ rfl
    · rw [sacted_last (by omega) hl, leftBySact, if_neg (by omega), if_neg (by omega)]
      exact hconsumed

end Sact

/-- The core whose slot input has lost its head: nothing else of it changes. -/
theorem coreAt_goneHead (s : State) (x y idx : Nat) : coreAt (goneHead s (.site x y) idx) s.core =
    setSite (cur s) x y { siteAt (cur s) x y with unitq := dropNth (siteAt (cur s) x y).unitq idx } :=
  cur_setCur s _

/-- A release at a stop token of its level: the run leaves ahead of what SACT leaves of the stop token (R216). -/
theorem site_released_sacted {s : State} {x y idx n sact : Nat} {r : BitVec 8} {t : Tok} {w : Instr}
    (howner : isOwner (.site x y) ((siteAt (cur s) x y).slot n) = false)
    (hstateful : stateful (.site x y) ((siteAt (cur s) x y).slot n) = true)
    (hword : (siteAt (cur s) x y).wordFor n 4 = some w) (hstop : kindOk t w = true) (hrun : kindOk { t with kind := .run } w = true) :
    (siteAt (cur (sacted (releaseState (goneHead s (.site x y) idx) s.core (.site x y) n r) s.core (.site x y) n sact t)) x y).queue 4 =
      (siteAt (cur s) x y).queue 4 ++ releasedRun (cur s) (siteAt (cur s) x y) n r :: leftBySact n sact t ∧
    (siteAt (cur (sacted (releaseState (goneHead s (.site x y) idx) s.core (.site x y) n r) s.core (.site x y) n sact t)) x y).accs =
      (siteAt (cur s) x y).accs.filter fun a => !isAcc n r a := by
  have hsite : siteAt (coreAt (goneHead s (.site x y) idx) s.core) x y =
      { siteAt (cur s) x y with unitq := dropNth (siteAt (cur s) x y).unitq idx } := by
    rw [coreAt_goneHead, siteAt_setSite_same]
  obtain ⟨hcore, hqueue, haccs, hkeep⟩ := release_acc (s := goneHead s (.site x y) idx) (k := s.core) (x := x) (y := y) (n := n) (r := r)
    (w := w) (by rw [hsite]; exact howner) (by rw [hsite]; exact hstateful) (by rw [hsite]; exact hword)
    fun t' ht' => (kindOk_congr ht' w).trans hrun
  rw [hsite] at hqueue haccs hkeep
  rw [coreAt_goneHead] at hqueue
  obtain ⟨hcore', hqueue', haccs'⟩ := site_sacted (n := n) (sact := sact) (hkeep.trans hword) hstop
  have hcur : cur (sacted (releaseState (goneHead s (.site x y) idx) s.core (.site x y) n r) s.core (.site x y) n sact t) =
      coreAt (sacted (releaseState (goneHead s (.site x y) idx) s.core (.site x y) n r) s.core (.site x y) n sact t) s.core :=
    congrArg (coreAt _) (hcore'.trans hcore)
  rw [hcur, hqueue', hqueue, haccs', haccs, List.append_assoc]
  exact ⟨rfl, rfl⟩

-- the obligation -----------------------------------------------------------------------------------------------------------

/-- Settles O31: a stop token is consumed or sent on by its slot's SACT, after the release it is due to bring about. That the released
run carries frame 0 (log entry 25) and that it leaves while a control token waits (log entry 91) are the model's choices. -/
theorem stopTokensAct : Obligations.StopTokensAct := by
  unfold Obligations.StopTokensAct
  refine ⟨fun s unit idx q hok hhead hkind hstore hready hmarks hsaved hflights hparked hspace => ?_,
    fun sl vs hop hty => ⟨accValue_wraps vs hop hty, accValue_clampsSigned vs hop, accValue_clampsUnsigned vs hop⟩⟩
  refine ⟨exec_stopToken_other hok hhead hkind hstore hready hmarks hsaved hflights hparked hspace, fun hinp hdue => ?_, ?_⟩
  · have hundue := exec_stopToken_undue hok hhead hkind hstore hready hmarks hsaved hflights hparked hspace hinp
      (Bool.eq_false_iff.2 fun h => hdue (releases_iff.1 h))
    rw [hundue]
    refine ⟨fun h => ?_, fun h => ?_, fun h hl => ?_, fun h hl => ?_⟩
    · rw [h]
      rfl
    · rw [sacted_consumes h]
      rfl
    · rw [sacted_last h hl]
      rfl
    · rw [sacted_lowers h hl]
      rfl
  · rintro x y w rfl hinp hdue howner hword hstop hrun
    have hstateful : stateful (.site x y) ((siteAt (cur s) x y).slot q.slot) = true := by
      obtain ⟨-, hen, hacc, -⟩ := hdue
      exact Bool.and_eq_true_iff.2 ⟨hen, Bool.or_eq_true_iff.2 (.inl (Bool.and_eq_true_iff.2 ⟨hacc, rfl⟩))⟩
    exact ⟨_, exec_stopToken_due hok hhead hkind hstore hready hmarks hsaved hflights hparked hspace hinp (releases_iff.2 hdue),
      site_released_sacted howner hstateful hword hstop hrun⟩

end Sys2Proof.Fabric
end

section
/-! The ends of work: a region's phase end (R213, R214, R220), the replay of a parked fault (R193) and the completion of a command
(R158). -/

namespace Sys2Proof.Fabric

open Sys2Proof Sys2Proof.Machine Sys2Proof.Laws Sys2Proof.Lasting Sys2Proof.Loader

-- closing the sources of a region ------------------------------------------------------------------------------------------------

/-- A source of region `g` that has made its final marker (R214). -/
def closed (g : Region) (q : Source) : Source :=
  if q.done then q
  else if g.looped then { q with marked := true, done := q.done || true }
  else { q with q := q.q ++ [bareTok .marker 0 q.round 0 g.cfg.place], round := q.round + 1, turns := q.turns + 1, done := q.done || true }

theorem closed_done (g : Region) (q : Source) : (closed g q).done = true := by
  unfold closed
  split
  · assumption
  · split <;> exact Bool.or_true _

/-- The tokens of a closed source are its own, and a marker of its round. -/
theorem round_of_mem_closed {g : Region} {q : Source} {t : Tok} (h : t ∈ (closed g q).q) : t ∈ q.q ∨ t.round = q.round := by
  unfold closed at h
  split at h
  · exact .inl h
  · split at h
    · exact .inl h
    · rcases List.mem_append.1 h with h | h
      · exact .inl h
      · exact .inr (congrArg Tok.round (List.mem_singleton.1 h))

/-- The sources of `g` when the first `j` of them are closed. -/
def closedTo (g : Region) (j : Nat) : List Source := (g.sources.take j).map (closed g) ++ g.sources.drop j

theorem closedTo_all (g : Region) : closedTo g g.sources.length = g.sources.map (closed g) := by simp [closedTo]

theorem mapNth_append_cons {α : Type} (f : α → α) (l r : List α) (a : α) : mapNth f l.length (l ++ a :: r) = l ++ f a :: r := by
  induction l with
  | nil => rfl
  | cons b l ih => exact congrArg (b :: ·) ih

section Step
variable {g : Region} {j : Nat} (hj : j < g.sources.length)
include hj

theorem closedTo_split : closedTo g j = (g.sources.take j).map (closed g) ++ g.sources[j] :: g.sources.drop (j + 1) := by
  rw [closedTo, List.drop_eq_getElem_cons hj]

theorem length_closed_take : ((g.sources.take j).map (closed g)).length = j := by
  rw [List.length_map, List.length_take, Nat.min_eq_left hj.le]

theorem closedTo_get : (closedTo g j)[j]? = some g.sources[j] := by
  rw [closedTo_split hj, List.getElem?_append_right (length_closed_take hj).le, length_closed_take hj, Nat.sub_self]
  rfl

theorem closedTo_succ : mapNth (closed g) j (closedTo g j) = closedTo g (j + 1) := by
  have h := mapNth_append_cons (closed g) ((g.sources.take j).map (closed g)) (g.sources.drop (j + 1)) g.sources[j]
  rw [length_closed_take hj] at h
  rw [closedTo_split hj, h, closedTo, ← List.take_append_getElem hj, List.map_append, List.append_assoc]
  rfl

/-- Where source `j` is closed already, closing it changes nothing. -/
theorem closedTo_succ_of_done (hdone : g.sources[j].done = true) : closedTo g (j + 1) = closedTo g j := by
  have hsame : closed g g.sources[j] = g.sources[j] := if_pos hdone
  rw [closedTo_split hj, closedTo, ← List.take_append_getElem hj, List.map_append, List.append_assoc, List.map_singleton, hsame]
  rfl

end Step

theorem mem_closedTo {g : Region} {j : Nat} {q : Source} (h : q ∈ closedTo g j) : ∃ o ∈ g.sources, q = o ∨ q = closed g o := by
  rcases List.mem_append.1 h with h | h
  · obtain ⟨o, ho, rfl⟩ := List.mem_map.1 h
    exact ⟨o, List.mem_of_mem_take ho, .inr rfl⟩
  · exact ⟨q, List.mem_of_mem_drop h, .inl rfl⟩

/-- Core `c'` is `c` with the first `j` sources of region `r`, which is `g`, closed. -/
structure Closing (c : Core) (r : Nat) (g : Region) (j : Nat) (c' : Core) : Prop where
  rest : sourceless c' = sourceless c
  region : mapGet c'.regions r = some { g with sources := closedTo g j }

section Closing
variable {c c' : Core} {r j : Nat} {g : Region}

theorem closing_zero (hg : mapGet c.regions r = some g) : Closing c r g 0 c := ⟨rfl, hg⟩

theorem Closing.source (h : Closing c r g j c') (hj : j < g.sources.length) : sourceAt c' r j = some g.sources[j] := by
  rw [sourceAt, h.region]
  exact closedTo_get hj

theorem Closing.mark (h : Closing c r g j c') (hj : j < g.sources.length) : Closing c r g (j + 1) (sourceMark c' r j true) where
  rest := (sourceless_sourceMark c' r j true).trans h.rest
  region := by
    have hmark : sourceMark c' r j true = updSource c' r j (closed g) := by rw [sourceMark, h.region]; rfl
    rw [hmark, updSource, mapGet_updRegion_same h.region]
    exact congrArg (fun l => some { g with sources := l }) (closedTo_succ hj)

/-- The rounds whose markers are on their way grow by rounds of sources only. -/
theorem Closing.mem_openRounds (h : Closing c r g j c') (hg : mapGet c.regions r = some g) {o : BitVec 8} (ho : o ∈ openRounds c' r) :
    o ∈ openRounds c r ∨ ∃ q ∈ g.sources, o = q.round := by
  have hsites : c'.sites = c.sites := congrArg (fun v => v.1.sites) h.rest
  have hnodes : c'.nodes = c.nodes := congrArg (fun v => v.1.nodes) h.rest
  have hmx : c'.mx = c.mx := congrArg (fun v => v.1.mx) h.rest
  simp only [openRounds, h.region, hg, hsites, hnodes, hmx, List.mem_append] at ho ⊢
  rcases ho with ho | ho
  · exact .inl (.inl ho)
  · obtain ⟨q, hq, ho⟩ := List.mem_flatMap.1 ho
    obtain ⟨t, ht, rfl⟩ := List.mem_map.1 ho
    obtain ⟨ht, hmine⟩ := List.mem_filter.1 ht
    have hown : ∀ q ∈ g.sources, t ∈ q.q → t.round ∈ g.sources.flatMap fun q =>
        (q.q.filter fun t => t.place == g.cfg.place && t.kind == .marker).map (·.round) := fun q hq ht =>
      List.mem_flatMap.2 ⟨q, hq, List.mem_map_of_mem (List.mem_filter.2 ⟨ht, hmine⟩)⟩
    obtain ⟨o, hmem, rfl | rfl⟩ := mem_closedTo hq
    · exact .inl (.inr (hown _ hmem ht))
    · rcases round_of_mem_closed ht with ht | ht
      · exact .inl (.inr (hown o hmem ht))
      · exact .inr ⟨o, hmem, ht⟩

/-- A source that may stand in its round still may once other sources have closed. -/
theorem Closing.startable (h : Closing c r g j c') (hg : mapGet c.regions r = some g) {q : Source} (hstart : mayStart c r q = true)
    (hrounds : ∀ o ∈ g.sources, (q.round - o.round).toNat ≠ 128) : mayStart c' r q = true := by
  simp only [mayStart, hg, h.region, Bool.and_eq_true, List.all_eq_true, bne_iff_ne] at hstart ⊢
  obtain ⟨hopen, hturns⟩ := hstart
  refine ⟨fun o ho => ?_, fun o ho => ?_⟩
  · rcases h.mem_openRounds hg ho with ho | ⟨o, hmem, rfl⟩
    · exact hopen _ ho
    · exact hrounds o hmem
  · obtain ⟨o, hmem, rfl | rfl⟩ := mem_closedTo ho
    · exact hturns _ hmem
    · rw [closed_done]
      rfl

end Closing

section Settle
variable {c : Core} {r : Nat} {g : Region} (hg : mapGet c.regions r = some g) (hsucc : g.succ = none) (hdrained : g.drained = true)
  (hsaving : c.saving = false)
  (hstart : ∀ q ∈ g.sources, mayStart c r q = true ∧ ∀ o ∈ g.sources, (q.round - o.round).toNat ≠ 128)
  (hentry : ∀ q ∈ g.sources, ∃ i, fedBy g q.ep = some (.entry i))

/-- What `settleSources` does at one source. -/
def settleOne (r : Nat) (g : Region) (c : Core) (k : Nat) : Core :=
  match sourceAt c r k with
  | some q => if !q.done && sourceEnds c g q && sourceFree c r k then closeSource c r k else c
  | none => c

theorem settleSources_eq (hg : mapGet c.regions r = some g) :
    settleSources c r = pushWaves ((List.range g.sources.length).foldl (settleOne r g) c) r := by
  rw [settleSources, hg]
  rfl

include hg hsucc hdrained hsaving hstart hentry

/-- One source more closes. -/
theorem Closing.closes_next {c' : Core} {j : Nat} (h : Closing c r g j c') (hj : j < g.sources.length) :
    Closing c r g (j + 1) (settleOne r g c' j) := by
  have hsource := h.source hj
  have hmem : g.sources[j] ∈ g.sources := List.getElem_mem hj
  rw [settleOne, hsource]
  dsimp only
  cases hdone : g.sources[j].done with
  | true => exact ⟨h.rest, by rw [closedTo_succ_of_done hj hdone]; exact h.region⟩
  | false =>
    have hends : sourceEnds c' g g.sources[j] = true := by
      obtain ⟨i, hi⟩ := hentry _ hmem
      rw [sourceEnds, hi]
      exact hdrained
    have hfree : sourceFree c' r j = true := by
      obtain ⟨hmay, hrounds⟩ := hstart _ hmem
      have hsaving' : c'.saving = false := (congrArg (fun v => v.1.saving) h.rest).trans hsaving
      rw [sourceFree, hsource, Option.any_some, h.startable hg hmay hrounds, hsaving']
      rfl
    have hclose : closeSource c' r j = sourceMark c' r j true := by
      rw [closeSource, hsource]
      simp only [hdone, Bool.false_eq_true, if_false, sourceWave, (h.mark hj).region]
      split
      · rename_i g' q hg' hq
        obtain rfl := Option.some.inj hg'
        simp [hsucc]
      · rfl
    rw [hends, hfree, hclose]
    exact h.mark hj

theorem closing_fold {j : Nat} (hj : j ≤ g.sources.length) : Closing c r g j ((List.range j).foldl (settleOne r g) c) := by
  induction j with
  | zero => exact closing_zero hg
  | succ j ih =>
    rw [List.range_succ, List.foldl_append]
    exact (ih (by omega)).closes_next hg hsucc hdrained hsaving hstart hentry (by omega)

/-- Every source of the region closes (R213). -/
theorem settleSources_closes : Closing c r g g.sources.length (settleSources c r) := by
  have h := closing_fold hg hsucc hdrained hsaving hstart hentry le_rfl
  rw [settleSources_eq hg, pushWaves_of_no_succ h.region hsucc]
  exact h

end Settle

theorem trySpliceDone_of_no_succ {s : State} {n r : Nat} {g : Region} (hg : mapGet (coreAt s n).regions r = some g)
    (hsucc : g.succ = none) : trySpliceDone s n r = s := by
  simp [trySpliceDone, hg, hsucc]

theorem phaseEnd_exhausts {s : State} {r : Nat} {g : Region} (hg : mapGet (cur s).regions r = some g) (hsucc : g.succ = none)
    (hdrained : g.drained = true) (hcmds : (cur s).cmds = []) (hsaving : (cur s).saving = false)
    (hstart : ∀ q ∈ g.sources, mayStart (cur s) r q = true ∧ ∀ o ∈ g.sources, (q.round - o.round).toNat ≠ 128)
    (hentry : ∀ q ∈ g.sources, ∃ i, fedBy g q.ep = some (.entry i)) :
    ∃ z, exec (.phaseEnd r) s = .next z ∧ mapGet (cur z).regions r = some { g with sources := g.sources.map (closed g) } := by
  have h := settleSources_closes hg hsucc hdrained hsaving hstart hentry
  have hcur : cur (updCur s fun c => settleSources c r) = settleSources (cur s) r := cur_setCur s _
  have hregion : mapGet (cur (updCur s fun c => settleSources c r)).regions r = some { g with sources := g.sources.map (closed g) } := by
    rw [hcur, h.region, closedTo_all]
  have hdone : trySpliceDone (updCur s fun c => settleSources c r) s.core r = updCur s fun c => settleSources c r :=
    trySpliceDone_of_no_succ hregion hsucc
  have hnone : (cur (updCur s fun c => settleSources c r)).cmds = [] := by
    rw [hcur, cmds_of_sourceless h.rest, hcmds]
  refine ⟨_, ?_, hregion⟩
  change execPhaseEnd r s = _
  simp only [execPhaseEnd, hdone, hnone, List.foldl_nil]

-- replay ------------------------------------------------------------------------------------------------------------------------

theorem exec_faultReplay_sequencer {s : State} {p : Parked} (hparked : (cur s).parked = [p]) (hanswer : p.answer = 1)
    (hwho : p.who = .sequencer) : exec (.faultReplay 0) s = .next (replayWho (setCur s { cur s with parked := [] }) s.core .sequencer) := by
  change execFaultReplay 0 s = _
  simp only [execFaultReplay, hparked, hwho, hanswer, mayReplay, List.getElem?_cons_zero]
  rfl

theorem cur_replaySequencer {s : State} (c : Core) (hstall : c.seq.st = .stall) :
    (cur (replayWho (setCur s c) s.core .sequencer)).parked = c.parked ∧
    (cur (replayWho (setCur s c) s.core .sequencer)).seq.st = .run ∧
    (cur (replayWho (setCur s c) s.core .sequencer)).seq.pc = c.seq.pc := by
  have hcore : coreAt (setCur s c) s.core = c := cur_setCur s c
  have hcur : cur (replayWho (setCur s c) s.core .sequencer) = { c with seq := { c.seq with
      st := if c.seq.st == .stall then .run else c.seq.st, held := if c.seq.held == .stall then .run else c.seq.held } } := by
    simp only [replayWho, updCore, hcore]
    exact cur_setCur _ _
  rw [hcur, hstall]
  exact ⟨rfl, rfl, rfl⟩

-- completion ----------------------------------------------------------------------------------------------------------------------

theorem pennant_setPennant_same {q : Seq} {p v : Nat} (h : p < q.pn.length) : pennant (setPennant q p v) p = v := by
  simp [pennant, setPennant, nthD, h]

theorem pennant_setPennant_other {q : Seq} {p p' v : Nat} (h : p' ≠ p) : pennant (setPennant q p v) p' = pennant q p' := by
  simp [pennant, setPennant, nthD, List.getElem?_set_ne h.symm]

/-- The core after the one outstanding command has completed (R158). -/
def completedCore (c : Core) (m : Cmd) (p : Nat) : Core :=
  { c with
    seq := { setPennant c.seq p (pennant c.seq p - 1) with pf := if m.record then c.seq.pf ||| BitVec.ofNat 8 (2 ^ p) else c.seq.pf }
    cmds := [] }

theorem exec_commandComplete {s : State} {m : Cmd} {p : Nat} (hcmds : (cur s).cmds = [m]) (hphase : m.phase = .finished)
    (hrd : m.rdWait = false) (hpen : m.pen = some p) :
    exec (.commandComplete m.id) s = .next (setCur s (completedCore (cur s) m p)) := by
  have hcmd : cmdAt (cur s) m.id = some m := by simp [cmdAt, hcmds]
  have hcomplete : completeCmd s s.core m.id = setCur s (completedCore (cur s) m p) := by
    have hcmd' : cmdAt (coreAt s s.core) m.id = some m := hcmd
    have hcmds' : (coreAt s s.core).cmds = [m] := hcmds
    simp only [completeCmd, updCore, hcmd', hcmds', hpen, List.filter_cons, bne_self_eq_false, Bool.false_eq_true, if_false,
      List.filter_nil]
    rfl
  have hsettled : pump (setCur s (completedCore (cur s) m p)) s.core = setCur s (completedCore (cur s) m p) := by
    refine Laws.pump_fold_settled _ _ _ fun k hk => ?_
    have hcore : coreAt (setCur s (completedCore (cur s) m p)) s.core = completedCore (cur s) m p := cur_setCur s _
    rw [hcore] at hk
    exact absurd hk List.not_mem_nil
  have hrunning : (m.phase == .running) = false := by rw [hphase]; rfl
  have hfinished : (m.phase == .finished && !m.rdWait) = true := by rw [hphase, hrd]; rfl
  change execCommandComplete m.id s = _
  simp only [execCommandComplete, hcmd, hrunning, hfinished, Bool.false_eq_true, if_false, if_true, hcomplete, hsettled]

-- the obligation -----------------------------------------------------------------------------------------------------------------

/-- Settles O49: the fold over the sources closes them one after another, and what closes behind a source never keeps the next one
from its final marker. -/
theorem enginesFinishTheirWork : Obligations.EnginesFinishTheirWork := by
  unfold Obligations.EnginesFinishTheirWork
  refine fun s => ⟨?_, ?_, ?_⟩
  · intro r g hg hsucc hdrained hcmds hsaving hstart hentry
    obtain ⟨z, hexec, hregion⟩ := phaseEnd_exhausts hg hsucc hdrained hcmds hsaving hstart hentry
    refine ⟨z, hexec, fun x hx q hq => ?_⟩
    obtain rfl := Option.some.inj (hregion.symm.trans hx)
    obtain ⟨o, -, rfl⟩ := List.mem_map.1 hq
    exact closed_done g o
  · intro p hparked hanswer hwho hstall
    exact ⟨_, exec_faultReplay_sequencer hparked hanswer hwho, cur_replaySequencer { cur s with parked := [] } hstall⟩
  · intro m p hcmds hphase hrd hpen _ hlen
    refine ⟨_, exec_commandComplete hcmds hphase hrd hpen, ?_⟩
    rw [cur_setCur]
    exact ⟨rfl, pennant_setPennant_same hlen, fun q hq => pennant_setPennant_other hq, rfl⟩

end Sys2Proof.Fabric
end
